-- ==== Sys2Proof/Word.lean ====
section
/-!
DEFINITION. The word types of the Drisyn instruction set and their plainest arithmetic (11 R320, 10 R293): code
and registers are 32-bit words, memory is bytes, lane masks are 32 bits with bit L for lane L.
-/
namespace Sys2Proof

/-- A 32-bit register or instruction word. -/
abbrev Word := BitVec 32

/-- One byte of memory. -/
abbrev Byte := BitVec 8

/-- A 64-bit value: a register pair. -/
abbrev Dword := BitVec 64

/-- A set of lanes of one warp: bit L stands for lane L (08 R242). -/
abbrev Mask := BitVec 32

/-- A 16-bit code address: slot in [15:14], word within the slot in [13:0] (11 R320). -/
abbrev CodeAddr := BitVec 16

end Sys2Proof
end

