-- ==== Sys2Proof/Config.lean ====
section
/-!
DEFINITION. What the spec leaves open: free values. None of these constants has a body, so nothing can be proved of
its value and a theorem holds for every value it may have. The argument of each is the counter `tick` of the state, or
the operands the value depends on.
-/
namespace Sys2Proof.Config

/-- Which of several possible things happens next, where the spec gives no order (DESIGN CHOICE, log 2). -/
opaque schedule : Nat → Nat

/-- A value the spec leaves undefined (DESIGN CHOICE, log 1). -/
opaque freeWord : Nat → BitVec 32

/-- The hart and the interrupt identity to which the cluster's software has directed an interrupt source (05 R170, R173;
log 81). -/
opaque aplicTarget : Nat → Nat × Nat

/-- A byte the spec leaves undefined (DESIGN CHOICE, log 1). -/
opaque freeByte : Nat → BitVec 8

/-- Which of several NaNs of one origin a reduction takes: of their encodings, the index modulo their number (03 R89;
DESIGN CHOICE, log 63). -/
opaque tiedNan : List Nat → Nat

/-- The ORIGIN that a module gives the result of a slot, by the slot's key (03 Table 3-4; DESIGN CHOICE, log 33). -/
opaque slotOrigin : Nat → Nat

/-- How much time passes before a reading of a clock (DESIGN CHOICE, log 10). -/
opaque elapsed : Nat → Nat

/-- The SHA-384 digest of a byte string (01 R28, R30, R31): the spec names the function and the model leaves it
uninterpreted (DESIGN CHOICE, log 11). -/
opaque sha384 : List (BitVec 8) → BitVec 384

/-- Whether an ECDSA brainpoolP384r1 signature holds: key, digest, signature (DESIGN CHOICE, log 11). -/
opaque ecdsaVerify : BitVec 384 → BitVec 384 → List (BitVec 8) → Bool

/-- Signing with a key (DESIGN CHOICE, log 11). -/
opaque ecdsaSign : BitVec 384 → BitVec 384 → List (BitVec 8)

/-- Deriving one key from another and a measurement (01 R30; DESIGN CHOICE, log 11). -/
opaque deriveKey : BitVec 384 → BitVec 384 → BitVec 384

/-- The measurement of the ROM (01 R31; DESIGN CHOICE, log 11). -/
opaque romDigest : BitVec 384

/-- Where the header of stage 2 lies in the body of a slot's image (01 R28 places it within the slot; DESIGN CHOICE, log 11). -/
opaque stage2Offset : List (BitVec 8) → Nat

/-- The AES-256-GCM key stream of one sealed line and its 96-bit tag: tenant key identifier, IV, and, for the tag, the
encrypted line (02 R70; DESIGN CHOICE, log 11). -/
opaque keystream : Nat → List Nat → List (BitVec 8)
opaque sealTag : Nat → List Nat → List (BitVec 8) → BitVec 96

/-- The certificate that Verwin stored in flash (01 R30; DESIGN CHOICE, log 11). -/
opaque certificate : List (BitVec 8)

end Sys2Proof.Config
end

