-- ==== Sys2Proof/Machine/Map.lean ====
section
/-!
DEFINITION. The one way this model keeps sparse data: a list of (key, value) pairs with rising keys, in which a key
that is not listed reads as a default value and no listed value is that default. Memory is such a list of bytes, a
register file such a list of words, so that equal contents are equal data.
-/
namespace Sys2Proof.Machine

/-- What key `k` reads as; `d` is the value of an unlisted key. -/
def Map.get {α : Type} (d : α) (m : List (Nat × α)) (k : Nat) : α :=
  match m with
  | [] => d
  | (j, y) :: t => if j = k then y else Map.get d t k

/-- The list with `k` taken out. -/
def Map.del {α : Type} (m : List (Nat × α)) (k : Nat) : List (Nat × α) :=
  match m with
  | [] => []
  | (j, y) :: t => if j = k then Map.del t k else (j, y) :: Map.del t k

/-- The list with `(k, x)` at its place in the rising order. -/
def Map.ins {α : Type} (m : List (Nat × α)) (k : Nat) (x : α) : List (Nat × α) :=
  match m with
  | [] => [(k, x)]
  | (j, y) :: t => if k < j then (k, x) :: (j, y) :: t else if k = j then (k, x) :: t else (j, y) :: Map.ins t k x

/-- Write `x` at `k`; writing the default removes the entry. -/
def Map.set {α : Type} [DecidableEq α] (d : α) (m : List (Nat × α)) (k : Nat) (x : α) : List (Nat × α) :=
  if x = d then Map.del m k else Map.ins m k x

/-- The keys rise strictly. -/
def Map.rising {α : Type} : List (Nat × α) → Bool
  | [] => true
  | [_] => true
  | (j, _) :: (k, y) :: t => j < k && Map.rising ((k, y) :: t)

/-- The canonical form: rising keys, and no entry equal to the default. -/
def Map.wf {α : Type} [DecidableEq α] (d : α) (m : List (Nat × α)) : Bool :=
  Map.rising m && m.all (fun e => e.2 ≠ d)

/-- Write a run of values at rising keys. -/
def Map.setMany {α : Type} [DecidableEq α] (d : α) (m : List (Nat × α)) (k : Nat) : List α → List (Nat × α)
  | [] => m
  | x :: t => Map.setMany d (Map.set d m k x) (k + 1) t

/-- Forget every value at the n keys from `k`. -/
def Map.clear {α : Type} (m : List (Nat × α)) (k n : Nat) : List (Nat × α) := m.filter (fun e => e.1 < k || k + n ≤ e.1)

/-- Copy the values of the n keys from `src` to those from `dst`. -/
def Map.copy {α : Type} (m : List (Nat × α)) (src dst n : Nat) : List (Nat × α) :=
  m.filter (fun e => e.1 < dst) ++
    (m.filter (fun e => src ≤ e.1 && e.1 < src + n)).map (fun e => (e.1 - src + dst, e.2)) ++
    m.filter (fun e => dst + n ≤ e.1)

/-- Read a run of `n` values. -/
def Map.getMany {α : Type} (d : α) (m : List (Nat × α)) (k : Nat) : Nat → List α
  | 0 => []
  | n + 1 => Map.get d m k :: Map.getMany d m (k + 1) n

end Sys2Proof.Machine
end

