-- ==== Sys2Proof/Operand.lean ====
section
/-!
DEFINITION. The operand structures of the instruction formats (11 Tables 11-2 to 11-4): each names the fields of
one format, so that an instruction is its constructor and one such structure.
-/
namespace Sys2Proof

/-- The b operand of a lane format, and its c operand (11 R329, Table 11-3): a v register, or with bk = 1 an s
register, an inline constant 64 to 119, or the literal word. -/
inductive LSrc where
  | vreg (r : BitVec 7)
  | sreg (r : BitVec 6)
  | inl (n : BitVec 7)
  | lit (w : Word)
  deriving DecidableEq, Repr

/-- The b operand of a uniform format (11 Table 11-4, R333): an s register, a 9-bit signed immediate other than
0x100, or the literal word. -/
inductive USrc where
  | sreg (r : BitVec 6)
  | imm (n : BitVec 9)
  | lit (w : Word)
  deriving DecidableEq, Repr

/-- Format LA (11 Table 11-2). -/
structure LaOps where
  g : BitVec 3
  d : BitVec 7
  a : BitVec 7
  b : LSrc
  deriving DecidableEq, Repr

/-- Format LX (11 Table 11-2): word 0 as LA; word 1 without its sub-op, which the constructor says. -/
structure LxOps where
  g : BitVec 3
  d : BitVec 7
  a : BitVec 7
  b : LSrc
  c : LSrc
  na : Bool
  nb : Bool
  nc : Bool
  sat : Bool
  rm : BitVec 3
  fs : Bool
  aux : BitVec 8
  deriving DecidableEq, Repr

/-- Format LB (11 Table 11-2): a signed word offset from the branch word. -/
structure LbOps where
  g : BitVec 3
  d : BitVec 7
  off : BitVec 15
  deriving DecidableEq, Repr

/-- `JMPI` (11 R335): the index register, the entry count and the table's code address. -/
structure JmpiOps where
  g : BitVec 3
  a : BitVec 7
  count : BitVec 16
  table : CodeAddr
  deriving DecidableEq, Repr

/-- Word 1 of LM and UM (11 Table 11-2). -/
structure MemFields where
  space : BitVec 4
  size : BitVec 3
  sx : Bool
  policy : BitVec 2
  ord : BitVec 2
  scope : BitVec 3
  fs : Bool
  aop : BitVec 4
  off : BitVec 12
  deriving DecidableEq, Repr

/-- Format LM (11 Table 11-2). -/
structure LmOps where
  g : BitVec 3
  d : BitVec 7
  a : BitVec 7
  b : LSrc
  m : MemFields
  deriving DecidableEq, Repr

/-- Format UA (11 Table 11-4). -/
structure UaOps where
  q : BitVec 3
  d : BitVec 6
  a : BitVec 6
  b : USrc
  deriving DecidableEq, Repr

/-- Format UX (11 Table 11-4): c is an s register with ck = 0 and a 6-bit unsigned immediate with ck = 1; `md` is
the field MOD. -/
structure UxOps where
  q : BitVec 3
  d : BitVec 6
  a : BitVec 6
  b : USrc
  c : BitVec 6
  ck : Bool
  md : BitVec 8
  fs : Bool
  aux : BitVec 8
  deriving DecidableEq, Repr

/-- Format UB (11 Table 11-4). -/
structure UbOps where
  q : BitVec 3
  r : BitVec 6
  off : BitVec 16
  deriving DecidableEq, Repr

/-- `JMPU` (11 R337). -/
structure JmpuOps where
  q : BitVec 3
  r : BitVec 6
  count : BitVec 16
  table : CodeAddr
  deriving DecidableEq, Repr

/-- `CALLX` (11 R337): the link register, the overlay index and the word offset within its home slot. -/
structure CallxOps where
  q : BitVec 3
  r : BitVec 6
  ovl : BitVec 4
  off : BitVec 14
  deriving DecidableEq, Repr

/-- Format UM (11 Table 11-4). -/
structure UmOps where
  q : BitVec 3
  d : BitVec 6
  a : BitVec 6
  b : USrc
  m : MemFields
  deriving DecidableEq, Repr

end Sys2Proof
end

