-- ==== Sys2Proof/Syntax.lean ====
section
/-!
DEFINITION. The instructions and device events of the opcode table: one constructor per row, the word instructions first.
-/
namespace Sys2Proof

/-- Every row of the opcode table: the 175 word instructions of Drisyn, then the 153 device events (what the part, the
host, the runtime or another package does in one step). A word carries its fields; what a device event acts on (which
port, which request) waits in the state's `arg`, as an `EventArg`. -/
inductive Instr where
  /-- R388. Lane integer add modulo 2^32. -/
  | iadd (o : LaOps)
  /-- R388. Lane integer subtract modulo 2^32. -/
  | isub (o : LaOps)
  /-- R388. Lane integer multiply, low 32 bits. -/
  | imul (o : LaOps)
  /-- R388. Lane signed saturating add. -/
  | iadds (o : LaOps)
  /-- R388. Lane signed saturating subtract. -/
  | isubs (o : LaOps)
  /-- R388. Lane signed minimum. -/
  | iminS (o : LaOps)
  /-- R388. Lane unsigned minimum. -/
  | iminU (o : LaOps)
  /-- R388. Lane signed maximum. -/
  | imaxS (o : LaOps)
  /-- R388. Lane unsigned maximum. -/
  | imaxU (o : LaOps)
  /-- R388. Lane bitwise AND. -/
  | and (o : LaOps)
  /-- R388. Lane bitwise OR. -/
  | or (o : LaOps)
  /-- R388. Lane bitwise XOR. -/
  | xor (o : LaOps)
  /-- R388. Lane A AND NOT B. -/
  | andn (o : LaOps)
  /-- R388. Lane shift left, 0 for counts of 32 or more. -/
  | shl (o : LaOps)
  /-- R388. Lane logical shift right. -/
  | shrU (o : LaOps)
  /-- R388. Lane arithmetic shift right. -/
  | shrS (o : LaOps)
  /-- R388. Lane rotate right by B[4:0]. -/
  | rotr (o : LaOps)
  /-- R388. Lane move of operand b. -/
  | mov (o : LaOps)
  /-- R389. Lane FP32 add. -/
  | fadd (o : LaOps)
  /-- R389. Lane FP32 subtract. -/
  | fsub (o : LaOps)
  /-- R389. Lane FP32 multiply. -/
  | fmul (o : LaOps)
  /-- R389. Lane FP32 minimum under R304. -/
  | fmin (o : LaOps)
  /-- R389. Lane FP32 maximum under R304. -/
  | fmax (o : LaOps)
  /-- R389. Lane packed FP16 add. -/
  | hadd2 (o : LaOps)
  /-- R389. Lane packed FP16 multiply. -/
  | hmul2 (o : LaOps)
  /-- R389. Lane packed BF16 add. -/
  | badd2 (o : LaOps)
  /-- R389. Lane packed BF16 multiply. -/
  | bmul2 (o : LaOps)
  /-- R391. Lane signed multiply, high 32 bits. -/
  | imulhiS (o : LxOps)
  /-- R391. Lane unsigned multiply, high 32 bits. -/
  | imulhiU (o : LxOps)
  /-- R391. Lane signed multiply-add, optionally saturating. -/
  | imad (o : LxOps)
  /-- R391. Lane unsigned bit-field extract. -/
  | bfeU (o : LxOps)
  /-- R391. Lane signed bit-field extract. -/
  | bfeS (o : LxOps)
  /-- R391. Lane bit-field insert. -/
  | bfi (o : LxOps)
  /-- R391. Lane population count. -/
  | popc (o : LxOps)
  /-- R391. Lane count of leading zeros. -/
  | clz (o : LxOps)
  /-- R391. Lane bit reverse. -/
  | brev (o : LxOps)
  /-- R391. Lane byte permute with sign replication. -/
  | prmt (o : LxOps)
  /-- R391. Lane A + (B << n). -/
  | lea (o : LxOps)
  /-- R391. Lane three-operand add with negations and optional saturation. -/
  | iadd3 (o : LxOps)
  /-- R391. Lane sum of absolute difference. -/
  | isad (o : LxOps)
  /-- R391. Lane integer compare into a predicate, optionally combined. -/
  | icmp (o : LxOps)
  /-- R391. Lane select by predicate. -/
  | sel (o : LxOps)
  /-- R391. Lane 64-bit add on register pairs. -/
  | iadd64 (o : LxOps)
  /-- R393. Lane FP32 fused multiply-add. -/
  | fma (o : LxOps)
  /-- R395. Lane FP32 compare into a predicate. -/
  | fcmp (o : LxOps)
  /-- R394. Lane FP32 round to integral. -/
  | frnd (o : LxOps)
  /-- R394. Lane FP32 fractional part. -/
  | ffract (o : LxOps)
  /-- R393. Lane FP32 scale by a power of two. -/
  | fscale (o : LxOps)
  /-- R396. Lane FP32 classification mask. -/
  | fclass (o : LxOps)
  /-- R397. Lane correctly rounded reciprocal. -/
  | rcp (o : LxOps)
  /-- R397. Lane correctly rounded reciprocal square root. -/
  | rsq (o : LxOps)
  /-- R397. Lane correctly rounded square root. -/
  | sqrt (o : LxOps)
  /-- R397. Lane correctly rounded 2^A. -/
  | exp2 (o : LxOps)
  /-- R397. Lane correctly rounded log2 A. -/
  | log2 (o : LxOps)
  /-- R397. Lane correctly rounded sin(πA). -/
  | sin (o : LxOps)
  /-- R397. Lane correctly rounded cos(πA). -/
  | cos (o : LxOps)
  /-- R397. Lane correctly rounded tanh A. -/
  | tanh (o : LxOps)
  /-- R398. Lane packed FP16 fused multiply-add. -/
  | hfma2 (o : LxOps)
  /-- R398. Lane packed BF16 fused multiply-add. -/
  | bfma2 (o : LxOps)
  /-- R398. Lane packed FP16 minimum. -/
  | hmin2 (o : LxOps)
  /-- R398. Lane packed FP16 maximum. -/
  | hmax2 (o : LxOps)
  /-- R398. Lane packed BF16 minimum. -/
  | bmin2 (o : LxOps)
  /-- R398. Lane packed BF16 maximum. -/
  | bmax2 (o : LxOps)
  /-- R398. Lane packed FP16 compare into half masks. -/
  | hcmp2 (o : LxOps)
  /-- R398. Lane packed BF16 compare into half masks. -/
  | bcmp2 (o : LxOps)
  /-- R399. Lane FP64 add. -/
  | dadd (o : LxOps)
  /-- R399. Lane FP64 multiply. -/
  | dmul (o : LxOps)
  /-- R399. Lane FP64 fused multiply-add. -/
  | dfma (o : LxOps)
  /-- R399. Lane FP64 minimum. -/
  | dmin (o : LxOps)
  /-- R399. Lane FP64 maximum. -/
  | dmax (o : LxOps)
  /-- R399. Lane FP64 compare into a predicate. -/
  | dcmp (o : LxOps)
  /-- R401. Lane conversion between the formats of Table 13-10. -/
  | cvt (o : LxOps)
  /-- R403. Clear n exact accumulators. -/
  | xclr (o : LxOps)
  /-- R403. Add a lane term, or per-tile terms, exactly into an accumulator. -/
  | xadd (o : LxOps)
  /-- R403. Subtract terms exactly from an accumulator. -/
  | xsub (o : LxOps)
  /-- R404. Round an accumulator once to FP32 or FP64. -/
  | xrnd (o : LxOps)
  /-- R404. Read word k of an accumulator's value. -/
  | xget (o : LxOps)
  /-- R405. Write word k of an accumulator's value. -/
  | xset (o : LxOps)
  /-- R405. Copy an accumulator, or add it exactly with .ADD. -/
  | xmov (o : LxOps)
  /-- R404. Read an accumulator's sticky bits. -/
  | xstat (o : LxOps)
  /-- R408. Shuffle lane values within a tile. -/
  | shfl (o : LxOps)
  /-- R409. Vote or ballot on a predicate across a tile. -/
  | vote (o : LxOps)
  /-- R410. Match equal values across a tile. -/
  | matchLanes (o : LxOps)
  /-- R409. Elect the lowest participant of each tile. -/
  | elect (o : LxOps)
  /-- R411. Reduce across a tile's participants. -/
  | red (o : LxOps)
  /-- R411. Inclusive or exclusive prefix scan across a tile. -/
  | scan (o : LxOps)
  /-- R413. Pack 16 FP32 values per half-warp into a block record. -/
  | bpack (o : LxOps)
  /-- R413. Unpack a block record into 16 FP32 lanes. -/
  | bunpk (o : LxOps)
  /-- R414. Three-input predicate logic by truth table. -/
  | plop3 (o : LxOps)
  /-- R414. Copy predicates into a v register. -/
  | p2v (o : LxOps)
  /-- R414. Set predicates from v register bits. -/
  | v2p (o : LxOps)
  /-- R360. Per-lane relative branch. -/
  | br (o : LbOps)
  /-- R360. Per-lane call, writing the return address into v(d). -/
  | call (o : LbOps)
  /-- R360. Per-lane return to v(d). -/
  | ret (o : LbOps)
  /-- R360. Lanes leave the frontier. -/
  | exit (o : LbOps)
  /-- R362. Per-lane indexed jump through a table, trapping JUMP_RANGE on an index at or above count. -/
  | jmpi (o : JmpiOps)
  /-- R421. Lane load from a space. -/
  | ld (o : LmOps)
  /-- R421. Lane store to a space. -/
  | st (o : LmOps)
  /-- R423. Lane atomic at the location's home, returning the old value. -/
  | atom (o : LmOps)
  /-- R434. Per-lane asynchronous copy into C or V space on a copy channel. -/
  | cpa (o : LmOps)
  /-- R462. Read accumulator elements of the warp's quadrant into lanes. -/
  | ardl (o : LxOps)
  /-- R355. Uniform add. -/
  | uiadd (o : UaOps)
  /-- R355. Uniform subtract. -/
  | uisub (o : UaOps)
  /-- R355. Uniform multiply, low 32 bits. -/
  | uimul (o : UaOps)
  /-- R355. Uniform signed minimum. -/
  | uminS (o : UaOps)
  /-- R355. Uniform unsigned minimum. -/
  | uminU (o : UaOps)
  /-- R355. Uniform signed maximum. -/
  | umaxS (o : UaOps)
  /-- R355. Uniform unsigned maximum. -/
  | umaxU (o : UaOps)
  /-- R355. Uniform AND. -/
  | uand (o : UaOps)
  /-- R355. Uniform OR. -/
  | uor (o : UaOps)
  /-- R355. Uniform XOR. -/
  | uxor (o : UaOps)
  /-- R355. Uniform AND NOT. -/
  | uandn (o : UaOps)
  /-- R355. Uniform shift left. -/
  | ushl (o : UaOps)
  /-- R355. Uniform logical shift right. -/
  | ushrU (o : UaOps)
  /-- R355. Uniform arithmetic shift right. -/
  | ushrS (o : UaOps)
  /-- R355. Uniform move. -/
  | umov (o : UaOps)
  /-- R357. Uniform signed multiply, high 32 bits. -/
  | uimulhiS (o : UxOps)
  /-- R357. Uniform unsigned multiply, high 32 bits. -/
  | uimulhiU (o : UxOps)
  /-- R357. Uniform compare into a q predicate. -/
  | ucmp (o : UxOps)
  /-- R357. Uniform select by q predicate. -/
  | usel (o : UxOps)
  /-- R357. Uniform population count. -/
  | upopc (o : UxOps)
  /-- R357. Uniform count of leading zeros. -/
  | uclz (o : UxOps)
  /-- R357. Uniform unsigned bit-field extract. -/
  | ubfeU (o : UxOps)
  /-- R357. Uniform bit-field insert. -/
  | ubfi (o : UxOps)
  /-- R357. Uniform 64-bit add. -/
  | uiadd64 (o : UxOps)
  /-- R357. Uniform 64-bit scaled add. -/
  | ulea64 (o : UxOps)
  /-- R357. Uniform three-input predicate logic. -/
  | uqlop (o : UxOps)
  /-- R358. Read one lane's v register into s(d). -/
  | urdl (o : UxOps)
  /-- R358. Write one lane's v register from a uniform value. -/
  | uwrl (o : UxOps)
  /-- R363. Uniform relative branch of the whole entry. -/
  | bru (o : UbOps)
  /-- R363. Uniform call, writing the return address into s(d). -/
  | callu (o : UbOps)
  /-- R363. Uniform return to s(d). -/
  | retu (o : UbOps)
  /-- R363. Uniform indexed jump through a table. -/
  | jmpu (o : JmpuOps)
  /-- R363. Cross-overlay call, trapping OVERLAY_ABSENT if the overlay is not bound. -/
  | callx (o : CallxOps)
  /-- R363. Cross-overlay return, checking the caller's overlay binding. -/
  | retx (o : UbOps)
  /-- R364. End every live lane of a converged warp. -/
  | exitw (o : UbOps)
  /-- R363. No effect. -/
  | nop (o : UbOps)
  /-- R365. Take USER_TRAP with TINFO n, resuming after the instruction. -/
  | trap (o : UxOps)
  /-- R365. Take BREAKPOINT, resuming after the instruction. -/
  | brkpt (o : UxOps)
  /-- R366. Take a service tag and post a service record to the runtime. -/
  | svc (o : UxOps)
  /-- R367. Leave the trap handler and return the lanes to TPC. -/
  | eret (o : UxOps)
  /-- R368. Read a special register into s or v registers. -/
  | srd (o : UxOps)
  /-- R369. Write a special register. -/
  | swr (o : UxOps)
  /-- R370. Set masked FMODE fields. -/
  | smode (o : UxOps)
  /-- R371. Set the partition tile size. -/
  | part (o : UxOps)
  /-- R372. Bind an overlay at its home slot for the group. -/
  | ovlld (o : UxOps)
  /-- R373. Yield after the clause, as the header YLD bit does. -/
  | yield (o : UxOps)
  /-- R374. Stop the entry beginning clauses for a number of cycles. -/
  | sleep (o : UxOps)
  /-- R427. Wait until a memory word meets a condition, acting as an acquire. -/
  | waitmem (o : UxOps)
  /-- R425. Hold later memory words until earlier covered accesses are performed at the scope. -/
  | fence (o : UxOps)
  /-- R426. Publish a shadow buffer by release and version flip. -/
  | pub (o : UxOps)
  /-- R430. Initialise a barrier object with expected arrivals, class and scope. -/
  | barInit (o : UxOps)
  /-- R430. Arrive at a barrier with release, returning the phase bit. -/
  | barArrive (o : UxOps)
  /-- R430. Add expected transfer bytes to a barrier. -/
  | barExpect (o : UxOps)
  /-- R431. Wait for a barrier phase of the given parity, acting as an acquire. -/
  | barWait (o : UxOps)
  /-- R430. Test whether a barrier phase has completed. -/
  | barTest (o : UxOps)
  /-- R430. Invalidate a barrier and release its waiters with false. -/
  | barInval (o : UxOps)
  /-- R375. Submit a node record from a kernel into the issuer's graph. -/
  | launch (o : UxOps)
  /-- R376. Adjust a unit's completion counter, writing success into q(d). -/
  | cntadd (o : UxOps)
  /-- R377. Cancel a named unit. -/
  | cancel (o : UxOps)
  /-- R378. Wait for a unit to complete and return its status. -/
  | cntwait (o : UxOps)
  /-- R424. Uniform load, one access per issue. -/
  | uld (o : UmOps)
  /-- R424. Uniform store, one access per issue. -/
  | ust (o : UmOps)
  /-- R424. Uniform atomic, one access per issue. -/
  | uatom (o : UmOps)
  /-- R438. Start a tile-transfer or collective command from a shape record. -/
  | txf (o : UxOps)
  /-- R442. Cancel the warp's outstanding TXF commands on a flag, or all of them. -/
  | txcan (o : UxOps)
  /-- R443. Enqueue an entry on a module queue with release. -/
  | mqEnq (o : UxOps)
  /-- R443. Dequeue an entry from a module queue with acquire. -/
  | mqDeq (o : UxOps)
  /-- R452. Fuse, split or release a quadrant pair. -/
  | qfuse (o : UxOps)
  /-- R453. Load the shadow weight plane from C or V space. -/
  | wload (o : UxOps)
  /-- R454. Exchange the active and shadow weight planes. -/
  | wswap (o : UxOps)
  /-- R456. Stream activation rows through the active plane into accumulator rows. -/
  | mms (o : UxOps)
  /-- R458. Clear accumulator tiles and their saturation counts. -/
  | aclr (o : UxOps)
  /-- R460. Drain accumulator tiles to memory with conversion. -/
  | adrn (o : UxOps)
  /-- R461. Read quadrant status or a saturation count. -/
  | mstat (o : UxOps)
  /-- R24. A rising edge of PWRGOOD resets the whole device, re-reads fuses, re-derives identity keys,
  releases the THERMTRIP_N latch and starts boot at ROM. -/
  | coldReset
  /-- R18. The board deasserts PWRGOOD because a rail left tolerance or a thermal trip occurred; the device
  stops until the next cold reset. -/
  | pwrgoodFall
  /-- R24. Assertion of PERST_N causes a warm reset: all in-flight work is discarded unpublished and boot
  restarts at ROM. -/
  | perstNAssert
  /-- R24. A write to RSTCTL with KEY 0xB19A and WARM 1 starts a warm reset, even on a halted device. -/
  | rstctlWarm
  /-- R28. Boot step 1: the ROM reads fuses and the flash header and verifies slot A, then slot B, against
  hash, signature, key revocation and rollback counter. -/
  | bootRom
  /-- R26. Boot step 2: stage 1 starts the PLLs, base dies and compute dies and trains HBM4, halting with CODE
  5 if a stack fails. -/
  | bootStage1
  /-- R26. Boot step 3: stage 1 verifies stage 2 from the same slot, loads it into service cluster memory and
  extends the measurements. -/
  | bootStage2Load
  /-- R25. Boot step 4: stage 2 starts the harts and the runtime, trains the fabric ports and scrubs every
  plot to FREE or FAILED. -/
  | bootStage2
  /-- R26. Boot step 5 sets BOOTSTAT.STAGE to 4, and the PF configuration space begins to answer. -/
  | bootReady
  /-- R26. A PCIe configuration request is answered with Retry Status before boot ends, reduced after a halt,
  and in full once ready. -/
  | configurationRequest
  /-- R20. A die thermal sensor reading is evaluated against the throttle threshold (100 °C) and the trip
  threshold (115 °C). -/
  | thermalSensorReading
  /-- R20. A change of the THROT_N input puts the dies into throttle or takes that cause away. -/
  | throtNChange
  /-- R20. At the end of each 1 µs activity window the heat-flux estimate is updated, and 2 µs at 280 W/cm² or
  more puts the die into throttle. -/
  | heatFluxWindow
  /-- R19. At the end of a 1 ms or 1 s power window, average power is compared with FAST or SUST and throttle
  is engaged if a limit was exceeded. -/
  | pwrlimWindowEnd
  /-- R34. A write to PWRLIM clamps FAST and SUST and takes effect at the next 1 ms window. -/
  | pwrlimWrite
  /-- R20. Every 1 µs while a die is in throttle its core clock drops by 25 MHz, down to 800 MHz. -/
  | clockStepDown
  /-- R20. After a die has been out of throttle for 100 µs, clock recovery begins. -/
  | throttleExitTimer
  /-- R20. Every 1 µs during recovery the core clock rises by 25 MHz, up to the speed-grade limit. -/
  | clockStepUp
  /-- R29. An authenticated management request makes the runtime blow rollback fuses, never above the running
  image's counter. -/
  | rollbackRaise
  /-- R31. An SPDM GET_VERSION request over DOE or the management endpoint is answered. -/
  | getVersion
  /-- R31. An SPDM GET_CAPABILITIES request is answered. -/
  | getCapabilities
  /-- R31. An SPDM NEGOTIATE_ALGORITHMS request selects brainpoolP384r1, SHA-384 and AES-256-GCM. -/
  | negotiateAlgorithms
  /-- R31. An SPDM GET_DIGESTS request is answered. -/
  | getDigests
  /-- R31. An SPDM GET_CERTIFICATE request returns the certificate chain. -/
  | getCertificate
  /-- R31. An SPDM CHALLENGE is answered with a response signed by the final alias key. -/
  | challenge
  /-- R31. An SPDM GET_MEASUREMENTS request returns measurement indices 1–4. -/
  | getMeasurements
  /-- R31. An SPDM KEY_EXCHANGE request opens a session. -/
  | keyExchange
  /-- R31. An SPDM FINISH request completes session establishment. -/
  | finish
  /-- R68. An SPDM KEY_UPDATE installs a new link key in the inactive bank at both ends, which is rekey step 1. -/
  | keyUpdate
  /-- R35. A Verwin board-identity management message is answered with the board record data. -/
  | boardIdentityMessage
  /-- R37. A write of PORTCTL.RETRAIN takes the port down, handles its in-flight traffic as a loss, and starts
  training under the current MODE. -/
  | portRetrain
  /-- R38. Link bring-up ends with the partner's report checked, and the port enters UP, DOWN, REFUSED or OFF. -/
  | portTrainingDone
  /-- R38. A write of PODCFG.EN 1 with a valid ORDER and PKG latches them, holds ports above q OFF, and tests
  every UP port at once. -/
  | podcfgEn
  /-- R69. A received flit is checked for tag, bank and virtual channel and is accepted or discarded and
  replayed. -/
  | flitReceive
  /-- R62. While a port is UP each end sends a flit at least every 1 µs, an idle flit when nothing else is
  pending. -/
  | idleFlit
  /-- R62. A port that has received no valid flit for 10 µs goes DOWN, and its in-flight work is discarded
  with parks and LINK_LOST. -/
  | linkTimeout
  /-- R67. When a flit counter reaches 2^40, the device starts a rekey of that key identifier. -/
  | rekeyStart
  /-- R68. Once every flit sent under the old bank is acknowledged, both ends erase the old bank. -/
  | rekeyBankErase
  /-- R47. An L2 slice answers a BISnpCur snoop on channel 2, keeping the line O and forwarding data. -/
  | bisnpcur
  /-- R47. An L2 slice answers a BISnpData snoop, going to S or O and forwarding dirty data. -/
  | bisnpdata
  /-- R47. An L2 slice answers a BISnpInv snoop by invalidating the line and forwarding dirty data, or answers
  not held or write-back in flight. -/
  | bisnpinv
  /-- R47. The module home serves a read-shared request per Table 2-9, snooping the owner if needed. -/
  | homeReadShared
  /-- R47. The module home serves a read-own request by invalidating all holders and granting ownership. -/
  | homeReadOwn
  /-- R47. The module home takes a write-back, updates memory and clears the owner. -/
  | homeWriteBack
  /-- R47. The module home takes a clean evict and clears the requester's mark. -/
  | homeCleanEvict
  /-- R49. The module home invalidates all holders, performs the atomic on memory and returns the old value. -/
  | farAtomic
  /-- R52. The module home indivisibly enqueues one entry if there is room, reports full otherwise, and
  rejects malformed descriptors. -/
  | moduleQueueEnqueue
  /-- R52. The module home indivisibly dequeues one entry if the queue is not empty, and reports empty
  otherwise. -/
  | moduleQueueDequeue
  /-- R48. A head that has not answered a snoop within 100 µs has its marks cleared, and its dirty lines are
  poisoned. -/
  | snoopTimeout
  /-- R63. A module that loses a head posts a kind-1 record to every remaining head and ends the slots that
  depend on that head. -/
  | moduleHeadLoss
  /-- R63. A module detecting its own failure posts kind-2 records to every head it still reaches, then stops. -/
  | moduleFailure
  /-- R173. A pod record arriving in the package's module event queue raises the service cluster interrupt for
  the runtime. -/
  | podRecordArrival
  /-- R59. The relay engine performs a kind-1 relay descriptor in SEQ order as a write at the target module,
  answering through the response ring. -/
  | relayWrite
  /-- R59. The relay engine performs a kind-2 read through the target module's directory and returns the data. -/
  | relayRead
  /-- R59. The relay engine performs a kind-3 far atomic at the target module home. -/
  | relayFarAtomic
  /-- R444. A kind-3 descriptor with SIZE 5 performs a module-queue enqueue at the target and returns the
  queue result. -/
  | relayQueueEnqueue
  /-- R444. A kind-3 descriptor with SIZE 6 performs a module-queue dequeue at the target and returns the entry. -/
  | relayQueueDequeue
  /-- R59. The relay engine forwards a kind-4 delivery into the next leg's relay region and answers the source
  only after the destination answers. -/
  | relayDelivery
  /-- R59. The destination package's relay engine stores a kind-4 delivery in local memory without waiting on
  fabric traffic and answers DONE. -/
  | deliveryStore
  /-- R88. The relay engine hands a kind-1 CONTRIB descriptor to the module as a reduction message and returns
  the module's answer, including BUSY. -/
  | relayContribution
  /-- R59. The source receives a relay response, completes the relayed access or transfer, and frees the
  payload span. -/
  | relayResponse
  /-- R85. A module takes a contribution: it allocates or matches a slot, runs VERIFY and accumulates exactly,
  or answers FAULT, BUSY or DONE for a duplicate. -/
  | moduleContribution
  /-- R86. 1 µs after a BUSY answer the engine resends the held-back contribution, under a new SEQ when relayed. -/
  | contributionRetry
  /-- R82. On a slot notification the owner reads the step-1 result, checks it with READ, and sends it and its
  own chunk to the step-2 slot. -/
  | slotNotification
  /-- R98. A ready notification or delivery is matched to a receive-table key, or appended to the spill list. -/
  | readyNotification
  /-- R100. A receiver that has waited 100 µs for a chunk reads the landing or delivery trailer directly and
  takes a valid status as arrival. -/
  | chunkWaitTimeout
  /-- R92. Loss of an expected head or relay attachment completes the slot with status LINK_LOST and notifies
  the owner. -/
  | slotLinkLost
  /-- R118. A 64-bit TLBINV write with BUSY 0 and a valid SCOPE starts an invalidation and sets BUSY. -/
  | tlbinvStart
  /-- R118. BUSY clears once every matching TLB entry is dropped and every access translated through those
  entries is performed or parked. -/
  | tlbinvDone
  /-- R126. A MOVE migration command checks the destination, sets PARK 1 on the leaf, and invalidates the page. -/
  | move
  /-- R126. A MOVESB command claims a remap entry with PARK 1 for one backing page of a shadow buffer. -/
  | movesb
  /-- R127. An EVICT command moves up to count cold 4 KiB local pages of the glade to the listed destinations,
  in candidate order. -/
  | evict
  /-- R126. Once accesses through the source page have drained, the engine starts the coherent copy while
  writes park with MIGRATING. -/
  | migrationDrainDone
  /-- R126. When the copy ends, the leaf or remap entry is rewritten, DONE is written, and the parked accesses
  replay. -/
  | migrationCopyDone
  /-- R513. A write of SBRMCTL.CLR frees every remap entry of the named SBID whose PARK is 0. -/
  | sbrmctlClr
  /-- R124. At each epoch while MIGCTL.EN is 1, HEAT and A of every valid scanned leaf are updated by CAS, and
  the affected TLB entries are dropped. -/
  | heatScan
  /-- R134. A write of FQREPLAY with action 0 re-translates every access of the tagged pending-fault entry and
  frees it. -/
  | fqreplayReplay
  /-- R134. A write of FQREPLAY with action 1 completes every access of the entry unperformed, as a trap, a
  FAULT status, a window abort or a record rejection. -/
  | fqreplayFail
  /-- R133. A pending-fault entry is posted to the fault-queue ring when space is free, FQTAIL advances, and
  the fault interrupt is raised. -/
  | faultQueuePost
  /-- R131. A faulting access waiting for a full pending-fault table takes a freed entry and parks. -/
  | parkedAccessAdmit
  /-- R136. A DIRTYCTL write that changes SEL while DRAIN is 0 switches the active dirty bitmap and sets DRAIN. -/
  | dirtySwitch
  /-- R137. DRAIN clears once every write that chose the previous bitmap has set its bit. -/
  | dirtyDrainDone
  /-- R144. A host read through the device memory window is translated in WCTX and performed at system scope,
  or ends as Table 5-3 sets out. -/
  | hostWindowRead
  /-- R147. A host write through the window is translated and performed in requester order, or dropped with a
  WINDOW entry. -/
  | hostWindowWrite
  /-- R146. A host AtomicOp through the window is performed at the line's home and returns the old value. -/
  | hostWindowAtomic
  /-- R145. A window access parked for FLIPPING or MIGRATING and not replayed within 10 ms ends with Completer
  Abort or is dropped. -/
  | windowParkTimeout
  /-- R151. A 64-byte slot write is checked, then goes to the intake or the spill ring or is dropped, updating
  ACCEPTED or DROPPED. -/
  | submissionWrite
  /-- R152. The graph engine consumes a KIND 1 submission, reads and checks one node record, and accepts or
  rejects it. -/
  | nodeRecord
  /-- R152. The graph engine consumes a KIND 2 submission and accepts or rejects a graph of COUNT nodes whole. -/
  | graphRecord
  /-- R204. The graph engine consumes a KIND 3 submission and cancels the named unit, posting COMPLETION if
  LOGDONE is set. -/
  | cancelRecord
  /-- R156. A write that sets FNCFG.EN is applied only if the queue range and glades do not conflict with
  another enabled VF. -/
  | fncfgEnable
  /-- R157. A write that clears FNCFG.EN resets the function as an FLR does. -/
  | fncfgDisable
  /-- R158. Setting PAUSE latches TSPAUSE, stops dispatch and pre-empts the function's running work. -/
  | fncfgPause
  /-- R166. Clearing PAUSE adjusts TSOFF when TSFRZ is 1, resumes dispatch and sends MSI-X if entries are
  pending. -/
  | fncfgUnpause
  /-- R157. An FLR discards the function's records, cancels its nodes and increments ILGEN. -/
  | functionLevelReset
  /-- R157. When every effect of the reset has been carried out, the RESET entry of the new generation is
  posted. -/
  | flrComplete
  /-- R165. A read of a function's TSTAMP computes the monotonic serialised timestamp and updates TSLAST. -/
  | tstampRead
  /-- R161. When the MOD interval ends with ILTAIL not equal to ILHEAD, the suppressed MSI-X message is sent. -/
  | msixModerationExpiry
  /-- R169. A PCIe completion for a device read or atomic to host ends it; UR or CA gives poisoned data and a
  HOSTERR entry. -/
  | hostCompletion
  /-- R169. A device read or atomic to host unanswered after 50 ms ends as poisoned with HOSTERR detail 3. -/
  | hostRequestTimeout
  /-- R175. A 64-byte write to SVCREPLY delivers status and results to the calling warp or node and frees the
  tag. -/
  | svcReply
  /-- R174. A service record is posted to the service ring when space is free, and the interrupt is raised. -/
  | serviceQueuePost
  /-- R171. A service hart access is routed by address bits [55:52] to local HBM, canopy, the control window,
  a module or the host, or faults. -/
  | hartAccess
  /-- R143. A host write to a control-window register with no row of its own stores its RW fields, or is
  dropped if malformed. -/
  | controlWindowWrite
  /-- R192. The dispatch procedure runs for a glade when a node becomes READY, capacity frees, or 1 µs passes. -/
  | dispatch
  /-- R197. A launch that has waited beyond RESWAIT with the highest effective priority becomes the glade's
  reservation holder. -/
  | reservationTake
  /-- R180. When every warp has ended and no operation is outstanding, the group's writes are released at chip
  scope, its resources freed and its counter decremented. -/
  | groupComplete
  /-- R190. When every PUB of a publishing node completes, the node enters DONE and its successors' counts
  decrease. -/
  | nodeDone
  /-- R192. An event node with OP SIGNAL performs a 64-bit release store at its scope. -/
  | eventSignal
  /-- R192. An event node with OP SIGNAL-ADD performs a 64-bit atomic add with release. -/
  | eventSignalAdd
  /-- R192. An event node with OP WAIT starts watching its word against CMP and VALUE. -/
  | eventWait
  /-- R192. On each device write to the word's line, or every 10 µs for a host page, the word is reread and
  the node completes if the condition holds. -/
  | eventWaitRecheck
  /-- R192. A service-function node posts a service record and ends DONE or FAILED on the reply. -/
  | serviceFunction
  /-- R192. A tile-transfer node goes to the transfer unit as a TXF command at its shape record's scope. -/
  | tileTransferNode
  /-- R192. A collective node goes to the transfer unit as a TXF of collective kind at pod scope. -/
  | collectiveNode
  /-- R202. After REMEDY in a legal blocking wait, the engine saves the waiting gang when the target awaits
  admission or placement. -/
  | starvationRemedy
  /-- R202. A starvation-saved gang is restored whole when the target counter changes or after 1 ms. -/
  | starvationRestore
  /-- R202. A wait lasting LIMIT traps ILLEGAL_WAIT with TINFO[0] = 1. -/
  | starvationLimit
  /-- R203. A gang waiting over 200 µs for placement makes the glade declare a clearing on the grove of
  greatest free capacity. -/
  | clearingDeclare
  /-- R203. A clearing not filled after a further 2 ms has its resident groups migrated or saved out. -/
  | clearingMigrate
  /-- R219. GLCMD GROW sets FREE plots JOINING and starts REHASH, or sets a refusal RESULT. -/
  | gladeGrow
  /-- R221. GLCMD SHRINK sets plots LEAVING and runs the progress test, going to EVACUATE or back to IDLE with
  RESULT 4 or 5. -/
  | gladeShrink
  /-- R230. GLCMD COMMIT in RELOCATE pairs and copies canopy segments and cuts access to the LEAVING plots. -/
  | gladeCommit
  /-- R219. GLCMD ABORT in RELOCATE starts UNDO, a rehash that adds the LEAVING plots back. -/
  | gladeAbort
  /-- R233. GLCMD RESET ends any resize, then discards the glade's groups, images and commands, drops its L2
  lines and clears its groves. -/
  | gladeReset
  /-- R227. The sweeper moves each module line whose new slice differs, with its data, MOESI state and
  identifier. -/
  | rehashSweep
  /-- R227. When the sweep ends and no move is in flight, a shrink goes to RELOCATE and a grow goes to IDLE
  with plots OWNED. -/
  | rehashDone
  /-- R219. When the undo rehash ends, the plots return to OWNED and the glade enters IDLE with RESULT 7. -/
  | undoDone
  /-- R230. When a COMMIT canopy copy ends, the remaining plot takes the segment and parked K-space writes
  replay. -/
  | canopyCopyDone
  /-- R230. After in-flight accesses drain, the LEAVING slices write back and drop their lines and the plots
  enter FIREBREAK. -/
  | commitDrainDone
  /-- R231. When a FIREBREAK plot's scrub completes, the plot enters FREE, or FAILED on an uncleared fault. -/
  | scrubDone
  /-- R235. Every SLICE µs, victim groves are chosen for the highest-priority waiting launch and each is
  drained, discarded or saved. -/
  | sliceEnd
  /-- R237. At DEADLINE, every group still running on a draining grove is force-saved. -/
  | drainDeadline
  /-- R224. A group's save completes with its outstanding operations handled and its image stored in the save
  area, or SVFULL set. -/
  | groupSave
  /-- R225. A saved group is restored exactly onto cores of the glade, and its waiters re-register. -/
  | groupRestore
  /-- R250. A frontier entry begins a clause once its WAIT flags read 0, after header checks and any deferred
  report. -/
  | clauseBegin
  /-- R320. A 1 KiB instruction-memory block is filled from the overlay image, and the stalled entry may
  proceed. -/
  | imemFill
  /-- R255. 1,024 cycles after an entry was demoted, its D bit returns to 0. -/
  | spinDemotionExpiry
  /-- R256. A warp ready for 4,096 cycles without issuing goes to the head of its sub-core's selection. -/
  | fairnessBoost
  /-- R256. A yielding warp may issue again after 64 cycles even if others have not issued. -/
  | yieldTimeout
  /-- R374. When the SLEEP count elapses, the entry may begin clauses again. -/
  | sleepExpiry
  /-- R427. On a write to the line or after 2,048 cycles, WAITMEM rereads the word and ends on the condition
  or on timeout. -/
  | waitmemRecheck
  /-- R269. A long-latency access reaches its point of performance, writes its result and decrements its flag. -/
  | accessPerformed
  /-- R435. A CPA command completes, writing per-lane status, subtracting from its barrier and decrementing
  its flag. -/
  | cpaCompletion
  /-- R441. A TXF command completes, performing its writes, subtracting from its barrier, writing status and
  decrementing its flag. -/
  | txfCompletion
  /-- R444. A module-queue operation's result returns, writing s(d) and the dequeued entry and decrementing
  the flag. -/
  | mqResult
  /-- R426. After earlier back-view writes are performed, PUB releases and flips the buffer's version bit. -/
  | pubFlip
  /-- R372. OVLLD's read of the table and header ends, binding the slot or reporting 1 or 2 in s(d). -/
  | ovlldCompletion
  /-- R375. The graph engine answers a LAUNCH, accepting the node into the issuer's graph or returning 1 or 2. -/
  | launchAccept
  /-- R448. A matrix command's last row is final or its drain is written, recording any NaN event and
  decrementing its flag. -/
  | matrixCommandCompletion
  /-- R447. A matrix command stalled for REMEDY on a quadrant held by another group causes that group's gang
  to be saved. -/
  | quadrantStallSave
  /-- R465. A physical row failing its check ends the command with UNCORRECTABLE and is remapped to a spare,
  or sets OFFLINE on the third failure. -/
  | arrayRowFailure
  /-- R161. When the host unmasks a function's MSI-X vector whose pending bit is set, the device sends the
  held message under MSI-X rules. -/
  | msixVectorUnmask
  deriving DecidableEq, Repr

end Sys2Proof
end

