-- ==== Sys2Proof/WellFormed.lean ====
section
/-!
DEFINITION. Well-formed instructions: what row 2 of 11 Table 11-7 asks of the fields of a word instruction (no
nonzero unused field, no reserved value, no odd address pair), and what the operands of a device event may name.
The rows 3 to 8, which read the warp's state, are checks of the meanings.
-/
namespace Sys2Proof

/-- Table 11-3: an inline lane operand is one of the values 64 to 119. -/
def LSrc.ok : LSrc → Bool
  | .inl n => 64 ≤ n.toNat && n.toNat ≤ 119
  | _ => true

/-- Table 13-1, column IADD64: the values 112 to 119 are reserved too. -/
def LSrc.okInt64 : LSrc → Bool
  | .inl n => 64 ≤ n.toNat && n.toNat ≤ 111
  | _ => true

/-- An unused b or c operand: its select bit and its field are 0. -/
def LSrc.unused (x : LSrc) : Bool := x == .vreg 0

/-- A b or c field that names a predicate p0 to p6, with its select bit 0 (R331). -/
def LSrc.isPred : LSrc → Bool
  | .vreg r => r.toNat < 7
  | _ => false

/-- Table 11-4, R333: the immediate 0x100 would select the literal. -/
def USrc.ok : USrc → Bool
  | .imm n => n != 0x100
  | _ => true

def USrc.unused (x : USrc) : Bool := x == .sreg 0

/-- A uniform b field that names a predicate q0 to q6 (R356). -/
def USrc.isPred : USrc → Bool
  | .sreg r => r.toNat < 7
  | _ => false

/-- Only the bits of `mask` may be 1. -/
def within (mask x : BitVec 8) : Bool := x &&& ~~~mask == 0

/-- The modifier bits, the rounding override and FS of an LX form of fixed latency (R384, R328): each is 0 unless the
form permits it. -/
def LxOps.mods (o : LxOps) (na nb nc sat rm : Bool) : Bool :=
  (!o.na || na) && (!o.nb || nb) && (!o.nc || nc) && (!o.sat || sat) &&
  (o.rm == 0 || (rm && o.rm.toNat ≤ 4)) && !o.fs

/-- A compare's p destination, condition code and combine field (Tables 13-4, 13-5, 13-9). -/
def LxOps.cmpOk (o : LxOps) (ccMax : Nat) : Bool :=
  o.d.toNat < 7 && (o.aux.extractLsb' 0 4).toNat ≤ ccMax && (o.aux.extractLsb' 4 2).toNat ≤ 2 &&
  within 0x3F o.aux && (if o.aux.extractLsb' 4 2 == 0 then o.c.unused else o.c.isPred)

/-- Word 1 of LM and UM: reserved SPACE, SIZE, SCOPE and AOP values, and the odd pair of a G-space address. -/
def MemFields.ok (m : MemFields) (aOdd : Bool) : Bool :=
  m.space.toNat ≤ 4 && m.size.toNat ≤ 4 && m.scope.toNat ≤ 5 && m.aop.toNat ≤ 12 && !(m.space == 0 && aOdd)

/-- Table 14-2, LD and ULD. -/
def MemFields.loadOk (m : MemFields) : Bool :=
  (!m.sx || m.size.toNat ≤ 1) && (m.ord == 0 || m.ord == 1) && m.aop == 0

/-- Table 14-2, ST and UST; R420: no cache policy. -/
def MemFields.storeOk (m : MemFields) : Bool :=
  !m.sx && (m.ord == 0 || m.ord == 2) && m.aop == 0 && m.policy == 0

/-- Tables 14-2, 14-3, R422: the sizes a code permits, and bk = 1 only for SIZE 32 and codes other than CAS. -/
def MemFields.atomOk (m : MemFields) (bImm : Bool) : Bool :=
  (!m.sx || m.size.toNat ≤ 1) && m.policy == 0 &&
  (if m.aop.toNat ≤ 8 then m.size.toNat ≤ 3 else if m.aop.toNat == 9 then m.size.toNat ≤ 4 else m.size == 2) &&
  (!bImm || (m.size == 2 && m.aop != 9))

def LSrc.isReg : LSrc → Bool
  | .vreg _ => true
  | _ => false

def USrc.isReg : USrc → Bool
  | .sreg _ => true
  | _ => false

/-- A UX form of fixed latency keeps FS 0. -/
def UxOps.noFs (o : UxOps) : Bool := !o.fs

def UxOps.cUnused (o : UxOps) : Bool := o.c == 0 && !o.ck

/-- A field that names an even pair. -/
def even6 (x : BitVec 6) : Bool := x.toNat % 2 == 0

/-- Table 13-10: a conversion format code. -/
def cvtFloat (c : Nat) : Bool := c ≤ 4 || c == 8
def cvtInt (c : Nat) : Bool := c == 5 || c == 6 || c == 7

/-- Row 2 of Table 11-7 for each instruction; for a device event, the ranges of what it names. -/
def wellFormed : Instr → Bool
  -- Tables 11-5, 13-3: LA
  | .iadd o | .isub o | .imul o | .iadds o | .isubs o | .iminS o | .iminU o | .imaxS o | .imaxU o
  | .and o | .or o | .xor o | .andn o | .shl o | .shrU o | .shrS o | .rotr o
  | .fadd o | .fsub o | .fmul o | .fmin o | .fmax o | .hadd2 o | .hmul2 o | .badd2 o | .bmul2 o => o.b.ok
  | .mov o => o.b.ok && o.a == 0
  -- Table 13-4: IX
  | .imulhiS o | .imulhiU o | .bfeU o | .bfeS o =>
      o.b.ok && o.c.unused && o.mods false false false false false && o.aux == 0
  | .imad o => o.b.ok && o.c.ok && o.mods false false false true false && o.aux == 0
  | .bfi o | .prmt o => o.b.ok && o.c.ok && o.mods false false false false false && o.aux == 0
  | .popc o | .clz o | .brev o => o.b.unused && o.c.unused && o.mods false false false false false && o.aux == 0
  | .lea o => o.b.ok && o.c.unused && o.mods false false false false false && within 0x07 o.aux
  | .iadd3 o => o.b.ok && o.c.ok && o.mods true true true true false && o.aux == 0
  | .isad o => o.b.ok && o.c.ok && o.mods false false false false false && within 0x01 o.aux
  | .icmp o => o.b.ok && o.mods false false false false false && o.cmpOk 9
  | .sel o => o.b.ok && o.c.isPred && o.mods false false false false false && o.aux == 0
  | .iadd64 o => o.b.okInt64 && o.c.unused && o.mods false false false false false && o.aux == 0
  -- Table 13-5: FX
  | .fma o => o.b.ok && o.c.ok && o.mods true true true false true && o.aux == 0
  | .fcmp o => o.b.ok && o.mods true true false false false && o.cmpOk 7
  | .frnd o | .ffract o => o.b.unused && o.c.unused && o.mods true false false false true && o.aux == 0
  | .fscale o => o.b.ok && o.c.unused && o.mods true false false false true && o.aux == 0
  | .fclass o => o.b.unused && o.c.unused && o.mods false false false false false && o.aux == 0
  -- R397: SF
  | .rcp o | .rsq o | .sqrt o | .exp2 o | .log2 o | .sin o | .cos o | .tanh o =>
      o.b.unused && o.c.unused && o.mods true false false false true && o.aux == 0
  -- Table 13-8: HX
  | .hfma2 o | .bfma2 o => o.b.ok && o.c.ok && o.mods true true true false true && o.aux == 0
  | .hmin2 o | .hmax2 o | .bmin2 o | .bmax2 o =>
      o.b.ok && o.c.unused && o.mods true true false false false && o.aux == 0
  | .hcmp2 o | .bcmp2 o => o.b.ok && o.c.unused && o.mods true true false false false && within 0x07 o.aux
  -- Table 13-9: DX
  | .dadd o | .dmul o => o.b.ok && o.c.unused && o.mods true true false false true && o.aux == 0
  | .dfma o => o.b.ok && o.c.ok && o.mods true true true false true && o.aux == 0
  | .dmin o | .dmax o => o.b.ok && o.c.unused && o.mods true true false false false && o.aux == 0
  | .dcmp o => o.b.ok && o.mods true true false false false && o.cmpOk 7
  -- R400: CVT, destination format in AUX [3:0], source format in AUX [7:4] as the worked word 0x0000_0003 shows
  | .cvt o =>
      let dst := (o.aux.extractLsb' 0 4).toNat
      let src := (o.aux.extractLsb' 4 4).toNat
      o.b.unused && o.c.unused && dst ≤ 8 && src ≤ 8 &&
      o.mods (cvtFloat src) false false (cvtInt src && cvtInt dst) (!(cvtInt src && cvtInt dst))
  -- Table 13-11: XA
  | .xclr o => o.d.toNat < 16 && o.a == 0 && o.b.unused && o.c.unused &&
      o.mods false false false false false && within 0x0F o.aux
  | .xadd o | .xsub o => o.d.toNat < 16 && o.a == 0 && o.b.ok && o.c.unused &&
      o.mods false false false false false && within 0x0F o.aux && (o.aux.extractLsb' 1 3).toNat ≤ 4
  | .xrnd o => o.a.toNat < 16 && o.b.unused && o.c.unused &&
      o.mods false false false false true && within 0x03 o.aux
  | .xget o => o.a.toNat < 16 && o.b.unused && o.c.unused &&
      o.mods false false false false false && within 0x1F o.aux && (o.aux.extractLsb' 0 4).toNat ≤ 9
  | .xset o => o.d.toNat < 16 && o.a == 0 && o.b.ok && o.c.unused &&
      o.mods false false false false false && o.aux.toNat ≤ 9
  | .xmov o => o.d.toNat < 16 && o.a.toNat < 16 && o.b.unused && o.c.unused &&
      o.mods false false false false false && within 0x01 o.aux
  | .xstat o => o.a.toNat < 16 && o.b.unused && o.c.unused &&
      o.mods false false false false false && within 0x01 o.aux
  -- Table 13-12: XL
  | .shfl o => o.b.ok && o.c.unused && o.mods false false false false false && within 0x03 o.aux
  | .vote o => o.a.toNat < 7 && (o.aux == 3 || o.d.toNat < 7) && o.b.unused && o.c.unused &&
      o.mods true false false false false && within 0x03 o.aux
  | .matchLanes o => o.b.unused && o.c.unused && o.mods false false false false false && within 0x03 o.aux
  | .elect o => o.d.toNat < 7 && o.a == 0 && o.b.unused && o.c.unused &&
      o.mods false false false false false && o.aux == 0
  | .red o => o.b.unused && o.c.unused && o.mods false false false false (o.aux == 8) && o.aux.toNat ≤ 10
  | .scan o => o.b.unused && o.c.unused &&
      o.mods false false false false (o.aux.extractLsb' 0 4 == 8) &&
      within 0x1F o.aux && (o.aux.extractLsb' 0 4).toNat ≤ 10
  | .bpack o | .bunpk o => o.b.unused && o.c.unused &&
      o.mods false false false false false && o.aux.toNat ≤ 2
  -- Table 13-14: PL
  | .plop3 o => o.d.toNat < 7 && o.a.toNat < 7 && o.b.isPred && o.c.isPred &&
      o.mods false false false false false
  | .p2v o => o.a == 0 && o.b.unused && o.c.unused && o.mods false false false false false && o.aux == 0
  | .v2p o => o.d == 0 && o.b.unused && o.c.unused && o.mods false false false false false && within 0x7F o.aux
  -- R335: lane control
  | .br o => o.d == 0
  | .call _ => true
  | .ret o => o.off == 0
  | .exit o => o.d == 0 && o.off == 0
  | .jmpi _ => true
  -- Tables 14-2, 14-3, R434, R462
  | .ld o => o.b.unused && o.m.ok (o.a.toNat % 2 == 1) && o.m.loadOk
  | .st o => o.b.unused && o.m.ok (o.a.toNat % 2 == 1) && o.m.storeOk
  | .atom o => o.b.ok && o.m.ok (o.a.toNat % 2 == 1) && o.m.atomOk (!o.b.isReg)
  | .cpa o => o.b.ok && o.m.ok (o.a.toNat % 2 == 1) && o.m.space != 4 && !o.m.sx && o.m.aop == 0 &&
      (o.m.ord == 0 || o.m.ord == 2) && (o.m.policy == 0 || o.m.space == 0)
  | .ardl o => o.b.unused && o.c.unused && !o.na && !o.nb && !o.nc && !o.sat && o.rm == 0 && o.aux == 0
  -- R355: UA
  | .uiadd o | .uisub o | .uimul o | .uminS o | .uminU o | .umaxS o | .umaxU o
  | .uand o | .uor o | .uxor o | .uandn o | .ushl o | .ushrU o | .ushrS o => o.b.ok
  | .umov o => o.b.ok && o.a == 0
  -- Table 12-2: UIX
  | .uimulhiS o | .uimulhiU o | .ubfeU o => o.b.ok && o.cUnused && o.md == 0 && o.aux == 0 && o.noFs
  | .ucmp o => o.d.toNat < 7 && o.b.ok && o.cUnused && o.md.toNat ≤ 9 && o.aux == 0 && o.noFs
  | .usel o => o.b.ok && o.c.toNat < 7 && !o.ck && o.md == 0 && o.aux == 0 && o.noFs
  | .upopc o | .uclz o => o.b.unused && o.cUnused && o.md == 0 && o.aux == 0 && o.noFs
  | .ubfi o => o.b.ok && o.md == 0 && o.aux == 0 && o.noFs
  | .uiadd64 o => o.b.ok && o.cUnused && o.md == 0 && o.aux == 0 && o.noFs
  | .ulea64 o => o.b.ok && o.cUnused && within 0x01 o.md && within 0x07 o.aux && o.noFs
  | .uqlop o => o.d.toNat < 7 && o.a.toNat < 7 && o.b.isPred && o.c.toNat < 7 && !o.ck && o.md == 0 && o.noFs
  | .urdl o => o.b.ok && o.cUnused && within 0x01 o.md && o.aux == 0 && o.noFs
  | .uwrl o => o.d == 0 && o.b.ok && within 0x01 o.md && o.aux == 0 && o.noFs
  -- R337: uniform control
  | .bru o => o.r == 0
  | .callu _ | .jmpu _ | .callx _ => true
  | .retu o | .retx o => o.off == 0
  | .exitw o | .nop o => o.r == 0 && o.off == 0
  -- R365 to R374: SYS
  | .trap o => o.d == 0 && o.a == 0 && o.b.unused && o.cUnused && o.md == 0 && o.noFs
  | .brkpt o | .eret o | .yield o =>
      o.d == 0 && o.a == 0 && o.b.unused && o.cUnused && o.md == 0 && o.aux == 0 && o.noFs
  | .svc o => o.b.ok && !o.ck && o.md == 0 && o.aux == 0
  | .srd o => o.a == 0 && o.b.unused && o.cUnused && within 0x03 o.md && (o.md != 2) && within 0x3F o.aux && o.noFs
  | .swr o => o.d == 0 && o.b.unused && o.cUnused && o.md == 0 && within 0x3F o.aux && o.noFs
  | .smode o => o.d == 0 && o.a == 0 && o.b.ok && o.cUnused && within 0x01 o.md && o.noFs
  | .part o | .sleep o => o.d == 0 && o.a == 0 && o.b.ok && o.cUnused && o.md == 0 && o.aux == 0 && o.noFs
  | .ovlld o => o.a == 0 && o.b.ok && o.cUnused && o.md == 0 && o.aux == 0
  -- Table 14-4
  | .waitmem o => o.b.ok && within 0x07 o.md && within 0x3F o.aux &&
      (o.aux.extractLsb' 0 3).toNat ≤ 5 && (o.aux.extractLsb' 3 3).toNat ≤ 5 &&
      (o.md.extractLsb' 0 2 != 0 || even6 o.a)
  | .fence o => o.d == 0 && o.a == 0 && o.b.unused && o.cUnused && o.md == 0 && o.aux.toNat ≤ 5 && o.noFs
  | .pub o => even6 o.a && o.b.unused && o.cUnused && o.md == 0 && o.aux.toNat ≤ 5
  -- Table 14-6
  | .barInit o => o.d == 0 && o.b.ok && o.cUnused && within 0x01 o.md && o.aux.toNat ≤ 2 &&
      !(o.md == 0 && o.aux == 2) && o.noFs
  | .barArrive o => o.b.ok && o.cUnused && within 0x01 o.md && o.aux == 0 && o.noFs
  | .barExpect o => o.d == 0 && o.b.ok && o.cUnused && within 0x01 o.md && o.aux == 0 && o.noFs
  | .barWait o => o.d.toNat < 7 && o.b.ok && o.cUnused && within 0x01 o.md && o.aux == 0
  | .barTest o => o.d.toNat < 7 && o.b.ok && o.cUnused && within 0x01 o.md && o.aux == 0 && o.noFs
  | .barInval o => o.d == 0 && o.b.unused && o.cUnused && within 0x01 o.md && o.aux == 0 && o.noFs
  -- R375 to R378
  | .launch o => even6 o.a && o.b.unused && o.cUnused && o.md == 0 && within 0x03 o.aux
  | .cntadd o => o.d.toNat < 7 && o.b.ok && o.cUnused && o.md == 0 && within 0x03 o.aux && o.noFs
  | .cancel o => o.d == 0 && o.b.unused && o.cUnused && o.md == 0 && within 0x03 o.aux && o.noFs
  | .cntwait o => o.b.unused && o.cUnused && o.md == 0 && within 0x03 o.aux
  -- R415, Tables 14-2, 14-3: uniform memory; L space is reserved
  | .uld o => o.b.unused && o.m.ok (!even6 o.a) && o.m.space != 4 && o.m.loadOk
  | .ust o => o.b.unused && o.m.ok (!even6 o.a) && o.m.space != 4 && o.m.storeOk
  | .uatom o => o.b.ok && o.m.ok (!even6 o.a) && o.m.space != 4 && o.m.atomOk (!o.b.isReg)
  -- R438, R442, R443
  | .txf o => even6 o.a && o.b.unused && o.cUnused && o.md == 0 && o.aux == 0
  | .txcan o => o.d == 0 && o.a == 0 && o.b.unused && o.cUnused && o.md == 0 && within 0x1F o.aux &&
      (o.aux.extractLsb' 0 4).toNat ≤ 11 && (o.aux.extractLsb' 4 1 == 0 || o.aux.extractLsb' 0 4 == 0)
  | .mqEnq o | .mqDeq o => even6 o.a && o.b.isReg && o.cUnused && within 0x03 o.md && o.aux.toNat ≤ 5
  -- Table 15-2
  | .qfuse o => o.d == 0 && o.a == 0 && o.b.unused && o.cUnused && o.md == 0 && o.aux.toNat ≤ 2
  | .wload o | .adrn o => o.d == 0 && o.b.unused && o.cUnused && o.md == 0 && o.aux == 0
  | .wswap o => o.d == 0 && o.a == 0 && o.b.unused && o.cUnused && o.md == 0 && o.aux == 0
  | .mms o => o.d == 0 && o.b.unused && o.cUnused && within 0x1F o.md &&
      (o.md.extractLsb' 0 4).toNat ≤ 7 && o.aux == 0
  | .aclr o => o.d == 0 && o.a == 0 && o.b.ok && o.cUnused && o.md == 0 && o.aux == 0
  | .mstat o => o.a == 0 && o.b.ok && o.cUnused && within 0x01 o.md && o.aux.toNat ≤ 4 &&
      (o.md == 0 || o.aux == 0)
  -- device events: what they act on stands in the state
  | .coldReset | .pwrgoodFall | .perstNAssert | .rstctlWarm | .bootRom | .bootStage1 | .bootStage2Load |
    .bootStage2 | .bootReady | .configurationRequest | .thermalSensorReading | .throtNChange | .heatFluxWindow |
    .pwrlimWindowEnd | .pwrlimWrite | .clockStepDown | .throttleExitTimer | .clockStepUp | .rollbackRaise |
    .getVersion | .getCapabilities | .negotiateAlgorithms | .getDigests | .getCertificate | .challenge |
    .getMeasurements | .keyExchange | .finish | .keyUpdate | .boardIdentityMessage | .portRetrain |
    .portTrainingDone | .podcfgEn | .flitReceive | .idleFlit | .linkTimeout | .rekeyStart | .rekeyBankErase |
    .bisnpcur | .bisnpdata | .bisnpinv | .homeReadShared | .homeReadOwn | .homeWriteBack | .homeCleanEvict |
    .farAtomic | .moduleQueueEnqueue | .moduleQueueDequeue | .snoopTimeout | .moduleHeadLoss | .moduleFailure |
    .podRecordArrival | .relayWrite | .relayRead | .relayFarAtomic | .relayQueueEnqueue | .relayQueueDequeue |
    .relayDelivery | .deliveryStore | .relayContribution | .relayResponse | .moduleContribution |
    .contributionRetry | .slotNotification | .readyNotification | .chunkWaitTimeout | .slotLinkLost |
    .tlbinvStart | .tlbinvDone | .move | .movesb | .evict | .migrationDrainDone | .migrationCopyDone |
    .sbrmctlClr | .heatScan | .fqreplayReplay | .fqreplayFail | .faultQueuePost | .parkedAccessAdmit |
    .dirtySwitch | .dirtyDrainDone | .hostWindowRead | .hostWindowWrite | .hostWindowAtomic | .windowParkTimeout |
    .submissionWrite | .nodeRecord | .graphRecord | .cancelRecord | .fncfgEnable | .fncfgDisable | .fncfgPause |
    .fncfgUnpause | .functionLevelReset | .flrComplete | .tstampRead | .msixModerationExpiry | .hostCompletion |
    .hostRequestTimeout | .svcReply | .serviceQueuePost | .hartAccess | .controlWindowWrite | .dispatch |
    .reservationTake | .groupComplete | .nodeDone | .eventSignal | .eventSignalAdd | .eventWait |
    .eventWaitRecheck | .serviceFunction | .tileTransferNode | .collectiveNode | .starvationRemedy |
    .starvationRestore | .starvationLimit | .clearingDeclare | .clearingMigrate | .gladeGrow | .gladeShrink |
    .gladeCommit | .gladeAbort | .gladeReset | .rehashSweep | .rehashDone | .undoDone | .canopyCopyDone |
    .commitDrainDone | .scrubDone | .sliceEnd | .drainDeadline | .groupSave | .groupRestore | .clauseBegin |
    .imemFill | .spinDemotionExpiry | .fairnessBoost | .yieldTimeout | .sleepExpiry | .waitmemRecheck |
    .accessPerformed | .cpaCompletion | .txfCompletion | .mqResult | .pubFlip | .ovlldCompletion | .launchAccept |
    .matrixCommandCompletion | .quadrantStallSave | .arrayRowFailure | .msixVectorUnmask => true

end Sys2Proof
end

