-- ==== Sys2Proof/Decode.lean ====
section
/-!
DEFINITION. Decoding the words of 11 Tables 11-1 to 11-6 into instructions, and the encoder written from the same
tables. Rows 1 and 2 of Table 11-7 are the two ways a word is rejected.
-/
namespace Sys2Proof

/-- Why words name no instruction. -/
inductive DecodeError where
  /-- Table 11-7 row 1: reserved major opcode, or a sub-op beyond the family's members. -/
  | reserved
  /-- Table 11-7 row 2: a nonzero reserved or unused field, or a reserved field value. -/
  | field
  /-- The words end before the instruction does (R249, reason 3). -/
  | short
  deriving DecidableEq, Repr

/-- The TINFO reason of 11 Table 11-7; `short` is reported by the clause (R262) and has none. -/
def DecodeError.reason : DecodeError → Nat
  | .reserved => 1
  | .field => 2
  | .short => 0

/-! ## Opcode maps, 11 Tables 11-5 and 11-6 -/

/-- Table 11-5, majors 0x00 to 0x1A. -/
def laForms : List (LaOps → Instr) :=
  [.iadd, .isub, .imul, .iadds, .isubs, .iminS, .iminU, .imaxS, .imaxU, .and, .or, .xor, .andn, .shl, .shrU, 
   .shrS, .rotr, .mov, .fadd, .fsub, .fmul, .fmin, .fmax, .hadd2, .hmul2, .badd2, .bmul2]

/-- Table 11-5, the LX families, members in sub-op order. -/
def lxFamily : Nat → List (LxOps → Instr)
  | 0x20 => [.imulhiS, .imulhiU, .imad, .bfeU, .bfeS, .bfi, .popc, .clz, .brev, .prmt, .lea, .iadd3, .isad, 
      .icmp, .sel, .iadd64]
  | 0x21 => [.fma, .fcmp, .frnd, .ffract, .fscale, .fclass]
  | 0x22 => [.rcp, .rsq, .sqrt, .exp2, .log2, .sin, .cos, .tanh]
  | 0x23 => [.hfma2, .bfma2, .hmin2, .hmax2, .bmin2, .bmax2, .hcmp2, .bcmp2]
  | 0x24 => [.dadd, .dmul, .dfma, .dmin, .dmax, .dcmp]
  | 0x25 => [.cvt]
  | 0x26 => [.xclr, .xadd, .xsub, .xrnd, .xget, .xset, .xmov, .xstat]
  | 0x27 => [.shfl, .vote, .matchLanes, .elect, .red, .scan, .bpack, .bunpk]
  | 0x28 => [.plop3, .p2v, .v2p]
  | 0x35 => [.ardl]
  | _ => []

/-- Table 11-5, the branch forms. -/
def lbForm : Nat → Option (LbOps → Instr)
  | 0x2C => some .br
  | 0x2D => some .call
  | 0x2E => some .ret
  | 0x2F => some .exit
  | _ => none

/-- Table 11-5, the memory forms. -/
def lmForm : Nat → Option (LmOps → Instr)
  | 0x31 => some .ld
  | 0x32 => some .st
  | 0x33 => some .atom
  | 0x34 => some .cpa
  | _ => none

/-- Table 11-6, majors 0x00 to 0x0E. -/
def uaForms : List (UaOps → Instr) :=
  [.uiadd, .uisub, .uimul, .uminS, .uminU, .umaxS, .umaxU, .uand, .uor, .uxor, .uandn, .ushl, .ushrU, .ushrS, 
   .umov]

/-- Table 11-6, the UX families, members in sub-op order. -/
def uxFamily : Nat → List (UxOps → Instr)
  | 0x10 => [.uimulhiS, .uimulhiU, .ucmp, .usel, .upopc, .uclz, .ubfeU, .ubfi, .uiadd64, .ulea64, .uqlop, 
      .urdl, .uwrl]
  | 0x20 => [.trap, .brkpt, .svc, .eret, .srd, .swr, .smode, .part, .ovlld, .yield, .sleep, .waitmem, .fence, 
      .pub]
  | 0x21 => [.barInit, .barArrive, .barExpect, .barWait, .barTest, .barInval]
  | 0x22 => [.launch, .cntadd, .cancel, .cntwait]
  | 0x2B => [.txf]
  | 0x2C => [.txcan]
  | 0x2D => [.mqEnq, .mqDeq]
  | 0x30 => [.qfuse, .wload, .wswap, .mms, .aclr, .adrn, .mstat]
  | _ => []

/-- Table 11-6, the one-word control forms. -/
def ubForm : Nat → Option (UbOps → Instr)
  | 0x18 => some .bru
  | 0x19 => some .callu
  | 0x1A => some .retu
  | 0x1D => some .retx
  | 0x1E => some .exitw
  | 0x1F => some .nop
  | _ => none

/-- Table 11-6, the uniform memory forms. -/
def umForm : Nat → Option (UmOps → Instr)
  | 0x28 => some .uld
  | 0x29 => some .ust
  | 0x2A => some .uatom
  | _ => none

/-- How many words the LX family of a major has (0 where the major is no LX family). -/
def isLx (maj : Nat) : Bool := !(lxFamily maj).isEmpty
def isUx (maj : Nat) : Bool := !(uxFamily maj).isEmpty

/-! ## Fields -/

/-- Bits hi to lo of a word. -/
def fld (w : Word) (lo len : Nat) : BitVec len := w.extractLsb' lo len

/-- One bit of a word. -/
def flag (w : Word) (i : Nat) : Bool := w.getLsbD i

/-- The major opcode, bits [30:25]. -/
def majorOf (w : Word) : Nat := (fld w 25 6).toNat

/-- Table 11-3 read from a select bit and a 7-bit value; the literal is the next of the words that follow. -/
def takeLSrc (k : Bool) (x : BitVec 7) (ws : List Word) : Except DecodeError (LSrc × List Word) :=
  if !k then .ok (.vreg x, ws)
  else if x.toNat < 64 then .ok (.sreg (x.extractLsb' 0 6), ws)
  else if x == 127 then
    match ws with
    | [] => .error .short
    | w :: t => .ok (.lit w, t)
  else .ok (.inl x, ws)

/-- Table 11-4, field b of the uniform formats. -/
def takeUSrc (k : Bool) (x : BitVec 9) (ws : List Word) : Except DecodeError (USrc × List Word) :=
  if !k then
    if x.toNat < 64 then .ok (.sreg (x.extractLsb' 0 6), ws) else .error .field
  else if x == 0x100 then
    match ws with
    | [] => .error .short
    | w :: t => .ok (.lit w, t)
  else .ok (.imm x, ws)

/-- Word 1 of LM and UM (Table 11-2). -/
def memFields (w : Word) : MemFields where
  space := fld w 28 4
  size := fld w 25 3
  sx := flag w 24
  policy := fld w 22 2
  ord := fld w 20 2
  scope := fld w 17 3
  fs := flag w 16
  aop := fld w 12 4
  off := fld w 0 12

/-! ## Reading the formats -/

def readLa (f : LaOps → Instr) (w : Word) (ws : List Word) : Except DecodeError (Instr × List Word) := do
  let (b, t) ← takeLSrc (flag w 7) (fld w 0 7) ws
  .ok (f ⟨fld w 22 3, fld w 15 7, fld w 8 7, b⟩, t)

def readLx (fam : List (LxOps → Instr)) (w : Word) : List Word → Except DecodeError (Instr × List Word)
  | [] => .error .short
  | x :: ws => do
    let some f := fam[(fld x 24 8).toNat]? | .error .reserved
    let (b, t) ← takeLSrc (flag w 7) (fld w 0 7) ws
    let (c, t) ← takeLSrc (flag x 16) (fld x 17 7) t
    .ok (f ⟨fld w 22 3, fld w 15 7, fld w 8 7, b, c, flag x 15, flag x 14, flag x 13, flag x 12, fld x 9 3,
      flag x 8, fld x 0 8⟩, t)

def readLb (f : LbOps → Instr) (w : Word) (ws : List Word) : Except DecodeError (Instr × List Word) :=
  .ok (f ⟨fld w 22 3, fld w 15 7, fld w 0 15⟩, ws)

/-- R335: word 0 of `JMPI` has d, bk and b 0. -/
def readJmpi (w : Word) : List Word → Except DecodeError (Instr × List Word)
  | [] => .error .short
  | x :: ws =>
    if fld w 15 7 == 0 && fld w 0 8 == 0 then .ok (.jmpi ⟨fld w 22 3, fld w 8 7, fld x 16 16, fld x 0 16⟩, ws)
    else .error .field

def readLm (f : LmOps → Instr) (w : Word) : List Word → Except DecodeError (Instr × List Word)
  | [] => .error .short
  | x :: ws => do
    let (b, t) ← takeLSrc (flag w 7) (fld w 0 7) ws
    .ok (f ⟨fld w 22 3, fld w 15 7, fld w 8 7, b, memFields x⟩, t)

def readUa (f : UaOps → Instr) (w : Word) (ws : List Word) : Except DecodeError (Instr × List Word) := do
  let (b, t) ← takeUSrc (flag w 9) (fld w 0 9) ws
  .ok (f ⟨fld w 22 3, fld w 16 6, fld w 10 6, b⟩, t)

def readUx (fam : List (UxOps → Instr)) (w : Word) : List Word → Except DecodeError (Instr × List Word)
  | [] => .error .short
  | x :: ws => do
    let some f := fam[(fld x 24 8).toNat]? | .error .reserved
    let (b, t) ← takeUSrc (flag w 9) (fld w 0 9) ws
    .ok (f ⟨fld w 22 3, fld w 16 6, fld w 10 6, b, fld x 18 6, flag x 17, fld x 9 8, flag x 8, fld x 0 8⟩, t)

def readUb (f : UbOps → Instr) (w : Word) (ws : List Word) : Except DecodeError (Instr × List Word) :=
  .ok (f ⟨fld w 22 3, fld w 16 6, fld w 0 16⟩, ws)

/-- R337: word 0 of `JMPU` has offset 0. -/
def readJmpu (w : Word) : List Word → Except DecodeError (Instr × List Word)
  | [] => .error .short
  | x :: ws =>
    if fld w 0 16 == 0 then .ok (.jmpu ⟨fld w 22 3, fld w 16 6, fld x 16 16, fld x 0 16⟩, ws) else .error .field

/-- R337: word 0 of `CALLX` has offset 0; bits [31:20] and [15:14] of word 1 are 0. -/
def readCallx (w : Word) : List Word → Except DecodeError (Instr × List Word)
  | [] => .error .short
  | x :: ws =>
    if fld w 0 16 == 0 && fld x 20 12 == 0 && fld x 14 2 == 0 then
      .ok (.callx ⟨fld w 22 3, fld w 16 6, fld x 16 4, fld x 0 14⟩, ws)
    else .error .field

def readUm (f : UmOps → Instr) (w : Word) : List Word → Except DecodeError (Instr × List Word)
  | [] => .error .short
  | x :: ws => do
    let (b, t) ← takeUSrc (flag w 9) (fld w 0 9) ws
    .ok (f ⟨fld w 22 3, fld w 16 6, fld w 10 6, b, memFields x⟩, t)

/-- Table 11-5. -/
def readLane (w : Word) (ws : List Word) : Except DecodeError (Instr × List Word) :=
  match laForms[majorOf w]?, lbForm (majorOf w), lmForm (majorOf w) with
  | some f, _, _ => readLa f w ws
  | _, some f, _ => readLb f w ws
  | _, _, some f => readLm f w ws
  | _, _, _ =>
    if majorOf w == 0x30 then readJmpi w ws
    else if isLx (majorOf w) then readLx (lxFamily (majorOf w)) w ws
    else .error .reserved

/-- Table 11-6. -/
def readUniform (w : Word) (ws : List Word) : Except DecodeError (Instr × List Word) :=
  match uaForms[majorOf w]?, ubForm (majorOf w), umForm (majorOf w) with
  | some f, _, _ => readUa f w ws
  | _, some f, _ => readUb f w ws
  | _, _, some f => readUm f w ws
  | _, _, _ =>
    if majorOf w == 0x1B then readJmpu w ws
    else if majorOf w == 0x1C then readCallx w ws
    else if isUx (majorOf w) then readUx (uxFamily (majorOf w)) w ws
    else .error .reserved

/-- Read one instruction's fields, before the checks of row 2. -/
def readWords : List Word → Except DecodeError (Instr × List Word)
  | [] => .error .short
  | w :: ws => if flag w 31 then readUniform w ws else readLane w ws

/-- The instruction that the words begin with, and the words after it (rows 1 and 2 of Table 11-7). -/
def decode (ws : List Word) : Except DecodeError (Instr × List Word) :=
  match readWords ws with
  | .ok (i, t) => if wellFormed i then .ok (i, t) else .error .field
  | .error e => .error e

/-! ## Lengths and transfers, for the header checks (R323 to R325) -/

/-- The words an instruction takes, its literal words included (R323, R329, R333); a reserved major counts as one
word (DEDUCED, log 21). `x` is the word after it. -/
def wordCount (w x : Word) : Nat :=
  let maj := majorOf w
  if flag w 31 then
    let lit := if flag w 9 && fld w 0 9 == 0x100 then 1 else 0
    if maj < 0x0F then 1 + lit
    else if isUx maj || (umForm maj).isSome then 2 + lit
    else if maj == 0x1B || maj == 0x1C then 2
    else 1
  else
    let litB := if flag w 7 && fld w 0 7 == 127 then 1 else 0
    let litC := if flag x 16 && fld x 17 7 == 127 then 1 else 0
    if maj < 0x1B then 1 + litB
    else if isLx maj then 2 + litB + litC
    else if (lmForm maj).isSome then 2 + litB
    else if maj == 0x30 then 2
    else 1

/-- The control transfers of R324, by opcode. -/
def isTransfer (w x : Word) : Bool :=
  let maj := majorOf w
  if flag w 31 then (0x18 ≤ maj && maj ≤ 0x1E) || (maj == 0x20 && fld x 24 8 == 3)
  else 0x2C ≤ maj && maj ≤ 0x30

/-- Whether the instruction takes its second word's sub-op (the word must exist for `isTransfer`). -/
def needsSecond (w : Word) : Bool :=
  if flag w 31 then !(majorOf w < 0x0F) && (isUx (majorOf w) || (umForm (majorOf w)).isSome) else isLx (majorOf w)

/-! ## The clause header, 11 Table 11-1 -/

structure Header where
  /-- LEN, 1 to 16. -/
  len : Nat
  /-- WAIT: bit i stands for flag fi. -/
  wait : BitVec 12
  fa : Nat
  fb : Nat
  prio : Nat
  yld : Bool
  bit0 : Bool
  deriving DecidableEq, Repr

def Header.ofWord (w : Word) : Header where
  len := if fld w 28 4 == 0 then 16 else (fld w 28 4).toNat
  wait := fld w 16 12
  fa := (fld w 12 4).toNat
  fb := (fld w 8 4).toNat
  prio := (fld w 2 6).toNat
  yld := flag w 1
  bit0 := flag w 0

/-- R323: FA and FB name f0 to f11, or 15 for none. -/
def Header.flagsOk (h : Header) : Bool := (h.fa < 12 || h.fa == 15) && (h.fb < 12 || h.fb == 15)

/-! ## The encoder -/

def bit1 (b : Bool) : BitVec 1 := if b then 1#1 else 0#1

/-- Select bit and value of a lane b or c operand (Table 11-3). -/
def LSrc.sel : LSrc → Bool
  | .vreg _ => false
  | _ => true

def LSrc.val : LSrc → BitVec 7
  | .vreg r => r
  | .sreg r => r.zeroExtend 7
  | .inl n => n
  | .lit _ => 127

def LSrc.words : LSrc → List Word
  | .lit w => [w]
  | _ => []

def USrc.sel : USrc → Bool
  | .sreg _ => false
  | _ => true

def USrc.val : USrc → BitVec 9
  | .sreg r => r.zeroExtend 9
  | .imm n => n
  | .lit _ => 0x100

def USrc.words : USrc → List Word
  | .lit w => [w]
  | _ => []

/-- Word 0 of LA, LX and LM. -/
def laWord (maj : BitVec 6) (g : BitVec 3) (d a : BitVec 7) (b : LSrc) : Word :=
  0#1 ++ maj ++ g ++ d ++ a ++ bit1 b.sel ++ b.val

/-- Word 0 of UA, UX and UM. -/
def uaWord (maj : BitVec 6) (q : BitVec 3) (d a : BitVec 6) (b : USrc) : Word :=
  1#1 ++ maj ++ q ++ d ++ a ++ bit1 b.sel ++ b.val

def ubWord (maj : BitVec 6) (q : BitVec 3) (r : BitVec 6) (off : BitVec 16) : Word := 1#1 ++ maj ++ q ++ r ++ off

def memWord (m : MemFields) : Word :=
  m.space ++ m.size ++ bit1 m.sx ++ m.policy ++ m.ord ++ m.scope ++ bit1 m.fs ++ m.aop ++ m.off

def encLa (maj : BitVec 6) (o : LaOps) : List Word := laWord maj o.g o.d o.a o.b :: o.b.words

def encLx (maj : BitVec 6) (sub : BitVec 8) (o : LxOps) : List Word :=
  laWord maj o.g o.d o.a o.b ::
    (sub ++ o.c.val ++ bit1 o.c.sel ++ bit1 o.na ++ bit1 o.nb ++ bit1 o.nc ++ bit1 o.sat ++ o.rm ++ bit1 o.fs ++ o.aux)
    :: (o.b.words ++ o.c.words)

def encLb (maj : BitVec 6) (o : LbOps) : List Word := [0#1 ++ maj ++ o.g ++ o.d ++ o.off]

def encJmpi (o : JmpiOps) : List Word := [laWord 0x30 o.g 0 o.a (.vreg 0), o.count ++ o.table]

def encLm (maj : BitVec 6) (o : LmOps) : List Word := laWord maj o.g o.d o.a o.b :: memWord o.m :: o.b.words

def encUa (maj : BitVec 6) (o : UaOps) : List Word := uaWord maj o.q o.d o.a o.b :: o.b.words

def encUx (maj : BitVec 6) (sub : BitVec 8) (o : UxOps) : List Word :=
  uaWord maj o.q o.d o.a o.b :: (sub ++ o.c ++ bit1 o.ck ++ o.md ++ bit1 o.fs ++ o.aux) :: o.b.words

def encUb (maj : BitVec 6) (o : UbOps) : List Word := [ubWord maj o.q o.r o.off]

def encJmpu (o : JmpuOps) : List Word := [ubWord 0x1B o.q o.r 0, o.count ++ o.table]

def encCallx (o : CallxOps) : List Word := [ubWord 0x1C o.q o.r 0, 0#12 ++ o.ovl ++ 0#2 ++ o.off]

def encUm (maj : BitVec 6) (o : UmOps) : List Word := uaWord maj o.q o.d o.a o.b :: memWord o.m :: o.b.words

/-- The words of an instruction (11 Tables 11-2 to 11-6); a device event has none. -/
def encode : Instr → List Word
  | .iadd o => encLa 0x00 o
  | .isub o => encLa 0x01 o
  | .imul o => encLa 0x02 o
  | .iadds o => encLa 0x03 o
  | .isubs o => encLa 0x04 o
  | .iminS o => encLa 0x05 o
  | .iminU o => encLa 0x06 o
  | .imaxS o => encLa 0x07 o
  | .imaxU o => encLa 0x08 o
  | .and o => encLa 0x09 o
  | .or o => encLa 0x0A o
  | .xor o => encLa 0x0B o
  | .andn o => encLa 0x0C o
  | .shl o => encLa 0x0D o
  | .shrU o => encLa 0x0E o
  | .shrS o => encLa 0x0F o
  | .rotr o => encLa 0x10 o
  | .mov o => encLa 0x11 o
  | .fadd o => encLa 0x12 o
  | .fsub o => encLa 0x13 o
  | .fmul o => encLa 0x14 o
  | .fmin o => encLa 0x15 o
  | .fmax o => encLa 0x16 o
  | .hadd2 o => encLa 0x17 o
  | .hmul2 o => encLa 0x18 o
  | .badd2 o => encLa 0x19 o
  | .bmul2 o => encLa 0x1A o
  | .imulhiS o => encLx 0x20 0 o
  | .imulhiU o => encLx 0x20 1 o
  | .imad o => encLx 0x20 2 o
  | .bfeU o => encLx 0x20 3 o
  | .bfeS o => encLx 0x20 4 o
  | .bfi o => encLx 0x20 5 o
  | .popc o => encLx 0x20 6 o
  | .clz o => encLx 0x20 7 o
  | .brev o => encLx 0x20 8 o
  | .prmt o => encLx 0x20 9 o
  | .lea o => encLx 0x20 10 o
  | .iadd3 o => encLx 0x20 11 o
  | .isad o => encLx 0x20 12 o
  | .icmp o => encLx 0x20 13 o
  | .sel o => encLx 0x20 14 o
  | .iadd64 o => encLx 0x20 15 o
  | .fma o => encLx 0x21 0 o
  | .fcmp o => encLx 0x21 1 o
  | .frnd o => encLx 0x21 2 o
  | .ffract o => encLx 0x21 3 o
  | .fscale o => encLx 0x21 4 o
  | .fclass o => encLx 0x21 5 o
  | .rcp o => encLx 0x22 0 o
  | .rsq o => encLx 0x22 1 o
  | .sqrt o => encLx 0x22 2 o
  | .exp2 o => encLx 0x22 3 o
  | .log2 o => encLx 0x22 4 o
  | .sin o => encLx 0x22 5 o
  | .cos o => encLx 0x22 6 o
  | .tanh o => encLx 0x22 7 o
  | .hfma2 o => encLx 0x23 0 o
  | .bfma2 o => encLx 0x23 1 o
  | .hmin2 o => encLx 0x23 2 o
  | .hmax2 o => encLx 0x23 3 o
  | .bmin2 o => encLx 0x23 4 o
  | .bmax2 o => encLx 0x23 5 o
  | .hcmp2 o => encLx 0x23 6 o
  | .bcmp2 o => encLx 0x23 7 o
  | .dadd o => encLx 0x24 0 o
  | .dmul o => encLx 0x24 1 o
  | .dfma o => encLx 0x24 2 o
  | .dmin o => encLx 0x24 3 o
  | .dmax o => encLx 0x24 4 o
  | .dcmp o => encLx 0x24 5 o
  | .cvt o => encLx 0x25 0 o
  | .xclr o => encLx 0x26 0 o
  | .xadd o => encLx 0x26 1 o
  | .xsub o => encLx 0x26 2 o
  | .xrnd o => encLx 0x26 3 o
  | .xget o => encLx 0x26 4 o
  | .xset o => encLx 0x26 5 o
  | .xmov o => encLx 0x26 6 o
  | .xstat o => encLx 0x26 7 o
  | .shfl o => encLx 0x27 0 o
  | .vote o => encLx 0x27 1 o
  | .matchLanes o => encLx 0x27 2 o
  | .elect o => encLx 0x27 3 o
  | .red o => encLx 0x27 4 o
  | .scan o => encLx 0x27 5 o
  | .bpack o => encLx 0x27 6 o
  | .bunpk o => encLx 0x27 7 o
  | .plop3 o => encLx 0x28 0 o
  | .p2v o => encLx 0x28 1 o
  | .v2p o => encLx 0x28 2 o
  | .br o => encLb 0x2C o
  | .call o => encLb 0x2D o
  | .ret o => encLb 0x2E o
  | .exit o => encLb 0x2F o
  | .jmpi o => encJmpi o
  | .ld o => encLm 0x31 o
  | .st o => encLm 0x32 o
  | .atom o => encLm 0x33 o
  | .cpa o => encLm 0x34 o
  | .ardl o => encLx 0x35 0 o
  | .uiadd o => encUa 0x00 o
  | .uisub o => encUa 0x01 o
  | .uimul o => encUa 0x02 o
  | .uminS o => encUa 0x03 o
  | .uminU o => encUa 0x04 o
  | .umaxS o => encUa 0x05 o
  | .umaxU o => encUa 0x06 o
  | .uand o => encUa 0x07 o
  | .uor o => encUa 0x08 o
  | .uxor o => encUa 0x09 o
  | .uandn o => encUa 0x0A o
  | .ushl o => encUa 0x0B o
  | .ushrU o => encUa 0x0C o
  | .ushrS o => encUa 0x0D o
  | .umov o => encUa 0x0E o
  | .uimulhiS o => encUx 0x10 0 o
  | .uimulhiU o => encUx 0x10 1 o
  | .ucmp o => encUx 0x10 2 o
  | .usel o => encUx 0x10 3 o
  | .upopc o => encUx 0x10 4 o
  | .uclz o => encUx 0x10 5 o
  | .ubfeU o => encUx 0x10 6 o
  | .ubfi o => encUx 0x10 7 o
  | .uiadd64 o => encUx 0x10 8 o
  | .ulea64 o => encUx 0x10 9 o
  | .uqlop o => encUx 0x10 10 o
  | .urdl o => encUx 0x10 11 o
  | .uwrl o => encUx 0x10 12 o
  | .bru o => encUb 0x18 o
  | .callu o => encUb 0x19 o
  | .retu o => encUb 0x1A o
  | .jmpu o => encJmpu o
  | .callx o => encCallx o
  | .retx o => encUb 0x1D o
  | .exitw o => encUb 0x1E o
  | .nop o => encUb 0x1F o
  | .trap o => encUx 0x20 0 o
  | .brkpt o => encUx 0x20 1 o
  | .svc o => encUx 0x20 2 o
  | .eret o => encUx 0x20 3 o
  | .srd o => encUx 0x20 4 o
  | .swr o => encUx 0x20 5 o
  | .smode o => encUx 0x20 6 o
  | .part o => encUx 0x20 7 o
  | .ovlld o => encUx 0x20 8 o
  | .yield o => encUx 0x20 9 o
  | .sleep o => encUx 0x20 10 o
  | .waitmem o => encUx 0x20 11 o
  | .fence o => encUx 0x20 12 o
  | .pub o => encUx 0x20 13 o
  | .barInit o => encUx 0x21 0 o
  | .barArrive o => encUx 0x21 1 o
  | .barExpect o => encUx 0x21 2 o
  | .barWait o => encUx 0x21 3 o
  | .barTest o => encUx 0x21 4 o
  | .barInval o => encUx 0x21 5 o
  | .launch o => encUx 0x22 0 o
  | .cntadd o => encUx 0x22 1 o
  | .cancel o => encUx 0x22 2 o
  | .cntwait o => encUx 0x22 3 o
  | .uld o => encUm 0x28 o
  | .ust o => encUm 0x29 o
  | .uatom o => encUm 0x2A o
  | .txf o => encUx 0x2B 0 o
  | .txcan o => encUx 0x2C 0 o
  | .mqEnq o => encUx 0x2D 0 o
  | .mqDeq o => encUx 0x2D 1 o
  | .qfuse o => encUx 0x30 0 o
  | .wload o => encUx 0x30 1 o
  | .wswap o => encUx 0x30 2 o
  | .mms o => encUx 0x30 3 o
  | .aclr o => encUx 0x30 4 o
  | .adrn o => encUx 0x30 5 o
  | .mstat o => encUx 0x30 6 o
  | .coldReset | .pwrgoodFall | .perstNAssert | .rstctlWarm | .bootRom | .bootStage1 | .bootStage2Load |
    .bootStage2 | .bootReady | .configurationRequest | .thermalSensorReading | .throtNChange | .heatFluxWindow |
    .pwrlimWindowEnd | .pwrlimWrite | .clockStepDown | .throttleExitTimer | .clockStepUp | .rollbackRaise |
    .getVersion | .getCapabilities | .negotiateAlgorithms | .getDigests | .getCertificate | .challenge |
    .getMeasurements | .keyExchange | .finish | .keyUpdate | .boardIdentityMessage | .portRetrain |
    .portTrainingDone | .podcfgEn | .flitReceive | .idleFlit | .linkTimeout | .rekeyStart | .rekeyBankErase |
    .bisnpcur | .bisnpdata | .bisnpinv | .homeReadShared | .homeReadOwn | .homeWriteBack | .homeCleanEvict |
    .farAtomic | .moduleQueueEnqueue | .moduleQueueDequeue | .snoopTimeout | .moduleHeadLoss | .moduleFailure |
    .podRecordArrival | .relayWrite | .relayRead | .relayFarAtomic | .relayQueueEnqueue | .relayQueueDequeue |
    .relayDelivery | .deliveryStore | .relayContribution | .relayResponse | .moduleContribution |
    .contributionRetry | .slotNotification | .readyNotification | .chunkWaitTimeout | .slotLinkLost |
    .tlbinvStart | .tlbinvDone | .move | .movesb | .evict | .migrationDrainDone | .migrationCopyDone |
    .sbrmctlClr | .heatScan | .fqreplayReplay | .fqreplayFail | .faultQueuePost | .parkedAccessAdmit |
    .dirtySwitch | .dirtyDrainDone | .hostWindowRead | .hostWindowWrite | .hostWindowAtomic | .windowParkTimeout |
    .submissionWrite | .nodeRecord | .graphRecord | .cancelRecord | .fncfgEnable | .fncfgDisable | .fncfgPause |
    .fncfgUnpause | .functionLevelReset | .flrComplete | .tstampRead | .msixModerationExpiry | .hostCompletion |
    .hostRequestTimeout | .svcReply | .serviceQueuePost | .hartAccess | .controlWindowWrite | .dispatch |
    .reservationTake | .groupComplete | .nodeDone | .eventSignal | .eventSignalAdd | .eventWait |
    .eventWaitRecheck | .serviceFunction | .tileTransferNode | .collectiveNode | .starvationRemedy |
    .starvationRestore | .starvationLimit | .clearingDeclare | .clearingMigrate | .gladeGrow | .gladeShrink |
    .gladeCommit | .gladeAbort | .gladeReset | .rehashSweep | .rehashDone | .undoDone | .canopyCopyDone |
    .commitDrainDone | .scrubDone | .sliceEnd | .drainDeadline | .groupSave | .groupRestore | .clauseBegin |
    .imemFill | .spinDemotionExpiry | .fairnessBoost | .yieldTimeout | .sleepExpiry | .waitmemRecheck |
    .accessPerformed | .cpaCompletion | .txfCompletion | .mqResult | .pubFlip | .ovlldCompletion | .launchAccept |
    .matrixCommandCompletion | .quadrantStallSave | .arrayRowFailure | .msixVectorUnmask => []

/-- Whether an instruction is a word instruction (it has an encoding), not a device event. -/
def isWord (i : Instr) : Bool := !(encode i).isEmpty

/-! ## The host's word of the opcode table -/

/-- The words of a table word: 32 bits each, the first least significant, and zero words up to the longest
instruction (word 1 and two literals). -/
def tableWords (w : Nat) : List Word :=
  [BitVec.ofNat 32 w, BitVec.ofNat 32 (w / 2 ^ 32), BitVec.ofNat 32 (w / 2 ^ 64), BitVec.ofNat 32 (w / 2 ^ 96)]

/-- What the decoder reads from an opcode-table word of `nbits` bits: the bits above them are 0. -/
def decodeTableWord (nbits w : Nat) : Option Instr :=
  match decode (tableWords (w % 2 ^ nbits)) with
  | .ok (i, _) => some i
  | .error _ => none

end Sys2Proof
end

