-- ==== Sys2Proof/Machine/Bits.lean ====
section
/-!
DEFINITION. Bit-field, sign-extension and byte-order helpers (01 to 15 throughout; R5: little-endian).
-/
namespace Sys2Proof.Machine

/-- Bits hi to lo of a number. -/
def bitsOf (x hi lo : Nat) : Nat := x / 2 ^ lo % 2 ^ (hi + 1 - lo)

/-- One bit of a number. -/
def bitOf (x i : Nat) : Bool := x / 2 ^ i % 2 == 1

/-- The signed value of the low n bits of a number. -/
def sextInt (n x : Nat) : Int :=
  let y := x % 2 ^ n
  if y ≥ 2 ^ (n - 1) then (y : Int) - (2 ^ n : Nat) else y

/-- An integer modulo 2^n, as a number. -/
def wrapNat (n : Nat) (x : Int) : Nat := (x % ((2 ^ n : Nat) : Int)).toNat

/-- An integer modulo 2^32, as a word. -/
def wrapWord (x : Int) : Word := BitVec.ofInt 32 x

/-- Clamp to the range of a signed n-bit integer. -/
def clampS (n : Nat) (x : Int) : Int :=
  if x < -((2 ^ (n - 1) : Nat) : Int) then -((2 ^ (n - 1) : Nat) : Int)
  else if x > ((2 ^ (n - 1) : Nat) : Int) - 1 then ((2 ^ (n - 1) : Nat) : Int) - 1 else x

/-- The little-endian bytes of a number. -/
def bytesOf : Nat → Nat → List Byte
  | 0, _ => []
  | n + 1, x => BitVec.ofNat 8 x :: bytesOf n (x / 256)

/-- The number whose little-endian bytes these are. -/
def ofBytes : List Byte → Nat
  | [] => 0
  | b :: t => b.toNat + 256 * ofBytes t

/-- A pair of words as one 64-bit value, the lower register first. -/
def pairOf (lo hi : Word) : Dword := hi ++ lo

def loOf (x : Dword) : Word := x.extractLsb' 0 32
def hiOf (x : Dword) : Word := x.extractLsb' 32 32

/-- The number of 1 bits of a word. -/
def popCount (w : Word) : Nat := (List.range 32).foldl (fun n i => if w.getLsbD i then n + 1 else n) 0

/-- The number of leading 0 bits of a word; 32 for 0. -/
def clz32 (w : Word) : Nat := if w.toNat = 0 then 32 else 31 - Nat.log2 w.toNat

/-- Bit k to bit 31 − k. -/
def bitReverse (w : Word) : Word :=
  (List.range 32).foldl (fun r i => if w.getLsbD i then r ||| (1#32 <<< (31 - i)) else r) 0#32

/-- The lanes 0 to 31. -/
def lanes : List Nat := List.range 32

/-- Whether lane L is in a mask. -/
def inMask (m : Mask) (l : Nat) : Bool := m.getLsbD l

/-- The lanes of a mask, ascending. -/
def lanesOf (m : Mask) : List Nat := lanes.filter (inMask m)

/-- The mask of the lanes that meet a condition. -/
def maskOf (p : Nat → Bool) : Mask := lanes.foldl (fun m l => if p l then m ||| (1#32 <<< l) else m) 0#32

/-- The lowest lane of a mask (0 of an empty one). -/
def lowestLane (m : Mask) : Nat := (lanesOf m).head?.getD 0

/-- Insert in ascending order, once. -/
def insertNat (x : Nat) : List Nat → List Nat
  | [] => [x]
  | y :: t => if x < y then x :: y :: t else if x = y then y :: t else y :: insertNat x t

/-- Where an octet string holds a little-endian field. -/
def fieldOf (b : List Byte) (at' n : Nat) : Nat := ofBytes ((b.drop at').take n)

end Sys2Proof.Machine
end

