-- ==== Sys2Proof/Machine/Float.lean ====
section
/-!
DEFINITION. Floating-point formats, exact values, rounding and the arithmetic of one element (10 R293 to R308, 13
R385): every operation forms its exact value as an integer times a power of two and rounds it once.
-/
namespace Sys2Proof.Machine

/-- The flags an operation may raise (10 Table 10-5): the low seven bits of GNSTAT. -/
structure Flags where
  iv : Bool := false
  dz : Bool := false
  ovf : Bool := false
  uf : Bool := false
  nx : Bool := false
  mn : Bool := false
  ms : Bool := false
  xo : Bool := false
  deriving DecidableEq, Repr

def Flags.none : Flags := {}

def Flags.or (a b : Flags) : Flags where
  iv := a.iv || b.iv
  dz := a.dz || b.dz
  ovf := a.ovf || b.ovf
  uf := a.uf || b.uf
  nx := a.nx || b.nx
  mn := a.mn || b.mn
  ms := a.ms || b.ms
  xo := a.xo || b.xo

/-- The flags as bits of GNSTAT (08 Table 8-4). -/
def Flags.bits (f : Flags) : BitVec 8 :=
  (if f.iv then 1#8 else 0) ||| (if f.dz then 2#8 else 0) ||| (if f.ovf then 4#8 else 0) ||| (if f.uf then 8#8 else 0)
  ||| (if f.nx then 16#8 else 0) ||| (if f.mn then 32#8 else 0) ||| (if f.ms then 64#8 else 0)
  ||| (if f.xo then 128#8 else 0)

/-- Rounding modes (R298). -/
inductive Rnd where
  | rne | rtz | rup | rdn
  deriving DecidableEq, Repr

def Rnd.ofCode (n : Nat) : Rnd := if n = 0 then .rne else if n = 1 then .rtz else if n = 2 then .rup else .rdn

/-- The modes an operation captures at issue (R264). -/
structure FpMode where
  rm : Rnd
  ftzi : Bool
  ftzo : Bool
  satn : Bool
  deriving DecidableEq, Repr

/-- The mode of the operations that ignore FMODE: RNE, subnormals kept. -/
def FpMode.plain : FpMode := ⟨.rne, false, false, false⟩

/-- A format of Table 10-1. `flush` says whether FTZI and FTZO apply to it (R301). -/
structure Fmt where
  ebits : Nat
  mbits : Nat
  bias : Nat
  e4m3 : Bool
  flush : Bool
  deriving DecidableEq, Repr

def Fmt.f64 : Fmt := ⟨11, 52, 1023, false, true⟩
def Fmt.f32 : Fmt := ⟨8, 23, 127, false, true⟩
def Fmt.f16 : Fmt := ⟨5, 10, 15, false, true⟩
def Fmt.bf16 : Fmt := ⟨8, 7, 127, false, true⟩
def Fmt.e5m2Fmt : Fmt := ⟨5, 2, 15, false, false⟩
def Fmt.e4m3Fmt : Fmt := ⟨4, 3, 7, true, false⟩

/-- The weight of the sign bit. -/
def Fmt.signBit (f : Fmt) : Nat := 2 ^ (f.ebits + f.mbits)

/-- The encoding of infinity (E4M3 has none: the NaN of that sign stands for it, R299). -/
def Fmt.infCode (f : Fmt) : Nat := if f.e4m3 then 0x7F else (2 ^ f.ebits - 1) * 2 ^ f.mbits

/-- The largest finite encoding. -/
def Fmt.maxCode (f : Fmt) : Nat := if f.e4m3 then 0x7E else (2 ^ f.ebits - 1) * 2 ^ f.mbits - 1

/-- Default NaN (Table 10-1). -/
def Fmt.nan (f : Fmt) : Nat := if f.e4m3 then 0x7F else (2 ^ f.ebits - 1) * 2 ^ f.mbits + 2 ^ (f.mbits - 1)

/-- What an encoding stands for (R293): a finite value is m × 2^e with a sign. -/
inductive FVal where
  | nan (signalling : Bool)
  | inf (neg : Bool)
  | fin (neg : Bool) (m : Nat) (e : Int)
  deriving DecidableEq, Repr

def Fmt.neg (f : Fmt) (x : Nat) : Bool := x / f.signBit % 2 == 1
def Fmt.mag (f : Fmt) (x : Nat) : Nat := x % f.signBit

def Fmt.withSign (f : Fmt) (neg : Bool) (x : Nat) : Nat := if neg then f.signBit + x else x

/-- R293, R294. -/
def Fmt.unpack (f : Fmt) (x : Nat) : FVal :=
  let mag := f.mag x
  let ex := mag / 2 ^ f.mbits
  let fr := mag % 2 ^ f.mbits
  if f.e4m3 && mag == 0x7F then .nan false
  else if !f.e4m3 && ex == 2 ^ f.ebits - 1 then
    if fr == 0 then .inf (f.neg x) else .nan (fr < 2 ^ (f.mbits - 1))
  else if ex == 0 then .fin (f.neg x) fr (1 - (f.bias : Int) - f.mbits)
  else .fin (f.neg x) (2 ^ f.mbits + fr) ((ex : Int) - f.bias - f.mbits)

def Fmt.isNan (f : Fmt) (x : Nat) : Bool :=
  match f.unpack x with
  | .nan _ => true
  | _ => false

def Fmt.isSnan (f : Fmt) (x : Nat) : Bool :=
  match f.unpack x with
  | .nan s => s
  | _ => false

def Fmt.isInf (f : Fmt) (x : Nat) : Bool :=
  match f.unpack x with
  | .inf _ => true
  | _ => false

def Fmt.isZero (f : Fmt) (x : Nat) : Bool := f.mag x == 0

def Fmt.isSub (f : Fmt) (x : Nat) : Bool := f.mag x != 0 && f.mag x / 2 ^ f.mbits == 0

/-- Set the top mantissa bit (R294). -/
def Fmt.quiet (f : Fmt) (x : Nat) : Nat :=
  if x / 2 ^ (f.mbits - 1) % 2 == 1 then x else x + 2 ^ (f.mbits - 1)

/-- Invert the sign bit (R384). -/
def Fmt.negate (f : Fmt) (x : Nat) : Nat := if f.neg x then x - f.signBit else x + f.signBit

/-- FTZI (R301): a subnormal input reads as zero of its sign. -/
def Fmt.flushIn (f : Fmt) (md : FpMode) (x : Nat) : Nat :=
  if md.ftzi && f.flush && f.isSub x then f.withSign (f.neg x) 0 else x

/-- The number of bits of m. -/
def bitLen (m : Nat) : Nat := if m = 0 then 0 else Nat.log2 m + 1

/-- Whether rounding moves the magnitude up: `odd` is the kept part's last bit, `half` compares the rest with one
half (the rest is not zero where `inexact`). -/
def roundsUp (rm : Rnd) (neg odd inexact : Bool) (half : Ordering) : Bool :=
  match rm with
  | .rne => half == .gt || (half == .eq && odd)
  | .rtz => false
  | .rup => inexact && !neg
  | .rdn => inexact && neg

/-- (m + δ) × 2^e to an integer multiple of 2^q, where δ is in (0, 1) if `sticky` and 0 otherwise: the kept integer
and whether it is inexact. A sticky value has bits below 2^q. -/
def roundAt (rm : Rnd) (neg : Bool) (m : Nat) (e : Int) (sticky : Bool) (q : Int) : Nat × Bool :=
  if q ≤ e then (m * 2 ^ (e - q).toNat, sticky)
  else
    let sh := (q - e).toNat
    let k := m / 2 ^ sh
    let r := m % 2 ^ sh
    let inexact := r != 0 || sticky
    let half := if r < 2 ^ (sh - 1) then Ordering.lt else if r == 2 ^ (sh - 1) && !sticky then .eq else .gt
    (if roundsUp rm neg (k % 2 == 1) inexact half then k + 1 else k, inexact)

/-- The overflow result of Table 10-3. -/
def Fmt.overflow (f : Fmt) (rm : Rnd) (neg : Bool) : Nat :=
  let toInf := match rm with
    | .rne => true
    | .rtz => false
    | .rup => !neg
    | .rdn => neg
  f.withSign neg (if toInf then f.infCode else f.maxCode)

/-- Round a nonzero value to a format once (R298 to R300): the encoding, its flags, and whether it overflowed. -/
def Fmt.round (f : Fmt) (rm : Rnd) (neg : Bool) (m : Nat) (e : Int) (sticky : Bool) : Nat × Flags × Bool :=
  let emin : Int := 1 - (f.bias : Int)
  let ex : Int := e + bitLen m - 1
  let q : Int := (if ex < emin then emin else ex) - f.mbits
  let (k, inexact) := roundAt rm neg m e sticky q
  let tiny := ex < emin
  -- k × 2^q, with k up to 2^(mbits + 1); its encoding is the integer k above the encodings of smaller exponents
  let code := k + ((q + f.mbits - emin).toNat) * 2 ^ f.mbits
  if code > f.maxCode then (f.overflow rm neg, { ovf := true, nx := true }, true)
  else (f.withSign neg code, { uf := tiny && inexact, nx := inexact }, false)

/-- FTZO on a result (R301). -/
def Fmt.flushOut (f : Fmt) (md : FpMode) (r : Nat × Flags) : Nat × Flags :=
  if md.ftzo && f.flush && f.isSub r.1 then (f.withSign (f.neg r.1) 0, { r.2 with uf := true, nx := true }) else r

/-- Steps 5 and 6 of R385 for a nonzero finite exact value. -/
def Fmt.result (f : Fmt) (md : FpMode) (neg : Bool) (m : Nat) (e : Int) (sticky : Bool) : Nat × Flags :=
  let (c, fl, _) := f.round md.rm neg m e sticky
  f.flushOut md (c, fl)

/-- R302: the sign of an exact zero sum. -/
def zeroSumNeg (rm : Rnd) (allNeg allPos : Bool) : Bool := if allNeg then true else if allPos then false else rm == .rdn

/-- The exact sum of two signed values m × 2^e, as a signed integer and an exponent. -/
def addExact (n1 : Bool) (m1 : Nat) (e1 : Int) (n2 : Bool) (m2 : Nat) (e2 : Int) : Int × Int :=
  let e := if e1 ≤ e2 then e1 else e2
  let s (n : Bool) (m : Nat) (x : Int) : Int :=
    let v : Int := (m * 2 ^ (x - e).toNat : Nat)
    if n then -v else v
  (s n1 m1 e1 + s n2 m2 e2, e)

/-- The first NaN of the operands, quietened, with IV where one of them signals (R303). -/
def Fmt.nanOf (f : Fmt) (ops : List Nat) : Nat × Flags :=
  (((ops.filter f.isNan).head?.map f.quiet).getD f.nan, { iv := ops.any f.isSnan })

def Fmt.invalid (f : Fmt) : Nat × Flags := (f.nan, { iv := true })

/-- A + B under R385. -/
def Fmt.add (f : Fmt) (md : FpMode) (a b : Nat) : Nat × Flags :=
  let a := f.flushIn md a
  let b := f.flushIn md b
  match f.unpack a, f.unpack b with
  | .inf n1, .inf n2 => if n1 == n2 then (a, {}) else f.invalid
  | .nan _, _ => f.nanOf [a, b]
  | _, .nan _ => f.nanOf [a, b]
  | .inf _, _ => (a, {})
  | _, .inf _ => (b, {})
  | .fin n1 m1 e1, .fin n2 m2 e2 =>
    let (s, e) := addExact n1 m1 e1 n2 m2 e2
    if s = 0 then
      (f.withSign (zeroSumNeg md.rm (m1 == 0 && m2 == 0 && n1 && n2) (m1 == 0 && m2 == 0 && !n1 && !n2)) 0, {})
    else f.result md (s < 0) s.natAbs e false

/-- A − B: a subtraction adds the negated operand; a NaN in B keeps its sign (R302, R389). -/
def Fmt.sub (f : Fmt) (md : FpMode) (a b : Nat) : Nat × Flags :=
  if f.isNan b then f.add md a b else f.add md a (f.negate b)

/-- A × B under R385. -/
def Fmt.mul (f : Fmt) (md : FpMode) (a b : Nat) : Nat × Flags :=
  let a := f.flushIn md a
  let b := f.flushIn md b
  let n := f.neg a != f.neg b
  match f.unpack a, f.unpack b with
  | .nan _, _ => f.nanOf [a, b]
  | _, .nan _ => f.nanOf [a, b]
  | .inf _, .fin _ m _ => if m == 0 then f.invalid else (f.withSign n f.infCode, {})
  | .fin _ m _, .inf _ => if m == 0 then f.invalid else (f.withSign n f.infCode, {})
  | .inf _, .inf _ => (f.withSign n f.infCode, {})
  | .fin _ m1 e1, .fin _ m2 e2 =>
    if m1 * m2 = 0 then (f.withSign n 0, {}) else f.result md n (m1 * m2) (e1 + e2) false

/-- A × B + C rounded once (R393, R305). -/
def Fmt.fma (f : Fmt) (md : FpMode) (a b c : Nat) : Nat × Flags :=
  let a := f.flushIn md a
  let b := f.flushIn md b
  let c := f.flushIn md c
  let n := f.neg a != f.neg b
  let zeroInf := (f.isZero a && f.isInf b) || (f.isInf a && f.isZero b)
  let prodInf := !zeroInf && !f.isNan a && !f.isNan b && (f.isInf a || f.isInf b)
  if zeroInf || (prodInf && f.isInf c && f.neg c != n) then f.invalid
  else if f.isNan a || f.isNan b || f.isNan c then f.nanOf [a, b, c]
  else if prodInf then (f.withSign n f.infCode, {})
  else
    match f.unpack a, f.unpack b, f.unpack c with
    | .fin _ m1 e1, .fin _ m2 e2, .fin n3 m3 e3 =>
      let (s, e) := addExact n (m1 * m2) (e1 + e2) n3 m3 e3
      if s = 0 then
        let allZero := m1 * m2 == 0 && m3 == 0
        (f.withSign (zeroSumNeg md.rm (allZero && n && n3) (allZero && !n && !n3)) 0, {})
      else f.result md (s < 0) s.natAbs e false
    | _, _, _ => (c, {})

/-- The order of two values that are no NaN; −0 and +0 are equal. -/
def FVal.cmp : FVal → FVal → Ordering
  | .nan _, _ => .eq
  | _, .nan _ => .eq
  | .inf n1, .inf n2 => if n1 == n2 then .eq else if n1 then .lt else .gt
  | .inf n, _ => if n then .lt else .gt
  | _, .inf n => if n then .gt else .lt
  | .fin n1 m1 e1, .fin n2 m2 e2 =>
    let (d, _) := addExact n1 m1 e1 (!n2) m2 e2
    if d < 0 then .lt else if d = 0 then .eq else .gt

/-- The order of FMIN and FMAX: −0 stands below +0 (R304). -/
def Fmt.below (f : Fmt) (a b : Nat) : Bool :=
  match FVal.cmp (f.unpack a) (f.unpack b) with
  | .lt => true
  | .gt => false
  | .eq => f.neg a && !f.neg b

/-- Take one operand as the exact result x of R385 (R389): only FTZO may change it. -/
def Fmt.select (f : Fmt) (md : FpMode) (x : Nat) (fl : Flags) : Nat × Flags := f.flushOut md (x, fl)

/-- FMIN and FMAX (R304). -/
def Fmt.minMax (f : Fmt) (md : FpMode) (max : Bool) (a b : Nat) : Nat × Flags :=
  let a := f.flushIn md a
  let b := f.flushIn md b
  let iv : Flags := { iv := f.isSnan a || f.isSnan b }
  if f.isNan a && f.isNan b then (f.quiet a, iv)
  else if f.isNan a then f.select md b iv
  else if f.isNan b then f.select md a iv
  else if max then f.select md (if f.below a b then b else a) iv
  else f.select md (if f.below b a then b else a) iv

/-- The conditions of 13 Table 13-6: the truth value and IV. -/
def Fmt.test (f : Fmt) (md : FpMode) (cc a b : Nat) : Bool × Flags :=
  let a := f.flushIn md a
  let b := f.flushIn md b
  let un := f.isNan a || f.isNan b
  let sn := f.isSnan a || f.isSnan b
  let o := FVal.cmp (f.unpack a) (f.unpack b)
  let t : Bool :=
    if cc = 0 then !un && o == .eq
    else if cc = 1 then un || o != .eq
    else if cc = 2 then !un && o == .lt
    else if cc = 3 then !un && o != .gt
    else if cc = 4 then !un && o == .gt
    else if cc = 5 then !un && o != .lt
    else if cc = 6 then !un
    else un
  (t, { iv := if 2 ≤ cc && cc ≤ 5 then un else sn })

/-- FSCALE (R393): A × 2^n rounded once. Beyond ±4096 every n gives the result of that bound, in every format. -/
def Fmt.scale (f : Fmt) (md : FpMode) (a : Nat) (n : Int) : Nat × Flags :=
  let a := f.flushIn md a
  let n := if n > 4096 then 4096 else if n < -4096 then -4096 else n
  match f.unpack a with
  | .nan _ => f.nanOf [a]
  | .inf _ => (a, {})
  | .fin s m e => if m = 0 then (a, {}) else f.result md s m (e + n) false

/-- FRND (R394): the nearest integral value in the rounding direction, with the sign of A. -/
def Fmt.roundIntegral (f : Fmt) (md : FpMode) (a : Nat) : Nat × Flags :=
  let a := f.flushIn md a
  match f.unpack a with
  | .nan _ => f.nanOf [a]
  | .inf _ => (a, {})
  | .fin s m e =>
    if m = 0 then (a, {})
    else
      let (k, inexact) := roundAt md.rm s m e false 0
      if 0 ≤ e then (a, {})
      else if k = 0 then (f.withSign s 0, { nx := inexact })
      else ((f.round .rtz s k 0 false).1, { nx := inexact })

/-- FFRACT (R394): A − ⌊A⌋, rounded; a rounded 1.0 becomes the largest value below 1, and a zero is +0. -/
def Fmt.fract (f : Fmt) (md : FpMode) (a : Nat) : Nat × Flags :=
  let a := f.flushIn md a
  match f.unpack a with
  | .nan _ => f.nanOf [a]
  | .inf _ => (0, {})
  | .fin s m e =>
    if 0 ≤ e then (0, {})
    else
      let d := 2 ^ (-e).toNat
      let r := if s then (d - m % d) % d else m % d
      if r = 0 then (0, {})
      else
        let (c, fl) := f.result md false r e false
        (if c == f.bias * 2 ^ f.mbits then c - 1 else c, fl)

/-- FCLASS (R396). -/
def Fmt.classMask (f : Fmt) (a : Nat) : Nat :=
  let n := f.neg a
  match f.unpack a with
  | .nan s => if s then 1 else 2
  | .inf _ => if n then 4 else 512
  | .fin _ m _ =>
    if m = 0 then (if n then 32 else 64)
    else if f.isSub a then (if n then 16 else 128)
    else (if n then 8 else 256)

end Sys2Proof.Machine
end

