-- ==== Sys2Proof/Machine/Exact.lean ====
section
/-!
DEFINITION. The exact accumulators (10 R309 to R312): a 320-bit two's-complement integer in units of 2^−160, with
five sticky bits.
-/
namespace Sys2Proof.Machine

structure Acc where
  v : BitVec 320 := 0
  pinf : Bool := false
  ninf : Bool := false
  nan : Bool := false
  ovf : Bool := false
  inx : Bool := false
  deriving DecidableEq, Repr

/-- R403: V and every sticky bit 0. -/
def Acc.clear : Acc := {}

/-- ⌊x × 2^160⌋ of a finite value, and whether it is inexact (R310). -/
def gridFloor (n : Bool) (m : Nat) (e : Int) : Int × Bool :=
  let s := e + 160
  if 0 ≤ s then
    let t : Int := (m * 2 ^ s.toNat : Nat)
    (if n then -t else t, false)
  else
    let d := 2 ^ (-s).toNat
    let t : Int := if n then -((m + d - 1) / d : Nat) else (m / d : Nat)
    (t, m % d != 0)

/-- Add an integer to V (R311): the low 320 bits of the true sum; OVF, and XO for GNSTAT, when it leaves the range. -/
def Acc.addInt (a : Acc) (t : Int) : Acc × Flags :=
  let s := a.v.toInt + t
  let out := s < -((2 ^ 319 : Nat) : Int) || s ≥ ((2 ^ 319 : Nat) : Int)
  ({ a with v := BitVec.ofInt 320 s, ovf := a.ovf || out }, { xo := out })

/-- The sticky updates of R310 for one term; a finite term sets INX where it lies off the grid. `negate` is XSUB. -/
def Acc.stick (a : Acc) (negate : Bool) (x : FVal) : Acc × Flags :=
  match x with
  | .nan s => ({ a with nan := true }, { iv := s })
  | .inf n => (if n != negate then { a with ninf := true } else { a with pinf := true }, {})
  | .fin n m e => ({ a with inx := a.inx || (gridFloor (n != negate) m e).2 }, {})

/-- The grid integer of a term; 0 where it is not finite. -/
def gridTerm (negate : Bool) (x : FVal) : Int :=
  match x with
  | .fin n m e => (gridFloor (n != negate) m e).1
  | _ => 0

/-- R403: every term's sticky bits, then one exact addition of the sum of the finite terms. -/
def Acc.addTerms (a : Acc) (negate : Bool) (xs : List FVal) : Acc × Flags :=
  let (a, fl) := xs.foldl (fun (p : Acc × Flags) x => let (b, g) := p.1.stick negate x; (b, p.2.or g)) (a, {})
  let (b, g) := a.addInt (xs.foldl (fun t x => t + gridTerm negate x) 0)
  (b, fl.or g)

/-- XRND (R312). -/
def Acc.round (a : Acc) (f : Fmt) (rm : Rnd) : Nat × Flags :=
  if a.nan || a.ovf || (a.pinf && a.ninf) then f.invalid
  else if a.pinf then (f.infCode, {})
  else if a.ninf then (f.withSign true f.infCode, {})
  else
    let s := a.v.toInt
    if s = 0 then (0, { nx := a.inx })
    else
      let (c, fl, _) := f.round rm (s < 0) s.natAbs (-160) false
      (c, { fl with nx := fl.nx || (a.inx && !f.isInf c) })

/-- XMOV.ADD (R405): V added exactly, sticky bits joined. -/
def Acc.addAcc (d a : Acc) : Acc × Flags :=
  let (r, fl) := d.addInt a.v.toInt
  ({ r with pinf := d.pinf || a.pinf, ninf := d.ninf || a.ninf, nan := d.nan || a.nan, ovf := r.ovf || a.ovf,
            inx := d.inx || a.inx }, fl)

/-- Word k of V (R404). -/
def Acc.word (a : Acc) (k : Nat) : Word := a.v.extractLsb' (32 * k) 32

/-- Replace word k of V (R405). -/
def Acc.setWord (a : Acc) (k : Nat) (w : Word) : Acc :=
  let keep : BitVec 320 := ~~~((0xFFFFFFFF#320) <<< (32 * k))
  { a with v := (a.v &&& keep) ||| ((w.zeroExtend 320) <<< (32 * k)) }

/-- The sticky bits as XSTAT reads them (R404). -/
def Acc.stat (a : Acc) : Word :=
  (if a.pinf then 1#32 else 0) ||| (if a.ninf then 2#32 else 0) ||| (if a.nan then 4#32 else 0)
  ||| (if a.ovf then 8#32 else 0) ||| (if a.inx then 16#32 else 0)

end Sys2Proof.Machine
end

