-- ==== Sys2Proof/Machine/StateCore.lean ====
section
/-!
DEFINITION. The state of groups, warps, outstanding operations and quadrants (08, 11, 14, 15), as plain data. A
sparse list stands for each register file and memory: an unlisted key reads as 0 (or as the default said here).
-/
namespace Sys2Proof.Machine

/-- The role of a warp (08 Table 8-3, ROLE). -/
inductive Role where
  | c | m | v
  deriving DecidableEq, Repr

/-- The spin detector's watch on one frontier entry (R255): the branch whose iteration runs, the signature so far,
whether the iteration wrote memory, and the signature of the quiet iteration before it. -/
structure Spin where
  branch : Option CodeAddr := none
  sig : BitVec 16 := 0
  wrote : Bool := false
  last : Option (BitVec 16) := none
  deriving DecidableEq, Repr

/-- A frontier entry (R253). PRIO is the field of the header at `pc` and is read from it. `resume` is the named word
of an `ERET` into the middle of a clause (R262); `sleep` is what is left of a `SLEEP` (R374), 0 for none. -/
structure Entry where
  pc : CodeAddr
  mask : Mask
  d : Bool := false
  resume : Option CodeAddr := none
  sleep : Nat := 0
  spin : Spin := {}
  deriving DecidableEq, Repr

/-- The clause a warp is issuing (R250): its header's fields, the entry's mask and detector state, the words fetched
under one binding (R321), and the address of the next of them. -/
structure Clause where
  active : Bool := false
  hdr : CodeAddr := 0
  len : Nat := 0
  pc : CodeAddr := 0
  words : List Word := []
  wait : BitVec 12 := 0
  fa : Nat := 15
  fb : Nat := 15
  prio : Nat := 0
  yld : Bool := false
  mask : Mask := 0
  d : Bool := false
  resume : Option CodeAddr := none
  sleep : Nat := 0
  spin : Spin := {}
  deriving DecidableEq, Repr

/-- A warp inside its trap handler (R260): the cause it entered with. -/
structure Handler where
  cause : Nat
  deriving DecidableEq, Repr

/-- A report taken at the first clause that waits on flag `flag` (R259, R319): trap cause, mask, address and TINFO.
`mask` none: the mask of the entry that takes it. `order` is the issue order of the command. -/
structure Report where
  order : Nat
  flag : Nat
  cause : Nat
  mask : Option Mask
  addr : Nat
  info : Word
  /-- FATAL_FAULT from a TIER_LOST entry that was failed: a transient failure (R135, R207). -/
  tier : Bool := false
  deriving DecidableEq, Repr

/-- Why the next word of a warp cannot issue yet. -/
inductive Stall where
  | none
  /-- R251: the selected flag is already 63. -/
  | flag
  /-- R425: a fence holds memory words. -/
  | fence
  /-- R447: the quadrant is held by another group. -/
  | quad
  /-- R435, R438: too many copies or transfers in flight. -/
  | engine
  /-- R366: no service tag is free. -/
  | tag
  /-- R438, R443: the word's own translation is parked. -/
  | xlat
  /-- R320, R362: a jump table's block is being filled. -/
  | imem
  deriving DecidableEq, Repr

/-- A warp (08 Tables 8-2 to 8-4). `v` has key 32 × register + lane; `p` holds each predicate's lanes. -/
structure Warp where
  role : Role := .v
  budget : Nat := 1
  subcore : Nat := 0
  live : Mask := 0
  v : List (Nat × Word) := []
  s : List (Nat × Word) := []
  p : List (Nat × Mask) := []
  q : List (Nat × Bool) := []
  e : List (Nat × Acc) := []
  f : List (Nat × Nat) := []
  frontier : List Entry := []
  /-- The entries of the trap handler while the warp is inside it (R260). -/
  hfront : List Entry := []
  handler : Option Handler := Option.none
  /-- FMODE [8:0] (Table 8-4). -/
  fmode : BitVec 9 := 0
  /-- PART, the tile size (R243). -/
  part : Nat := 32
  tcause : Word := 0
  tpc : Word := 0
  tmask : Word := 0
  taddr : Dword := 0
  tinfo : Word := 0
  clause : Clause := {}
  reports : List Report := []
  /-- A cancel is due: the warp takes CANCELLED at its next issue (R204). -/
  cancelled : Bool := false
  /-- A fence that still holds memory words: the issue order it was given, and its scope (R425). -/
  fence : Option (Nat × Nat) := Option.none
  stall : Stall := .none
  /-- The pending-fault entry that holds the present word (R438). -/
  wordTag : Option Nat := Option.none
  /-- The code of the fault with which the present word's read was failed (R134, R438). -/
  wordFailed : Option Nat := Option.none
  /-- R256: warps of the sub-core that must issue once before a yielding warp may. -/
  yieldOn : List Nat := []
  boosted : Bool := false
  /-- The order in which the warp last issued (R256: the longest waiting goes first). -/
  lastIssue : Nat := 0
  deriving DecidableEq, Repr

/-- A bound overlay slot (R320, R350): overlay index, VA of its image, its LENGTH in words. -/
structure Slot where
  ovl : Nat
  image : Nat
  length : Nat
  deriving DecidableEq, Repr

/-- WPOS of one copy channel (R437): commands accepted, and the last completed one's number and span. -/
structure Channel where
  issued : Nat := 0
  lastSeq : Nat := 0
  lastSpan : Nat := 0
  deriving DecidableEq, Repr

/-- Where a group is: on a core, saved as an image, or discarded or complete. -/
inductive Placement where
  | none
  | core (id : Nat)
  | saved
  deriving DecidableEq, Repr

/-- Why a group was saved, which decides when it is restored (R202, R203, R222, R235, R447). -/
inductive SaveCause where
  | none | preempt | pause | starvation | clearing | evacuate | quadrant
  deriving DecidableEq, Repr

/-- Page order kinds (R119). -/
inductive PageOrd where
  | so | rc | uo
  deriving DecidableEq, Repr

/-- Where the bytes of one part of an access lie. A shadow page is resolved only when the part is performed (R121). -/
inductive Place where
  | scratch (gid off : Nat)
  | lanePriv (gid key : Nat)
  | phys (ppa : Nat)
  | shadow (back : Bool) (sbid page off : Nat)
  /-- A K-space address of a glade: the segment map is read when the part is performed (R215, R230). -/
  | kspace (glade off : Nat)
  /-- A register of the PF control window (R108). -/
  | mmio (off : Nat)
  deriving DecidableEq, Repr

/-- How far a part is. -/
inductive PartState where
  | waiting
  | parked (tag : Nat)
  /-- R131: the pending-fault table was full; the code it will park with. -/
  | queued (code : Nat)
  /-- Sent outside (to the host, or to a relay): the request's number. -/
  | sent (ext : Nat)
  | performed
  | failed
  deriving DecidableEq, Repr

/-- One part of an access: at most 16 bytes inside one 16-byte granule (R277), by one lane. -/
structure Part where
  lane : Nat := 0
  /-- The address in its space (a virtual address for G). -/
  addr : Nat := 0
  len : Nat := 0
  /-- Where the part lies within the lane's access. -/
  off : Nat := 0
  place : Place := .phys 0
  ord : PageOrd := .rc
  /-- Leaf permissions seen at translation: HA of a host page (R129). -/
  ha : Bool := false
  /-- The TLB entry it was translated through, plus 1 (R118). -/
  tlb : Nat := 0
  state : PartState := .waiting
  /-- Bytes to store, or bytes read. -/
  data : List Byte := []
  /-- Atomic operands (R422). -/
  x : Nat := 0
  cmp : Nat := 0
  /-- The read found poison (R138). -/
  poisoned : Bool := false
  deriving DecidableEq, Repr

/-- Who issued an operation. -/
inductive Owner where
  | warp (gid wid : Nat)
  | node (id : Nat)
  deriving DecidableEq, Repr

/-- LD, ST, ATOM and their uniform forms (14 R421 to R424). -/
inductive AccessKind where
  | load | store | atomic (aop : Nat)
  deriving DecidableEq, Repr

structure AccessBody where
  kind : AccessKind
  uniform : Bool
  space : Nat
  /-- Bytes per lane: 1 to 16. -/
  bytes : Nat
  sx : Bool
  policy : Nat
  dst : Nat
  /-- Destination registers written so far, as (lane, register) pairs (R252: each independently). -/
  wrote : List (Nat × Nat) := []
  deriving DecidableEq, Repr

/-- One lane's share of a CPA command (R435). -/
structure CpaLane where
  lane : Nat
  dst : Nat
  src : Part
  /-- Bytes written so far (a prefix), or failed. -/
  done : Bool := false
  failed : Bool := false
  deriving DecidableEq, Repr

structure CpaBody where
  chan : Nat
  seq : Nat
  bytes : Nat
  dstSpace : Nat
  dreg : Nat
  lanes : List CpaLane
  /-- The barrier it names: space, address, and the generation recorded at issue (R432). -/
  bar : Option (Nat × Nat × Option Nat)
  deriving DecidableEq, Repr

/-- The fields of a shape record (14 Table 14-8). -/
structure Shape where
  kind : Nat
  elem : Nat
  op : Nat
  scope : Nat
  be : Bool
  bspace : Nat
  baddr : Nat
  sspace : Nat
  dspace : Nat
  dmask : Nat
  policy : Nat
  count0 : Nat
  count1 : Nat
  count2 : Nat
  saddr : Nat
  daddr : Nat
  sstr1 : Int
  sstr2 : Int
  dstr1 : Int
  dstr2 : Int
  stataddr : Nat
  deriving DecidableEq, Repr

/-- A TXF of kind 0 to 2 (R440): which 16-byte parts are written, by index in ascending row, plane and granule. -/
structure TxfBody where
  shape : Shape
  va : Nat
  dreg : Nat
  /-- The barriers it subtracts from at the end: address, and the generation recorded at issue (R432, R441). -/
  gen : List (Nat × Option Nat)
  /-- Elements (bytes, or elements of a reduction) written. -/
  written : List Nat
  /-- 0 running, else the status code it will report plus 1. -/
  ending : Nat := 0
  /-- How far its completion is (R441): 0 running, 1 failure list, 2 barriers and publication, 3 STATADDR, 4 a node's
  status word, 5 the end; and the count it reports. -/
  stage : Nat := 0
  count : Nat := 0
  /-- Elements sent outside for their data, and elements whose data has come. -/
  sent : List Nat := []
  got : List (Nat × List Byte) := []
  /-- The modules on whose ports it has worked (R62). -/
  mods : List Nat := []
  /-- The collective it runs (kind 3). -/
  coll : Nat := 0
  /-- The VA of a node's status word, 0 none (R192). -/
  nodeStat : Nat := 0
  deriving DecidableEq, Repr

structure MqBody where
  enq : Bool
  va : Nat
  bytes : Nat
  sreg : Nat
  dreg : Nat
  data : List Byte
  /-- The home's answer, once it has acted: result and entry; 3 for a malformed descriptor. -/
  answer : Option (Nat × List Byte) := none
  deriving DecidableEq, Repr

structure WaitBody where
  space : Nat
  wide : Bool
  cmp : Nat
  value : Nat
  /-- Cycles left of the timeout; none for no timeout. -/
  timeout : Option Nat
  elapsed : Bool := false
  dreg : Nat
  part : Part
  /-- Its starvation timer has run to REMEDY (R202). -/
  starved : Bool := false
  deriving DecidableEq, Repr

structure PubBody where
  dreg : Nat
  deriving DecidableEq, Repr

structure OvlBody where
  ovl : Nat
  dreg : Nat
  deriving DecidableEq, Repr

structure BarWaitBody where
  space : Nat
  addr : Nat
  parity : Bool
  dreg : Nat
  /-- The outcome, once released. -/
  answer : Option Bool := none
  starved : Bool := false
  deriving DecidableEq, Repr

structure LaunchBody where
  va : Nat
  dreg : Nat
  deriving DecidableEq, Repr

structure CntWaitBody where
  level : Nat
  ident : Nat
  dreg : Nat
  /-- The status, once the unit completed. -/
  answer : Option Nat := none
  starved : Bool := false
  deriving DecidableEq, Repr

structure SvcBody where
  tag : Nat
  dreg : Nat
  sreg : Nat
  deriving DecidableEq, Repr

structure TxcanBody where
  targets : List Nat
  deriving DecidableEq, Repr

/-- What an outstanding operation is. -/
inductive OpBody where
  | access (b : AccessBody)
  | cpa (b : CpaBody)
  | txf (b : TxfBody)
  | mq (b : MqBody)
  | waitmem (b : WaitBody)
  | pub (b : PubBody)
  | ovlld (b : OvlBody)
  | barWait (b : BarWaitBody)
  | launch (b : LaunchBody)
  | cntWait (b : CntWaitBody)
  | svc (b : SvcBody)
  | txcan (b : TxcanBody)
  /-- Its work is done, and these registers still take their results (R252): key 32 × v register + lane, or 8192 + s
  register. -/
  | result (todo : List (Nat × Word))
  /-- A matrix command or `ARDL`; its work stands in the quadrant's queue. -/
  | matrix
  /-- A lane operation whose guard was false in every lane (R327). -/
  | nothing
  deriving DecidableEq, Repr

/-- An outstanding long-latency operation (R251). `id` rises in issue order. -/
structure Op where
  id : Nat
  owner : Owner
  flag : Nat
  /-- The mask of the entry that issued it. -/
  emask : Mask := 0
  ord : Nat := 0
  scope : Nat := 0
  parts : List Part := []
  /-- The pending-fault entry that holds the command itself (not one of its parts), and a code: with the table full the
  one it waits with (R131), and in a failed command 0x22 if its entry was TIER_LOST. -/
  park : Option Nat := none
  queuedCode : Option Nat := none
  /-- The command's access was failed (R134). -/
  failed : Bool := false
  /-- Its group was cancelled or discarded: it ends without effect, with status CANCELLED (R204). -/
  cancelled : Bool := false
  body : OpBody
  deriving DecidableEq, Repr

/-! ## Quadrants (15 Table 15-1) -/

/-- A weight plane: its latched format (none: EMPTY), its scale, and its rows' bytes (key 64 × row + byte). -/
structure Plane where
  fmt : Option Nat := none
  scale : Word := 0
  bytes : List (Nat × Byte) := []
  deriving DecidableEq, Repr

/-- A WLOAD descriptor (Table 15-4). -/
structure WloadDesc where
  saddr : Nat
  stride : Int
  scale : Word
  space : Nat
  fmt : Nat
  deriving DecidableEq, Repr

/-- An MMS descriptor (Table 15-5) with what the command captured at issue. -/
structure MmsDesc where
  addr : Nat
  stride : Int
  ascale : Word
  space : Nat
  row0 : Nat
  rows : Nat
  kmask : BitVec 64
  afmt : Nat
  ovw : Bool
  /-- Its number among the MMS commands since acquisition (R446). -/
  seq : Nat := 0
  deriving DecidableEq, Repr

/-- An ADRN descriptor (Table 15-6). -/
structure AdrnDesc where
  daddr : Nat
  stride : Int
  oscale : Word
  bspace : Nat
  be : Bool
  clr : Bool
  dspace : Nat
  ofmt : Nat
  ntiles : Nat
  tile0 : Nat
  baddr : Nat
  gen : Option Nat
  deriving DecidableEq, Repr

inductive MxBody where
  | qfuse (mode : Nat)
  | wload (d : WloadDesc)
  | wswap
  | mms (d : MmsDesc)
  | aclr (tiles : BitVec 16)
  | adrn (d : AdrnDesc)
  | mstat (kind tile : Nat) (clr : Bool) (dreg : Nat)
  | ardl (mask : Mask) (dreg : Nat) (addrs : List (Nat × Word))
  deriving DecidableEq, Repr

/-- A queued matrix command: its operation, its next row, what it captured (FMODE, sigma once formed) and the first
NaN event it recorded (R317). -/
structure MxCmd where
  op : Nat
  gid : Nat
  wid : Nat
  body : MxBody
  row : Nat := 0
  fmode : BitVec 9 := 0
  sigma : Option Word := none
  nan : Option Word := none
  /-- The lowest address of a weight byte that could not be read (R453). -/
  bad : Option Nat := none
  /-- The 16-byte parts of the present row that have been read, by address; and those of a drained row still to write
  (R277). -/
  got : List (Nat × List Byte) := []
  out : Option (List (Nat × List Byte)) := none
  deriving DecidableEq, Repr

/-- AWM (R457). -/
structure Awm where
  seq : Nat := 0
  row0 : Nat := 0
  final : Nat := 0
  deriving DecidableEq, Repr

/-- A quadrant, or (in `Group`'s image) what a save keeps of it. -/
structure Quad where
  holder : Option Nat := none
  active : Plane := {}
  shadow : Plane := {}
  acc : List (Nat × Word) := []
  sat : List (Nat × Nat) := []
  awm : Awm := {}
  fused : Bool := false
  seq : Nat := 0
  /-- Logical rows on spares, in the order they failed (R465). -/
  spares : List Nat := []
  offline : Bool := false
  queue : List MxCmd := []
  /-- Issue-time view (R449): formats of the active and shadow planes, and FUSED. -/
  viewA : Option Nat := none
  viewS : Option Nat := none
  viewF : Bool := false
  deriving DecidableEq, Repr

/-- A group (06 R194 to R196, 08 Table 8-3) with the memories allocated to it. `cmem` is its core scratchpad
allocation; `lmem` its lane-private slices, key (32 × warp + lane) × 4096 + offset. -/
structure Group where
  node : Nat := 0
  ctx : Nat := 0
  fn : Nat := 0
  glade : Nat := 0
  place : Placement := .none
  gang : Nat := 0
  rank : Nat := 0
  gangSize : Nat := 1
  idx : Nat × Nat × Nat := (0, 0, 0)
  dim : Nat × Nat × Nat := (1, 1, 1)
  launchId : Nat := 0
  graphId : Nat := 0
  phaseId : Nat := 0
  jobId : Nat := 0
  nodeId : Nat := 0
  /-- 0 concurrent, 1 parallel, 2 weakly parallel. -/
  cls : Nat := 2
  scratch : Nat := 0
  lanePriv : Nat := 0
  nwarps : Nat := 0
  nc : Nat := 0
  nm : Nat := 0
  cmem : List (Nat × Byte) := []
  lmem : List (Nat × Byte) := []
  /-- GNSTAT [7:0]. -/
  gnstat : BitVec 8 := 0
  slots : List (Nat × Option Slot) := []
  /-- The kernel descriptor's NOVL, HANDLER (0xFF none) and OVLTAB (R351). -/
  novl : Nat := 0
  handler : Nat := 0xFF
  ovltab : Nat := 0
  chans : List (Nat × Channel) := []
  saveCause : SaveCause := .none
  /-- A save, drain or discard of the group has been asked for. -/
  saving : Bool := false
  /-- What CLOCK reads beyond the core's own count: it goes on across migration from the saved value (Table 8-3). -/
  clockAdd : Int := 0
  /-- When it was placed or restored last (R237). -/
  placedAt : Nat := 0
  /-- Core the saved image came from, and the quadrants it held (R447, R464). -/
  quads : List (Nat × Quad) := []
  deriving DecidableEq, Repr

/-- A filled block of instruction memory (R320): core, context, image, block number and its 256 words. -/
structure ImemBlock where
  core : Nat
  ctx : Nat
  image : Nat
  blk : Nat
  words : List Word
  deriving DecidableEq, Repr

/-- A line of a core's read cache (R268): core, context, physical line number and its 64 bytes. -/
structure RLine where
  core : Nat
  ctx : Nat
  line : Nat
  bytes : List Byte
  deriving DecidableEq, Repr

end Sys2Proof.Machine
end

