-- ==== Sys2Proof/EventOps.lean ====
section
/-!
DEFINITION. What a device event acts on. The 153 device events of the table have no encoding, so an event is a bare
constructor of `Instr` and its operands wait beside it, as an `EventArg`. An event whose argument has another shape does
nothing.
-/
namespace Sys2Proof

/-- What the sideband of a sealed line holds, or the tags of a sealed payload carry (02 R70): the IV (for a line: 0, module,
line, version; for a relayed payload: 1, source, destination, SEQ, line of the payload) and the tag; and the key identifier,
where this package sealed it. A line with no IV is not sealed. -/
structure Seal where
  iv : List Nat := []
  tag : BitVec 96 := 0
  kid : Option Nat := none
  deriving DecidableEq, Repr

/-- A relay descriptor (02 Table 2-13); `data` is the payload or the operands. -/
structure RelayDesc where
  kind : Nat
  src : Nat
  dst : Nat
  sealBit : Bool := false
  last : Bool := false
  contrib : Bool := false
  key : Nat := 0
  size : Nat := 0
  aop : Nat := 0
  len : Nat := 0
  seq : Nat := 0
  target : Nat := 0
  data : List Byte := []
  /-- The tags of a sealed payload, line by line (R61). -/
  tags : List Seal := []
  ident : Nat := 0
  cksum : Nat := 0
  status : Nat := 0
  queueRes : Nat := 0
  /-- The relay region it stands in: the module, the source head, and PAYLOAD (R57). -/
  via : Nat := 0
  head : Nat := 0
  payload : Nat := 0
  /-- A reserved KIND, a nonzero reserved field, or a length beyond the payload buffer (R58). -/
  malformed : Bool := false
  deriving DecidableEq, Repr

/-- The operands of a device event. -/
inductive EventArg where
  | none
  /-- One die, port, plot, glade, function, group, tag, node or operation. -/
  | unit (k : Nat)
  /-- Two numbers: a warp (group, warp), a die and a reading, a module and a head, and so on. -/
  | pair (k x : Nat)
  /-- Three numbers. -/
  | triple (k x y : Nat)
  /-- A sensor reading: die, sensor, degrees. -/
  | reading (die sensor temp : Nat)
  /-- The level of an input. -/
  | level (high : Bool)
  /-- Average power over a window of 1 ms (`long` false) or 1 s. -/
  | power (long : Bool) (watts : Nat)
  /-- A control-window access: function window, offset, bytes written. -/
  | write (fn off : Nat) (data : List Byte)
  /-- A host read of a control or submission window: function, requester, offset, bytes. -/
  | read (fn req off len : Nat)
  /-- A message: an SPDM or management request. -/
  | message (body : List Byte)
  /-- A link key for a port and key identifier, with its salt. -/
  | key (port kid : Nat) (key : BitVec 256) (salt : Nat)
  /-- The end of link bring-up: reachable width and mode, and the partner's report. -/
  | training (port : Nat) (ok x8 v128 ext : Bool) (modid head nheads : Nat)
  /-- A received flit: port, key identifier, generation bit, virtual channel, link sequence, whether its tag holds. -/
  | flit (port kid : Nat) (gen : Bool) (vc seq : Nat) (tagOk : Bool)
  /-- A request at a module home: module, line number, head, and what a write-back brings: 64 bytes, and the 16 bytes of the
  sideband of a sealed line. -/
  | home (m line head : Nat) (data : List Byte)
  /-- A request that waits in the queue of a module's home: module and number (R46). -/
  | queued (m id : Nat)
  /-- Another head's answer to a snoop (R48): 0 not held, 1 held clean, 2 dirty, with the data, 3 write-back in flight. -/
  | snooped (m line head ans : Nat) (data : List Byte)
  /-- An atomic at a module home: module, offset, head, SIZE code, AOP, operands. -/
  | atomic (m off head size aop x cmp : Nat)
  /-- A queue operation at a module home: module, descriptor offset, head, entry size, entry (enqueue). -/
  | queue (m off head n : Nat) (entry : List Byte)
  /-- A relay descriptor that the relay engine holds back. -/
  | relay (d : RelayDesc)
  /-- A reduction message: module, head it came through, identity, checksum word, header, chunk. -/
  | contribution (m head ident cksum : Nat) (header chunk : List Byte)
  /-- A notification: module, landing position, identity, checksum word (R77). -/
  | notice (m landing ident cksum : Nat)
  /-- A host access through a device memory window: function, requester, offset, length, data (writes). -/
  | window (fn req off len : Nat) (data : List Byte)
  /-- A host AtomicOp: function, requester, offset, bytes, AOP, operands. -/
  | windowAtomic (fn req off len aop x cmp : Nat)
  /-- A write to a submission window: function, offset, PASID, data, whether it is one whole aligned 64-byte TLP. -/
  | submit (fn off : Nat) (pasid : Option Nat) (whole : Bool) (data : List Byte)
  /-- A completion of a device request: request, status (0 SC, 1 UR, 2 CA), data. -/
  | completion (id status : Nat) (data : List Byte)
  /-- An access of a service hart: hart, where its instruction stands and its length, the address as its program uses it,
  register of the result (32 and above: floating point), length, kind (0 load that extends the sign, 1 store, 2 AMO, 3 FENCE,
  4 load that extends with zeros), AOP, operand bytes. -/
  | hart (hart pc ilen va rd len kind aop : Nat) (data : List Byte)
  /-- One step of an outstanding operation: the operation, the part or row or index, and a free choice. -/
  | op (id part choice : Nat)
  deriving DecidableEq, Repr

end Sys2Proof
end

