-- ==== Sys2Proof/Machine/StateDev.lean ====
section
/-!
DEFINITION. The state of the package outside its cores (01 to 07), as plain data. A sparse list stands for each table:
an unlisted index reads as the default.
-/
namespace Sys2Proof.Machine

/-! ## Boot, identity, power (01) -/

inductive BootPhase where
  | rom | stage1 | stage2Load | stage2 | ready | done | halted
  deriving DecidableEq, Repr

structure Boot where
  powered : Bool := true
  phase : BootPhase := .rom
  /-- BOOTSTAT (Table 1-7). -/
  stage : Nat := 0
  code : Nat := 0
  slot : Bool := false
  afail : Bool := false
  bfail : Bool := false
  keyslot : Nat := 0
  hbmok : Nat := 0
  /-- The fuse shadow of the rollback counter, and the fuses themselves (R29, R32). -/
  rollback : Nat := 0
  fuseRollback : Nat := 0
  fuseRevoked : Nat := 0
  fuseKeys : List (Nat × BitVec 384) := []
  fuseSecret : BitVec 384 := 0
  /-- The rollback counter of the running image. -/
  imageCounter : Nat := 0
  flash : List (Nat × Byte) := []
  eeprom : Option (List Byte) := none
  /-- THERMTRIP_N is low, and the clocks are stopped (R21). -/
  thermtrip : Bool := false
  clocksStopped : Bool := false
  hartsStarted : Bool := false
  /-- BOARDID (Table 1-11). -/
  form : Nat := 0
  brev : Nat := 0
  bpower : Nat := 0
  /-- Identity and alias keys, and measurements 1 to 4 (R30, R31); none before they are derived. -/
  idKey : Option (BitVec 384) := none
  romAlias : Option (BitVec 384) := none
  alias2 : Option (BitVec 384) := none
  meas : List (Nat × BitVec 384) := []
  deriving DecidableEq, Repr

/-- The algorithms of R31. -/
inductive Alg where
  | ecdsaBrainpoolP384r1 | sha384 | aes256Gcm
  deriving DecidableEq, Repr

/-- What SPDM has negotiated (R31). -/
structure Spdm where
  version : Bool := false
  caps : Bool := false
  algs : List Alg := []
  exchanged : Bool := false
  session : Bool := false
  deriving DecidableEq, Repr

/-- One compute die (R20): its core clock in 25 MHz steps, the causes that hold it in throttle, the µs windows its heat
flux has been over the limit, and whether recovery runs. -/
structure Die where
  clock : Nat := 108
  hot : Bool := false
  fluxOver : Nat := 0
  throttle : Bool := false
  recovering : Bool := false
  deriving DecidableEq, Repr

structure Power where
  fast : Nat := 2400
  sust : Nat := 2100
  pending : Option (Nat × Nat) := none
  trip : Bool := false
  over1ms : Bool := false
  over1s : Bool := false
  throtLow : Bool := false
  /-- Sensor temperatures, key 64 × die + sensor (DESIGN CHOICE, log 6). -/
  temps : List (Nat × Nat) := []
  dies : List (Nat × Die) := []
  deriving DecidableEq, Repr

/-! ## The pod (02) -/

inductive PortState where
  | off | training | up | down | refused | failed
  deriving DecidableEq, Repr

structure Port where
  x8ok : Bool := true
  mode : Nat := 0
  /-- The MODE with which its present training, or the last, started (Table 2-3). -/
  trained : Nat := 0
  state : PortState := .off
  speed : Nat := 0
  x8 : Bool := false
  ext : Bool := false
  modid : Nat := 0
  head : Nat := 0
  nheads : Nat := 0
  replay : Nat := 0
  /-- Failed replays of the flit now being replayed: its link sequence number and a count (R69). -/
  bad : Option (Nat × Nat) := none
  received : Nat := 0
  idle : Nat := 0
  /-- A loss during a rekey has erased its keys, and fresh ones have not been negotiated (R72). -/
  keyless : Bool := false
  deriving DecidableEq, Repr

/-- A key bank (R66, R67): key, salt and flit counter. -/
structure Bank where
  key : BitVec 256
  salt : Nat
  counter : Nat := 0
  deriving DecidableEq, Repr

/-- The keys of one port, key identifier and direction (R66 to R68). `step` is the rekey step reached, 0 for none. -/
structure LinkKey where
  port : Nat
  kid : Nat
  /-- The direction: sent by this package. -/
  out : Bool := false
  b0 : Option Bank := none
  b1 : Option Bank := none
  gen : Bool := false
  step : Nat := 0
  /-- The key of a second rekey, which waits until the first ends (R68). -/
  next : Option Bank := none
  deriving DecidableEq, Repr

/-- What waits for an answer from outside, or for the home of a line: a part of an operation, an element of a transfer, a
flush, or a request that another unit made. -/
inductive ExtKind where
  | part (op idx : Nat)
  | elem (op idx : Nat)
  | queue (op : Nat)
  | flush (wkey : Nat)
  | contribution (coll idx : Nat)
  | delivery (coll idx : Nat)
  | forward (d : RelayDesc)
  | window (id idx : Nat)
  | hart (h : Nat)
  /-- A piece of a read or write that a unit makes (`Fetch`): the unit and the address. -/
  | fetch (who a : Nat)
  /-- The log entry of a function that is being written (R161). -/
  | log (fn : Nat)
  deriving DecidableEq, Repr

/-- An outstanding request on a fabric port, to a relay or to the host. -/
structure Ext where
  id : Nat
  kind : ExtKind
  host : Bool
  port : Nat := 0
  ctx : Nat := 0
  ppa : Nat := 0
  len : Nat := 0
  write : Bool := false
  /-- The TLB entry it was translated through, plus 1 (R118). -/
  tlb : Nat := 0
  /-- Of a relayed request: its KIND, destination and SEQ, the relay's head, and the payload span it holds (R57). -/
  rkind : Nat := 0
  dst : Nat := 0
  seq : Nat := 0
  relay : Nat := 0
  span : Nat := 0
  spanLen : Nat := 0
  /-- Of a relayed access to a sealed line (R70): the offset in the line, and the bytes that a partial write will merge. -/
  off : Option Nat := none
  merge : Option (List Byte) := none
  /-- A CAS retry loop (R129): AOP, operand, and the value that the last CAS expects; and the attributes of its requests. -/
  loop : Option (Nat × Nat × Option Nat) := none
  attrs : Nat := 0
  deriving DecidableEq, Repr

/-- A piece of a unit's own read or write that cannot be performed at once: the unit, the physical address, and the answer
once it has come, with whether it is poisoned. -/
structure Fetch where
  who : Nat
  addr : Nat
  answer : Option (List Byte × Bool) := none
  deriving DecidableEq, Repr

/-- The snoops of CXL 3.x (R46). -/
inductive Snoop where
  | cur | data | inv
  deriving DecidableEq, Repr

/-- Who asks a home: another head by an event, a unit of this package, or its relay engine. -/
inductive ReqWho where
  | event (i : Instr) (a : EventArg)
  | own (k : ExtKind)
  | relay (d : RelayDesc)
  deriving DecidableEq, Repr

/-- A request that waits at a home, in the order of receipt (R46): the lines it touches, the (line, head) snoops that have
been answered for it, and whether dirty data was forwarded. -/
structure HomeReq where
  id : Nat
  who : ReqWho
  lines : List Nat
  answered : List (Nat × Nat) := []
  dirty : Bool := false
  deriving DecidableEq, Repr

/-- A snoop that a head has not answered yet. -/
structure SnoopOut where
  line : Nat
  head : Nat
  kind : Snoop
  deriving DecidableEq, Repr

/-- A line of a module's directory (R46). -/
structure DirLine where
  owner : Option Nat := none
  dirty : Bool := false
  /-- In state O: the owner shares. -/
  shared : Bool := false
  sharers : List Nat := []
  deriving DecidableEq, Repr

/-- A reduction slot (R85): its key, parameters and arrivals (contributor, chunk identity, chunk). -/
structure RedSlot where
  ident : Nat
  op : Nat
  wire : Nat
  isPart : Bool
  mask : Nat
  elems : Nat
  landing : Nat
  owner : Nat
  arrivals : List (Nat × Nat × List Byte) := []
  /-- Heads through which relays wrote contributions (R92). -/
  via : List Nat := []
  /-- 0 running, 1 done, 2 checksum, 3 link lost; the result stands at the landing position. -/
  state : Nat := 0
  deriving DecidableEq, Repr

structure Module where
  failed : Bool := false
  lost : List Nat := []
  dir : List (Nat × DirLine) := []
  /-- Requests that wait at the home, in the order of receipt, and snoops not answered yet (R46 to R48). -/
  reqs : List HomeReq := []
  nextReq : Nat := 0
  snoops : List SnoopOut := []
  /-- How many records each head's event queue has taken (R51, R63). -/
  posted : List (Nat × Nat) := []
  enrolled : List Nat := []
  slots : List RedSlot := []
  deriving DecidableEq, Repr

/-- An entry of the spill list (Table 3-9), as fields. -/
structure Spill where
  ident : Nat
  pos : Nat
  m : Nat
  delivery : Bool
  tstamp : Nat
  deriving DecidableEq, Repr

/-- A collective in flight at this package (03). -/
structure Coll where
  id : Nat
  op : Nat
  ctx : Nat
  /-- The record's fields (Table 3-1). -/
  number : Nat
  kind : Nat
  rop : Nat
  wire : Nat
  isPart : Bool
  sealBit : Bool
  attempt : Nat
  logchunk : Nat
  root : Nat
  members : List Nat
  nchunk : Nat
  list : List Nat
  src : Nat
  dst : Nat
  fail : Nat
  failcap : Nat
  landbase : Nat
  /-- The pod's attachments (package, module) that were live when the attempt was issued, and its step-2 module (R80). -/
  up : List (Nat × Nat) := []
  second : Option Nat := none
  /-- Contributions, as 64 × chunk + contributor number for a step-2 slot, or + 32 for step 1: those still to send,
  ascending; those not answered yet; and those a BUSY answer holds back, as (contribution, module, relay + 1 or 0). -/
  toSend : List Nat := []
  sent : List Nat := []
  busy : List (Nat × Nat × Nat) := []
  /-- As owner: step-1 results awaited (chunk, module), step-2 results awaited, and (kinds 2 and 3) chunks of its own
  still to pass on. -/
  step1 : List (Nat × Nat) := []
  step2 : List Nat := []
  toOwn : List Nat := []
  /-- Chunks whose final value has still to come, and those that have been announced: (chunk, module or 0xFF, where). -/
  toGet : List Nat := []
  ready : List (Nat × Nat × Nat) := []
  /-- Sealed contributions the owner holds: (chunk, contributing package, bytes). -/
  held : List (Nat × Nat × List Byte) := []
  /-- Deliveries still to send, by 128 × chunk + member; and those not answered yet: (chunk, member). -/
  due : List (Nat × RelayDesc) := []
  toRelay : List (Nat × Nat) := []
  failed : List Nat := []
  /-- The failed chunks whose status is LINK_LOST; the others have CHECKSUM. -/
  lost : List Nat := []
  linkLost : Bool := false
  checksum : Bool := false
  /-- It ends with FAULT (R134, R439). -/
  fault : Bool := false
  deriving DecidableEq, Repr

structure Pod where
  en : Bool := false
  order : Nat := 0
  pkg : Nat := 0
  ports : List (Nat × Port) := []
  pkgRoute : List (Nat × Nat) := []
  modRoute : List (Nat × Nat) := []
  keys : List LinkKey := []
  modules : List (Nat × Module) := []
  /-- The sidebands of sealed lines, by line number (R70). -/
  sealed : List (Nat × Seal) := []
  /-- Next SEQ to send to, and next to perform from, a package pair (key 128 × source + destination). -/
  seqOut : List (Nat × Nat) := []
  seqIn : List (Nat × Nat) := []
  heldBack : List RelayDesc := []
  ext : List Ext := []
  nextExt : Nat := 0
  fetches : List Fetch := []
  colls : List Coll := []
  nextColl : Nat := 0
  spillBase : Nat := 0
  spillLog : Nat := 0
  spillOvf : Bool := false
  spills : List Spill := []
  deriving DecidableEq, Repr

/-! ## The host interface (05) -/

structure Func where
  glades : Nat := 0
  en : Bool := false
  pause : Bool := false
  tsfrz : Bool := false
  qbase : Nat := 0
  nq : Nat := 0
  winbase : Nat := 0
  wctx : Nat := 0
  ilbase : Nat := 0
  ilen : Bool := false
  ilmod : Nat := 0
  illog : Nat := 0
  ilhead : Nat := 0
  iltail : Nat := 0
  ilgen : Nat := 0
  illost : Nat := 0
  tsscale : Nat := 0x0000000280000000
  tsoff : Nat := 0
  tslast : Nat := 0
  tspause : Nat := 0
  masked : Bool := false
  pendingMsi : Bool := false
  /-- An interval of ILCTL.MOD runs, and a message waits for its end (R161). -/
  modRunning : Bool := false
  suppressed : Bool := false
  resetting : Bool := false
  deriving DecidableEq, Repr

/-- A window access that has not ended (R144, R145). -/
structure WinAcc where
  id : Nat
  fn : Nat
  req : Nat
  off : Nat
  len : Nat
  /-- 0 read, 1 write, 2 atomic. -/
  kind : Nat
  aop : Nat := 0
  x : Nat := 0
  cmp : Nat := 0
  data : List Byte := []
  tag : Option Nat := none
  /-- Its lines that were sent to a relay, and those performed with the bytes they returned. -/
  sent : List Nat := []
  got : List (Nat × List Byte) := []
  bad : Bool := false
  deriving DecidableEq, Repr

/-- What the device keeps of a queue context (R148): ACCEPTED, DROPPED, SPHEAD, SPTAIL. -/
structure QCount where
  accepted : Nat := 0
  dropped : Nat := 0
  head : Nat := 0
  tail : Nat := 0
  /-- Window accesses numbered below it came before its last record (R153). -/
  behind : Nat := 0
  deriving DecidableEq, Repr

/-- The privilege levels of R170. -/
inductive HartMode where
  | m | hs | u | vs | vu
  deriving DecidableEq, Repr

/-- A hart of the service cluster (R170): an RV64GC core with the H extension, as far as it meets the device. CSRs by number;
`imsic` holds the interrupt identities pending in its IMSIC; `busy` its accesses that have not ended, oldest first. -/
structure Hart where
  mode : HartMode := .m
  pc : Dword := 0
  x : List (Nat × Dword) := []
  f : List (Nat × Dword) := []
  csr : List (Nat × Nat) := []
  imsic : List Nat := []
  busy : List EventArg := []
  deriving DecidableEq, Repr

/-- Who holds a service tag (R174, R176, R208). -/
inductive SvcOwner where
  | op (id : Nat)
  | service (node : Nat)
  | reissue (node : Nat)
  | dead
  deriving DecidableEq, Repr

structure HostIf where
  fns : List (Nat × Func) := []
  qctxBase : Nat := 0
  svcBase : Nat := 0
  svcEn : Bool := false
  svcLog : Nat := 0
  svcHead : Nat := 0
  svcTail : Nat := 0
  /-- On-chip intake: (queue context, record), in arrival order (R151). -/
  intake : List (Nat × List Byte) := []
  counts : List (Nat × QCount) := []
  tags : List (Nat × SvcOwner) := []
  /-- Service records not yet in the ring. -/
  svcWait : List (List Byte) := []
  seq : Nat := 0
  /-- Log entries not yet written, oldest first: function and bytes; and the functions whose oldest is on its way (R161). -/
  logs : List (Nat × List Byte) := []
  logSent : List Nat := []
  /-- Errors that evictions found, not yet posted: context and PPA (R139). -/
  memerrs : List (Nat × Nat) := []
  windows : List WinAcc := []
  nextWin : Nat := 0
  harts : List (Nat × Hart) := []
  /-- Interrupt sources pending in the APLIC: fault queue, service queue, migration, pod record, FNCFG write (R173); and how
  often each has been raised. -/
  aplic : List Nat := []
  raised : List (Nat × Nat) := []
  deriving DecidableEq, Repr

/-! ## The graph engine (06) -/

inductive NodeSt where
  | waiting | ready | running | publishing | reissue | done | failed | cancelled
  deriving DecidableEq, Repr

/-- An operand entry (R182). -/
structure Operand where
  va : Nat
  len : Nat
  sbid : Nat
  shadow : Bool
  deriving DecidableEq, Repr

/-- The launch part of a node record (Table 6-3) with the kernel descriptor's fields (11 Table 11-11). -/
structure Launch where
  gx : Nat
  gy : Nat
  gz : Nat
  shapeX : Nat
  shapeY : Nat
  shapeZ : Nat
  nc : Nat
  nm : Nat
  nv : Nat
  budc : Nat
  budm : Nat
  budv : Nat
  gang : Nat
  cls : Nat
  scratch : Nat
  lanePriv : Nat
  args : List Word
  novl : Nat
  handler : Nat
  ovltab : Nat
  entryC : Nat
  entryM : Nat
  entryV : Nat
  /-- Slots bound at group start: (slot, overlay, image, LENGTH). -/
  inits : List (Nat × Nat × Nat × Nat)
  deriving DecidableEq, Repr

/-- A node (R185) with its record (Table 6-2). -/
structure Node where
  id : Nat
  ctx : Nat
  fn : Nat
  glade : Nat
  qctx : Option Nat
  recVa : Nat
  index : Nat
  nkind : Nat
  prio : Nat
  restart : Bool
  launchId : Nat
  graphId : Nat
  phaseId : Nat
  jobId : Nat
  succs : List Nat
  reads : List Operand
  writes : List Operand
  seq : Nat := 0
  logDone : Bool := false
  /-- The launch node that issued it with `LAUNCH`, and that launch's LAUNCHID. -/
  parent : Option Nat := none
  parentLaunch : Nat := 0
  launch : Option Launch := none
  /-- Bytes 48 to 127 of a node of another kind. -/
  rest : List Byte := []
  st : NodeSt := .waiting
  /-- Its place in the spill area, while it is spilled (R186). -/
  spill : Option Nat := none
  preds : Nat := 0
  attempt : Nat := 0
  readyAt : Nat := 0
  /-- How long it was READY when it was dispatched (R191). -/
  waited : Nat := 0
  cause : Nat := 0
  causeStatus : Bool := false
  /-- Gangs not yet placed, and group counts. -/
  unplaced : List Nat := []
  placedOnce : Bool := false
  groupsLeft : Nat := 0
  groupsDone : Nat := 0
  doneTime : Nat := 0
  /-- PUBs of PUBLISHING still to perform, by index of the write set. -/
  pubs : List Nat := []
  /-- The deferred flush is still owed (R189). -/
  flushOwed : Bool := true
  /-- The pending-fault entry that holds an access of the node itself (R134). -/
  park : Option Nat := none
  deriving DecidableEq, Repr

/-- A unit's counter (R178): level 0 launch, 1 graph, 2 phase, 3 job. Status 0 DONE, 1 CANCELLED, 2 FAILED. -/
structure Counter where
  ctx : Nat
  level : Nat
  ident : Nat
  count : Nat := 0
  status : Nat := 0
  closed : Bool := false
  /-- The phase and job of a graph, and the job of a phase. -/
  phase : Nat := 0
  job : Nat := 0
  /-- A LOGDONE graph record: queue context and SEQ. -/
  log : Option (Nat × Nat) := none
  deriving DecidableEq, Repr

/-- The graph engine: its nodes, counters, settings (Tables 6-7 to 6-10) and watches. -/
structure Graph where
  nodes : List Node := []
  nextNode : Nat := 0
  nextGroup : Nat := 1
  counters : List Counter := []
  reswait : Nat := 200
  agestep : Nat := 50
  limit : Nat := 0
  remedy : Nat := 200
  nspBase : Nat := 0
  nspEn : Bool := false
  nspLog : Nat := 0
  /-- Event-wait nodes being watched. -/
  watches : List Nat := []
  deriving DecidableEq, Repr

/-! ## Glades (07) -/

inductive PlotSt where
  | free | joining | owned | leaving | firebreak | failed
  deriving DecidableEq, Repr

structure Plot where
  st : PlotSt := .free
  glade : Nat := 0
  seg : Nat := 0
  deriving DecidableEq, Repr

inductive GladeSt where
  | idle | check | evacuate | rehash | relocate | undo
  deriving DecidableEq, Repr

/-- A canopy copy of COMMIT (R230): plot k's canopy to plot m, which takes segment j. -/
structure CanopyCopy where
  k : Nat
  m : Nat
  j : Nat
  i : Nat
  deriving DecidableEq, Repr

structure Glade where
  st : GladeSt := .idle
  result : Nat := 0
  svfull : Bool := false
  slice : Nat := 0
  deadline : Nat := 200
  saveBase : Nat := 0
  saveLog : Nat := 0
  /-- The plots of the old hash while a rehash runs (R227). -/
  oldSet : List Nat := []
  grow : Bool := false
  copies : List CanopyCopy := []
  committing : Bool := false
  resetDue : Bool := false
  holder : Option Nat := none
  /-- The clearing: its grove, the waiting (node, gang), and whether migration has begun. -/
  clearing : Option (Nat × Nat × Nat) := none
  clearMoving : Bool := false
  /-- Groves draining toward DEADLINE (R237). -/
  draining : List Nat := []
  /-- Groves that drain without a deadline (R226). -/
  undated : List Nat := []
  /-- Concurrent launches that drain with a grove, as (grove, node) (R236). -/
  drainUnits : List (Nat × Nat) := []
  deriving DecidableEq, Repr

/-- An L2 line (R107, R214): slice, line number, context, MOESI state (0 I, 1 S, 2 E, 3 O, 4 M). -/
structure L2Line where
  slice : Nat
  line : Nat
  ctx : Nat
  st : Nat
  deriving DecidableEq, Repr

/-- What the device sends outside. -/
inductive SentKind where
  /-- PCIe: completion of a host request, configuration answer, MSI-X message, write, read, AtomicOp, flush read. -/
  | completion | config | msix | hostWrite | hostRead | hostAtomic | hostFlush
  /-- SPDM and management answers, and the certificate. -/
  | spdm | management
  /-- Fabric: an idle flit, a relay descriptor, a relay response, a snoop of a home, a snoop answer, an answer of a module home, a reduction
  message and its answer, a ready notification, a slot notification, a rekey request. -/
  | idleFlit | relay | relayAnswer | snoop | snoopAnswer | homeAnswer | contribution | contributionAnswer | ready | slotNote | rekey
  /-- The THERMTRIP_N output falls. -/
  | thermtrip
  deriving DecidableEq, Repr

/-- What the device has sent outside: its kind and its words and bytes. -/
structure Sent where
  kind : SentKind
  words : List Nat
  data : List Byte := []
  deriving DecidableEq, Repr

end Sys2Proof.Machine
end

