-- ==== Sys2Proof/Machine/StateXlat.lean ====
section
/-!
DEFINITION. The state of address translation, the pending-fault table and the migration engine (04), as plain data.
-/
namespace Sys2Proof.Machine

/-- A cached leaf (R117): context, the first virtual address it maps, log2 of its size, the leaf; `dying` once an
invalidation that covers it has started. `id` names it in the accesses translated through it. -/
structure TlbEntry where
  id : Nat
  ctx : Nat
  base : Nat
  log : Nat
  leaf : Dword
  dying : Bool := false
  deriving DecidableEq, Repr

/-- A live entry of the pending-fault table (R131). -/
structure Pend where
  tag : Nat
  ctx : Nat
  vpn : Nat
  code : Nat
  va : Nat
  ppa : Nat
  access : Nat
  agent : Nat
  glade : Nat
  posted : Bool := false
  /-- Allocation order (R133). -/
  order : Nat
  deriving DecidableEq, Repr

/-- A live entry of the backing remap table (R513). -/
structure Remap where
  sbid : Nat
  side : Nat
  page : Nat
  ppa : Nat
  park : Bool
  deriving DecidableEq, Repr

/-- What the migration engine is doing with its present command (R126). -/
inductive MigStage where
  | start
  | drain
  | copy
  deriving DecidableEq, Repr

/-- A command the migration engine holds (Table 4-8), with its progress. -/
structure MigCmd where
  op : Nat
  ctx : Nat
  sbid : Nat
  side : Nat
  glade : Nat
  va : Nat
  dst : Nat
  count : Nat
  completion : Nat
  stage : MigStage := .start
  moved : Nat := 0
  /-- The leaf being moved: where its entry lies, log2 of its size, the page it maps (EVICT chooses it). -/
  leafAt : Nat := 0
  log : Nat := 12
  src : Nat := 0
  dest : Nat := 0
  curCtx : Nat := 0
  curVa : Nat := 0
  /-- Lines of the page copied so far. -/
  pos : Nat := 0
  deriving DecidableEq, Repr

structure Xlat where
  ctxtBase : Nat := 0
  sbtBase : Nat := 0
  fqBase : Nat := 0
  dirtyA : Nat := 0
  dirtyB : Nat := 0
  fqEn : Bool := false
  fqLogcap : Nat := 0
  fqHead : Word := 0
  fqTail : Word := 0
  dirtyEn : Bool := false
  dirtySel : Bool := false
  dirtyDrain : Bool := false
  migEn : Bool := false
  migEpoch : Nat := 1000
  /-- TLBINV: VPN, CTXID, SCOPE, BUSY (Table 4-5). -/
  invVpn : Nat := 0
  invCtx : Nat := 0
  invScope : Nat := 0
  invBusy : Bool := false
  tlb : List TlbEntry := []
  nextTlb : Nat := 0
  pend : List Pend := []
  nextPend : Nat := 0
  /-- Shadow version bits (R120). -/
  version : List (Nat × Bool) := []
  remap : List Remap := []
  mig : List MigCmd := []
  deriving DecidableEq, Repr

end Sys2Proof.Machine
end

