-- ==== Sys2Proof/Machine/State.lean ====
section
/-!
DEFINITION. The state of the machine (INVENTORY.md, "State"), its faults and refusals, and the state after a cold reset.
-/
namespace Sys2Proof.Machine

/-- Why the machine may stop with a fault. The spec turns every stop of this device into a trap, a status code, a parked
access or a dropped request, so no meaning answers with one. -/
inductive Fault where
  /-- No step raises it (safe: a stop that never happens proves nothing false). -/
  | never
  deriving DecidableEq, Repr

/-- Why an instruction has no meaning. -/
inductive Refusal where
  /-- Raised by an arm of `exec` whose meaning is not written; no arm is left so (safe). -/
  | notModelled (mnemonic : String)
  deriving DecidableEq, Repr

/-- The machine: one package and the pool modules it can reach. -/
structure State where
  /-- Bytes by pod physical address (R103); an unlisted byte reads 0 (DESIGN CHOICE, log 7). -/
  mem : List Host.Cell := []
  /-- 64-byte lines marked poisoned (R138). -/
  poison : List Nat := []
  /-- Lines with an uncorrectable error not yet found (R139; DESIGN CHOICE, log 24). -/
  latent : List Nat := []
  l2 : List L2Line := []
  rcache : List RLine := []
  imem : List ImemBlock := []
  groups : List (Nat × Group) := []
  warps : List (Nat × Warp) := []
  ops : List Op := []
  nextOp : Nat := 0
  /-- Quadrants, key 4 × core + sub-core. -/
  quads : List (Nat × Quad) := []
  /-- CLOCK of each core. -/
  clocks : List (Nat × Nat) := []
  /-- Host pages written since the last flush, as (warp key, page) (R168). -/
  hostDirty : List (Nat × Nat) := []
  xlat : Xlat := {}
  boot : Boot := {}
  spdm : Spdm := {}
  power : Power := {}
  pod : Pod := {}
  host : HostIf := {}
  /-- Graph-engine reads that wait on a fault: (queue context, tag); and records failed so (R134). -/
  recPark : List (Nat × Nat) := []
  recFailed : List Nat := []
  graph : Graph := {}
  plots : List (Nat × Plot) := []
  glades : List (Nat × Glade) := []
  /-- GLCOST.SAVENS. -/
  savens : Nat := 150
  /-- The model's own fields from here on: the warp that issues the present word. -/
  curG : Nat := 0
  curW : Nat := 0
  /-- Free values and choices are applied to it (DESIGN CHOICE, log 1 and 2). -/
  tick : Nat := 0
  /-- REFCNT (R165): ticks of 400 MHz since the cold reset (DESIGN CHOICE, log 10). -/
  now : Nat := 0
  /-- What the present event acts on. -/
  arg : EventArg := .none
  /-- Events from outside and expired timers that wait (DESIGN CHOICE, log 3). -/
  inbox : List (Instr × EventArg) := []
  /-- What the device has sent outside. -/
  outbox : List Sent := []
  deriving DecidableEq, Repr

/-- The state right after a cold reset (R24, R32, R40, R210, R217), before the ROM has run. -/
def State.reset : State := {}

end Sys2Proof.Machine
end

