-- ==== Sys2Proof/Machine/Regs.lean ====
section
/-!
DEFINITION. Reading and writing the registers of a warp (08 R244, Table 8-2): the one place each class is read and
written. A write at issue also feeds the spin detector (R255).
-/
namespace Sys2Proof.Machine

/-! ## The current warp and group -/

/-- The key of a warp in the state's list. -/
def warpKey (g w : Nat) : Nat := 64 * g + w

def State.warpAt (s : State) (g w : Nat) : Warp := Map.get {} s.warps (warpKey g w)
def State.putWarp (s : State) (g w : Nat) (x : Warp) : State := { s with warps := Map.set {} s.warps (warpKey g w) x }
def State.groupAt (s : State) (g : Nat) : Group := Map.get {} s.groups g
def State.putGroup (s : State) (g : Nat) (x : Group) : State := { s with groups := Map.set {} s.groups g x }

/-- The warp that issues the present word. -/
def State.warp (s : State) : Warp := s.warpAt s.curG s.curW
def State.setWarp (s : State) (x : Warp) : State := s.putWarp s.curG s.curW x
def State.group (s : State) : Group := s.groupAt s.curG
def State.setGroup (s : State) (x : Group) : State := s.putGroup s.curG x

/-! ## Register reads -/

def Warp.getV (w : Warp) (r l : Nat) : Word := Map.get 0 w.v (32 * r + l)
def Warp.getS (w : Warp) (r : Nat) : Word := Map.get 0 w.s r
def Warp.getP (w : Warp) (i : Nat) : Mask := Map.get 0 w.p i
def Warp.getQ (w : Warp) (i : Nat) : Bool := Map.get false w.q i
def Warp.getE (w : Warp) (i : Nat) : Acc := Map.get {} w.e i
def Warp.getF (w : Warp) (i : Nat) : Nat := Map.get 0 w.f i
def Warp.getV64 (w : Warp) (r l : Nat) : Dword := pairOf (w.getV r l) (w.getV (r + 1) l)
def Warp.getS64 (w : Warp) (r : Nat) : Dword := pairOf (w.getS r) (w.getS (r + 1))

/-! ## Register writes that no word makes (completions, restores) -/

def Warp.setV (w : Warp) (r l : Nat) (x : Word) : Warp := { w with v := Map.set 0 w.v (32 * r + l) x }
def Warp.setS (w : Warp) (r : Nat) (x : Word) : Warp := { w with s := Map.set 0 w.s r x }
def Warp.setP (w : Warp) (i : Nat) (x : Mask) : Warp := { w with p := Map.set 0 w.p i x }
def Warp.setQ (w : Warp) (i : Nat) (x : Bool) : Warp := { w with q := Map.set false w.q i x }
def Warp.setE (w : Warp) (i : Nat) (x : Acc) : Warp := { w with e := Map.set {} w.e i x }
def Warp.setF (w : Warp) (i n : Nat) : Warp := { w with f := Map.set 0 w.f i n }

/-- v(r) := f L in every lane L of a mask. -/
def Warp.setLanes (w : Warp) (r : Nat) (m : Mask) (f : Nat → Word) : Warp :=
  (lanesOf m).foldl (fun w l => w.setV r l (f l)) w

/-- A predicate's bits in the lanes of a mask. -/
def Warp.setPLanes (w : Warp) (i : Nat) (m : Mask) (f : Nat → Bool) : Warp :=
  w.setP i ((w.getP i &&& ~~~m) ||| (maskOf f &&& m))

/-! ## Writes at issue -/

/-- The signature step of R255. -/
def sigStep (sig : BitVec 16) (k : Nat) (x : Word) : BitVec 16 :=
  ((sig <<< 1) ||| (sig >>> 15)) ^^^ (BitVec.ofNat 16 (k % 256) <<< 8) ^^^ x.extractLsb' 0 16 ^^^ x.extractLsb' 16 16

/-- Note a register write of the issuing entry in its spin signature. -/
def Warp.note (w : Warp) (k : Nat) (x : Word) : Warp :=
  { w with clause := { w.clause with spin := { w.clause.spin with sig := sigStep w.clause.spin.sig k x } } }

/-- Note a memory write by the issuing entry (R255): its iteration is not quiet. -/
def Warp.noteStore (w : Warp) : Warp :=
  { w with clause := { w.clause with d := false, spin := { w.clause.spin with wrote := true } },
           frontier := w.frontier.map (fun e => { e with d := false }),
           hfront := w.hfront.map (fun e => { e with d := false }) }

/-- Change the spin detector of the entry that holds a lane. -/
def Warp.spinOf (w : Warp) (l : Nat) (f : Spin → Spin) : Warp :=
  let one (e : Entry) : Entry := if inMask e.mask l then { e with spin := f e.spin } else e
  if w.clause.active && inMask w.clause.mask l then { w with clause := { w.clause with spin := f w.clause.spin } }
  else { w with frontier := w.frontier.map one, hfront := w.hfront.map one }

/-- A memory write by the entry that holds a lane ends every demotion, and its own iteration is not quiet (R255). -/
def Warp.noteWriteBy (w : Warp) (l : Nat) : Warp :=
  let calm (e : Entry) : Entry := { e with d := false }
  ({ w with clause := { w.clause with d := false }, frontier := w.frontier.map calm, hfront := w.hfront.map calm } : Warp).spinOf l
    (fun sp => { sp with wrote := true })

/-- The result of a long-latency operation that an entry of some lanes issued reaches a register (R252): key 32 × v register + lane,
or 8192 + s register. The entry's signature notes it then (DEDUCED, log 45). -/
def Warp.putResult (w : Warp) (m : Mask) (k : Nat) (x : Word) : Warp :=
  let l := lowestLane m
  let noted (w : Warp) (i : Nat) : Warp := w.spinOf l (fun sp => { sp with sig := sigStep sp.sig i x })
  if 8192 ≤ k then noted (w.setS (k - 8192) x) (128 + (k - 8192))
  else if k % 32 = l then noted (w.setV (k / 32) l x) (k / 32) else w.setV (k / 32) (k % 32) x

/-- The key of an s register among results, and the results that start at one. -/
def sKey (r : Nat) : Nat := 8192 + r

/-- The lowest lane of the issuing entry. -/
def Warp.low (w : Warp) : Nat := lowestLane w.clause.mask

def Warp.wrV (w : Warp) (r : Nat) (m : Mask) (f : Nat → Word) : Warp :=
  if m = 0 then w else
    let w := w.setLanes r m f
    w.note r (w.getV r w.low)

/-- A pair: the low word in v(r), the high word in v(r+1). -/
def Warp.wrV64 (w : Warp) (r : Nat) (m : Mask) (f : Nat → Dword) : Warp :=
  (w.wrV r m (fun l => loOf (f l))).wrV (r + 1) m (fun l => hiOf (f l))

def Warp.wrS (w : Warp) (r : Nat) (x : Word) : Warp := (w.setS r x).note (128 + r) x

def Warp.wrS64 (w : Warp) (r : Nat) (x : Dword) : Warp := (w.wrS r (loOf x)).wrS (r + 1) (hiOf x)

def Warp.wrP (w : Warp) (i : Nat) (m : Mask) (f : Nat → Bool) : Warp :=
  if m = 0 then w else
    let w := w.setPLanes i m f
    w.note (192 + i) (if inMask (w.getP i) w.low then 1 else 0)

def Warp.wrQ (w : Warp) (i : Nat) (x : Bool) : Warp := (w.setQ i x).note (192 + i) (if x then 1 else 0)

/-! ## Modes -/

/-- The floating-point mode of FMODE (Table 8-4). -/
def Warp.mode (w : Warp) : FpMode where
  rm := Rnd.ofCode (w.fmode.extractLsb' 0 2).toNat
  ftzi := w.fmode.getLsbD 2
  ftzo := w.fmode.getLsbD 3
  satn := w.fmode.getLsbD 4

/-- The mode with an LX rounding override (R298): 0 is FMODE's own. -/
def Warp.modeRm (w : Warp) (rm : BitVec 3) : FpMode :=
  if rm = 0 then w.mode else { w.mode with rm := Rnd.ofCode (rm.toNat - 1) }

/-- Set sticky bits of the group's GNSTAT (R248). -/
def Group.raise (g : Group) (f : Flags) : Group := { g with gnstat := g.gnstat ||| f.bits }

/-! ## Free values and choices -/

/-- A choice among `n` that the spec does not order (DESIGN CHOICE, log 2): with one possibility nothing is chosen. -/
def State.pick (s : State) (n : Nat) : Nat × State :=
  if n ≤ 1 then (0, s) else (Config.schedule s.tick % n, { s with tick := s.tick + 1 })

def State.freeWord (s : State) : Word × State := (Config.freeWord s.tick, { s with tick := s.tick + 1 })

/-- Time passes before a clock is read (DESIGN CHOICE, log 10). -/
def State.passTime (s : State) : State := { s with now := s.now + Config.elapsed s.tick, tick := s.tick + 1 }

/-- A halted device ignores every write but one to RSTCTL (R28). -/
def State.halted (s : State) : Bool := s.boot.phase == .halted

end Sys2Proof.Machine
end

