-- ==== Sys2Proof/Machine/Phys.lean ====
section
/-!
DEFINITION. Physical memory: pod physical addresses (04 R103, R104), bytes, poison (R138), dirty bitmaps (R136), the L2
tags (R107, R214) and the read caches (09 R268).
-/
namespace Sys2Proof.Machine

/-! ## Addresses (Table 4-1) -/

def ppaKind (a : Nat) : Nat := a / 2 ^ 57 % 8
/-- Kind 0: the plot, and the offset within it. -/
def hbmPlot (a : Nat) : Nat := bitsOf a 38 34
def hbmOff (a : Nat) : Nat := a % 2 ^ 34
/-- R104: in-plot offsets from here on are holes. -/
def hbmLimit : Nat := 12000000000
/-- Kind 1: the module, and the offset within it. -/
def modIndex (a : Nat) : Nat := bitsOf a 56 50
def modOff (a : Nat) : Nat := a % 2 ^ 50
def modPpa (m off : Nat) : Nat := 2 ^ 57 + m * 2 ^ 50 + off
/-- R51: tenant offsets start here. -/
def controlArea : Nat := 0x100000000
/-- Kind 3: the plot. -/
def canopyPlot (a : Nat) : Nat := bitsOf a 25 21
def canopyPpa (plot off : Nat) : Nat := 3 * 2 ^ 57 + plot * 2 ^ 21 + off

/-- A pod physical address with a nonzero bit outside its layout, a reserved kind, or a hole (R103, R104). -/
def ppaBad (a : Nat) : Bool :=
  let k := ppaKind a
  2 ^ 60 ≤ a || 5 ≤ k || (k == 0 && (bitsOf a 56 39 != 0 || hbmLimit ≤ hbmOff a)) || (k == 3 && bitsOf a 56 26 != 0)
    || (k == 4 && bitsOf a 56 32 != 0)

/-- A PPA of kind 0 outside the holes. -/
def hbmOk (a : Nat) : Bool := ppaKind a == 0 && !ppaBad a

def lineOf (a : Nat) : Nat := a / 64

/-! ## Bytes -/

def State.readB (s : State) (a : Nat) : Byte := Map.get 0 s.mem a
def State.readN (s : State) (a n : Nat) : List Byte := Map.getMany 0 s.mem a n
def State.read64 (s : State) (a : Nat) : Nat := ofBytes (s.readN a 8)
def State.read32 (s : State) (a : Nat) : Nat := ofBytes (s.readN a 4)

/-- The lines that n bytes from a touch. -/
def linesOf (a n : Nat) : List Nat := (List.range ((a % 64 + n + 63) / 64)).map (fun i => lineOf a + i)

/-- Whether some line of a range is poisoned, or has an error not yet found, which the read finds (R138, R139). -/
def State.poisoned (s : State) (a n : Nat) : Bool :=
  (linesOf a n).any (fun l => s.poison.contains l || s.latent.contains l)

/-- Write bytes with nothing else (device structures, fills). A write that covers a whole line clears its poison. -/
def State.poke (s : State) (a : Nat) (bs : List Byte) : State :=
  let full := (linesOf a bs.length).filter (fun l => a ≤ 64 * l && 64 * l + 64 ≤ a + bs.length)
  { s with mem := Map.setMany 0 s.mem a bs,
           poison := s.poison.filter (fun l => !full.contains l), latent := s.latent.filter (fun l => !full.contains l) }

/-- Mark lines poisoned. -/
def State.poisonLines (s : State) (ls : List Nat) : State := { s with poison := ls.foldl (fun p l => insertNat l p) s.poison }

/-- R136: the bit of the active bitmap for a write at PPA `a`. -/
def State.markDirty (s : State) (a : Nat) : State :=
  if s.xlat.dirtyEn && ppaKind a == 0 then
    let bit := 2 ^ 22 * hbmPlot a + hbmOff a / 4096
    let at' := (if s.xlat.dirtySel then s.xlat.dirtyB else s.xlat.dirtyA) + bit / 8
    { s with mem := Map.set 0 s.mem at' (s.readB at' ||| (1#8 <<< (bit % 8))) }
  else s

/-- An address in each 4 KiB page that n bytes from a touch. -/
def pagesOf (a n : Nat) : List Nat := (List.range ((a % 4096 + n + 4095) / 4096)).map (fun i => (a / 4096 + i) * 4096)

/-- A write by an agent: the bytes, and the dirty bits of their pages. -/
def State.store (s : State) (a : Nat) (bs : List Byte) : State :=
  (pagesOf a bs.length).foldl State.markDirty (s.poke a bs)

def State.store64 (s : State) (a v : Nat) : State := s.store a (bytesOf 8 v)
def State.store32 (s : State) (a v : Nat) : State := s.store a (bytesOf 4 v)

/-! ## Plots and glades -/

def State.plot (s : State) (k : Nat) : Plot := Map.get {} s.plots k
def State.setPlot (s : State) (k : Nat) (p : Plot) : State := { s with plots := Map.set {} s.plots k p }
def State.gladeAt (s : State) (g : Nat) : Glade := Map.get {} s.glades g
def State.setGlade (s : State) (g : Nat) (x : Glade) : State := { s with glades := Map.set {} s.glades g x }
def State.module (s : State) (m : Nat) : Module := Map.get {} s.pod.modules m
def State.setModule (s : State) (m : Nat) (x : Module) : State :=
  { s with pod := { s.pod with modules := Map.set {} s.pod.modules m x } }
def State.port (s : State) (k : Nat) : Port := Map.get {} s.pod.ports k
def State.setPort (s : State) (k : Nat) (x : Port) : State :=
  { s with pod := { s.pod with ports := Map.set {} s.pod.ports k x } }
def State.fn (s : State) (f : Nat) : Func := Map.get {} s.host.fns f
def State.setFn (s : State) (f : Nat) (x : Func) : State :=
  { s with host := { s.host with fns := Map.set {} s.host.fns f x } }

/-- Whether a plot belongs to a glade (Table 7-1). -/
def Plot.ownedBy (p : Plot) (g : Nat) : Bool := (p.st == .joining || p.st == .owned || p.st == .leaving) && p.glade == g

def State.gladePlots (s : State) (g : Nat) : List Nat := (List.range 32).filter (fun k => (s.plot k).ownedBy g)
/-- The plots that count for placement (R221). -/
def State.livePlots (s : State) (g : Nat) : List Nat :=
  (s.gladePlots g).filter (fun k => (s.plot k).st != .leaving)

/-- The plot that holds a K-space segment of a glade (R215); at a COMMIT the remaining plot that takes it (R230). -/
def State.segPlot (s : State) (g seg : Nat) : Option Nat :=
  ((s.livePlots g).find? (fun k => (s.plot k).seg == seg)).or ((s.gladePlots g).find? (fun k => (s.plot k).seg == seg))

/-- K space of a glade: c × 2 MiB; while a COMMIT has passed step 1 the leaving plots no longer count (R215, R230). -/
def State.kSize (s : State) (g : Nat) : Nat :=
  (if (s.gladeAt g).committing then (s.livePlots g).length else (s.gladePlots g).length) * 2 ^ 21

/-! ## The L2 tags -/

/-- The slices of a set of plots (R214). -/
def slicesOf (plots : List Nat) : List Nat := plots.flatMap (fun k => (List.range 8).map (fun i => 8 * k + i))

/-- The module hash over a list of slices (R214). -/
def moduleSlice (sl : List Nat) (a : Nat) : Nat :=
  let h := bitsOf a 21 6 ^^^ bitsOf a 37 22 ^^^ bitsOf a 53 38 ^^^ bitsOf a 59 54
  sl[h % sl.length]?.getD 0

/-- The plots of the module hash: a shrink's REHASH takes the LEAVING plots out, and UNDO adds them back (R214, R227,
Table 7-8). -/
def State.hashPlots (s : State) (g : Nat) : List Nat :=
  match (s.gladeAt g).st with
  | .check | .evacuate | .undo => s.gladePlots g
  | _ => s.livePlots g

/-- The slice a line belongs in for a glade. -/
def State.sliceFor (s : State) (g a : Nat) : Nat :=
  if ppaKind a == 0 then 8 * hbmPlot a + bitsOf (hbmOff a) 10 8 else moduleSlice (slicesOf (s.hashPlots g)) a

def State.l2Find (s : State) (line : Nat) : Option L2Line := s.l2.find? (fun x => x.line == line)
def State.l2Drop (s : State) (line : Nat) : State := { s with l2 := s.l2.filter (fun x => x.line != line) }
def State.l2Put (s : State) (x : L2Line) : State := { s.l2Drop x.line with l2 := x :: (s.l2Drop x.line).l2 }

/-- The head of this package on a module it reaches directly (R41: port k attaches to head k). -/
def State.myHead (s : State) (m : Nat) : Option Nat :=
  (List.range 9).find? (fun k => (s.port k).state == .up && (s.port k).modid == m)

def State.dirAt (s : State) (m line : Nat) : DirLine := Map.get {} (s.module m).dir line
def State.setDir (s : State) (m line : Nat) (d : DirLine) : State :=
  s.setModule m { s.module m with dir := Map.set {} (s.module m).dir line d }

/-- A head's marks on a line are cleared. -/
def DirLine.clear (d : DirLine) (h : Nat) : DirLine :=
  { d with owner := if d.owner = some h then none else d.owner, dirty := d.dirty && d.owner != some h,
           shared := d.shared && d.owner != some h, sharers := d.sharers.filter (fun x => x != h) }

/-- The first request for a line learns that a head has answered its snoop, and whether it gave dirty data. -/
def noteAnswer (line h : Nat) (dirty : Bool) : List HomeReq → List HomeReq
  | [] => []
  | r :: t =>
    if r.lines.contains line then { r with answered := (line, h) :: r.answered, dirty := r.dirty || dirty } :: t
    else r :: noteAnswer line h dirty t

/-- The snoop that a head has not answered, if any, is over (R48). -/
def State.snoopOver (s : State) (m line h : Nat) (dirty : Bool) : State :=
  let x := s.module m
  if x.snoops.any (fun q => q.line == line && q.head == h) then
    s.setModule m { x with snoops := x.snoops.filter (fun q => !(q.line == line && q.head == h)), reqs := noteAnswer line h dirty x.reqs }
  else s

/-- A line leaves the L2: a write-back or a clean evict at the home of a module line, which meets any snoop of the line
(R47, R48). -/
def State.l2Evict (s : State) (x : L2Line) : State :=
  let a := 64 * x.line
  let s := s.l2Drop x.line
  if ppaKind a == 1 then
    match s.myHead (modIndex a) with
    | none => s
    | some h =>
      let l := lineOf (modOff a)
      (s.setDir (modIndex a) l ((s.dirAt (modIndex a) l).clear h)).snoopOver (modIndex a) l h (3 ≤ x.st)
  else s

/-- A dirty line with an error not yet found is written back poisoned when it is evicted, and charged to its tag's
context (R139); the entry is posted when the step ends. -/
def State.evictLine (s : State) (x : L2Line) : State :=
  if s.latent.contains x.line && x.st ≥ 3 then
    let s := ({ s with latent := s.latent.filter (fun l => l != x.line) }).poisonLines [x.line]
    let s := s.l2Evict x
    { s with host := { s.host with memerrs := s.host.memerrs ++ [(x.ctx, 64 * x.line)] } }
  else s.l2Evict x

/-! ## Read caches -/

/-- The copy of bytes that a core's read cache holds for a context, if it holds their line. -/
def State.cached (s : State) (core ctx a n : Nat) : Option (List Byte) :=
  (s.rcache.find? (fun x => x.core == core && x.ctx == ctx && x.line == lineOf a)).map (fun x => (x.bytes.drop (a % 64)).take n)

/-- A line is filled with its 64 bytes. -/
def State.fillCache (s : State) (core ctx a : Nat) (bs : List Byte) : State :=
  { s with rcache := ⟨core, ctx, lineOf a, bs⟩ :: s.rcache.filter (fun x => !(x.core == core && x.ctx == ctx && x.line == lineOf a)) }

/-- A core's copy of a line goes. -/
def State.dropLine (s : State) (core ctx a : Nat) : State :=
  { s with rcache := s.rcache.filter (fun x => !(x.core == core && x.ctx == ctx && x.line == lineOf a)) }

/-- A store or atomic of the core updates the copies its cache holds (R268). -/
def State.updateCache (s : State) (core a : Nat) (bs : List Byte) : State :=
  { s with rcache := s.rcache.map (fun x =>
      if x.core == core && x.line == lineOf a then
        { x with bytes := x.bytes.take (a % 64) ++ bs ++ x.bytes.drop (a % 64 + bs.length) } else x) }

/-- Invalidate the read cache of a core (R268, R280, R283). -/
def State.dropCache (s : State) (core : Nat) : State := { s with rcache := s.rcache.filter (fun x => x.core != core) }

/-! ## Instruction memory (R320, R322) -/

/-- An overlay is bound: what has been filled of its image is old from now on. -/
def State.unfill (s : State) (ctx image : Nat) : State :=
  { s with imem := s.imem.filter (fun b => !(b.ctx == ctx && b.image == image)) }

/-- Whether a group on a block's core has the block's image bound. -/
def State.imemBound (s : State) (b : ImemBlock) : Bool :=
  s.groups.any (fun g => g.2.place == .core b.core && g.2.ctx == b.ctx && g.2.slots.any (fun x => x.2.any (fun sl => sl.image == b.image)))

/-! ## What goes outside -/

/-- The key of a request whose answer nobody waits for any more. -/
def nobody : Nat := 2 ^ 63

/-- The requests of some askers are forgotten. One to a relay holds its place in the region until its answer has come. -/
def State.forget (s : State) (sel : ExtKind → Bool) : State :=
  { s with pod := { s.pod with ext := s.pod.ext.filterMap (fun e =>
      if sel e.kind then (if e.host then none else some { e with kind := .flush nobody }) else some e) } }

def State.send (s : State) (kind : SentKind) (words : List Nat) (data : List Byte := []) : State :=
  { s with outbox := s.outbox ++ [⟨kind, words, data⟩] }

end Sys2Proof.Machine
end

