-- ==== Sys2Proof/Machine/Xlat.lean ====
section
/-!
DEFINITION. Address translation (04 R108 to R121), the pending-fault table (R131) and routes (02 R55).
-/
namespace Sys2Proof.Machine

/-! ## Contexts (Table 4-3) -/

def State.ctxEntry (s : State) (c : Nat) : Nat := s.xlat.ctxtBase + 64 * c
def State.ctxValid (s : State) (c : Nat) : Bool := bitOf (s.read64 (s.ctxEntry c)) 0
def State.ctxGlade (s : State) (c : Nat) : Nat := (s.readB (s.ctxEntry c + 8)).toNat % 32
def State.ctxFn (s : State) (c : Nat) : Nat := (s.readB (s.ctxEntry c + 9)).toNat
def State.ctxKey (s : State) (c : Nat) : Nat := (s.readB (s.ctxEntry c + 10)).toNat
/-- The PASID for host accesses (R129, R141). -/
def State.ctxPasid (s : State) (c : Nat) : Nat := s.read32 (s.ctxEntry c + 12) % 2 ^ 20
def State.ctxFlag (s : State) (c i : Nat) : Bool := (s.readB (s.ctxEntry c + 11)).getLsbD i

/-! ## The walk (R110 to R112) -/

/-- What a walk ends in. -/
inductive Walk where
  | notPresent
  | malformed
  /-- A leaf: where it lies, log2 of its size, its value. -/
  | leaf (at' log value : Nat)
  deriving DecidableEq, Repr

/-- A table entry that points to a next table: no other bit set, and the table in local HBM (R111, R115). -/
def tableOk (e : Nat) : Bool := bitsOf e 63 57 == 0 && bitsOf e 11 1 == 0 && hbmOk (e / 4096 * 4096)

/-- The levels that remain, each by the lowest VA bit of its index. -/
def State.walkFrom (s : State) (va : Nat) : List Nat → Nat → Walk
  | [], _ => .malformed
  | lo :: t, table =>
    let at' := table + 8 * bitsOf va (lo + 8) lo
    let e := s.read64 at'
    if !bitOf e 0 then .notPresent
    else if bitOf e 1 then (if lo = 39 then .malformed else .leaf at' lo e)
    else if tableOk e then s.walkFrom va t (e / 4096 * 4096) else .malformed

def State.walk (s : State) (ctx va : Nat) : Walk :=
  let root := s.read64 (s.ctxEntry ctx)
  if !bitOf root 0 || bitsOf root 63 60 != 0 || bitsOf root 11 1 != 0 || !hbmOk (root / 4096 * 4096) then .malformed
  else s.walkFrom va [39, 30, 21, 12] (root / 4096 * 4096)

/-! ## Leaf fields (Table 4-4) -/

def leafSv (e : Nat) : Nat := bitsOf e 63 62
def leafPark (e : Nat) : Nat := bitsOf e 61 60
def leafTier (e : Nat) : Nat := bitsOf e 59 57
def leafOrd (e : Nat) : Nat := bitsOf e 4 3
def leafW (e : Nat) : Bool := bitOf e 2
def leafHa (e : Nat) : Bool := bitOf e 5
def leafSbid (e : Nat) : Nat := bitsOf e 43 32
def leafPidx (e : Nat) : Nat := bitsOf e 31 12
/-- The PPA of the page. -/
def leafPpa (e : Nat) : Nat := e % 2 ^ 60 / 4096 * 4096

/-- R115, R121: the leaf itself is malformed. -/
def leafBad (e log : Nat) : Bool :=
  leafSv e == 3 || leafPark e == 3 || leafOrd e == 3 || 5 ≤ leafTier e ||
    (if leafSv e = 0 then leafPpa e % 2 ^ log != 0
     else leafTier e != 0 || bitsOf e 56 44 != 0 || (leafSv e == 1 && leafW e))

def pageOrd (n : Nat) : PageOrd := if n = 0 then .so else if n = 1 then .rc else .uo

/-! ## TLBs (R116, R117) -/

/-- The cached leaves that cover an address. -/
def State.tlbHits (s : State) (ctx va : Nat) : List TlbEntry :=
  s.xlat.tlb.filter (fun t => !t.dying && t.ctx == ctx && t.base ≤ va && va < t.base + 2 ^ t.log)

/-- A 64-bit atomic write of a unit, which a poisoned line does not take (R138). -/
def State.atomic64 (s : State) (a v : Nat) : State := if s.poisoned a 8 then s else s.store64 a v

/-- A walk that reaches a well-formed leaf sets A and fills a TLB entry (R116). -/
def State.fillTlb (s : State) (ctx va at' log e : Nat) : State :=
  let e' := e ||| 0x100
  let s := if e' = e then s else s.atomic64 at' e'
  let x := s.xlat
  { s with xlat := { x with tlb := ⟨x.nextTlb, ctx, va / 2 ^ log * 2 ^ log, log, BitVec.ofNat 64 e', false⟩ :: x.tlb,
                            nextTlb := x.nextTlb + 1 } }

/-- What a translation found: the leaf with the number of its TLB entry. -/
inductive Found where
  | notPresent
  | malformed
  | leaf (value log tlb : Nat)
  deriving DecidableEq, Repr

/-- Look an address up: a TLB may hold a leaf, or the tables are walked (R117: which of them is not stated). -/
def State.findLeaf (s : State) (ctx va : Nat) : Found × State :=
  let hits := s.tlbHits ctx va
  let (k, s) := s.pick (hits.length + 1)
  match hits[k]? with
  | some t => (.leaf t.leaf.toNat t.log t.id, s)
  | none =>
    match s.walk ctx va with
    | .notPresent => (.notPresent, s)
    | .malformed => (.malformed, s)
    | .leaf at' log e =>
      if leafBad e log then (.malformed, s)
      else
        let id := s.xlat.nextTlb
        (.leaf e log id, s.fillTlb ctx va at' log e)

/-! ## Shadow buffers (R120, R121, R513) -/

def State.sbt (s : State) (sbid : Nat) : Nat := s.xlat.sbtBase + 32 * sbid
def State.sbValid (s : State) (sbid : Nat) : Bool := (s.readB (s.sbt sbid + 20)).getLsbD 0
def State.sbPages (s : State) (sbid : Nat) : Nat := s.read32 (s.sbt sbid + 16)
def State.version (s : State) (sbid : Nat) : Bool := Map.get false s.xlat.version sbid
def State.remapOf (s : State) (sbid side page : Nat) : Option Remap :=
  s.xlat.remap.find? (fun r => r.sbid == sbid && r.side == side && r.page == page)

/-- The backing side a view reads now. -/
def State.sideOf (s : State) (back : Bool) (sbid : Nat) : Nat := if s.version sbid != back then 1 else 0

/-- The PPA of a byte of a shadow page, and whether its remap entry is parked; none when the buffer or the page index
is invalid. -/
def State.shadowPpa (s : State) (back : Bool) (sbid page off : Nat) : Option (Nat × Bool) :=
  if !s.sbValid sbid || s.sbPages sbid ≤ page then none
  else
    let side := s.sideOf back sbid
    match s.remapOf sbid side page with
    | some r => some (r.ppa + off, r.park)
    | none => some (s.read64 (s.sbt sbid + 8 * side) % 2 ^ 60 / 4096 * 4096 + page * 4096 + off, false)

/-! ## Routes (R55) -/

inductive Route where
  | lost
  | direct (port : Nat)
  | trail (port relay : Nat)
  deriving DecidableEq, Repr

/-- The effect of a route entry (Table 2-12); no pod traffic passes before PODCFG.EN (R38, R39). -/
def State.routeOf (s : State) (e : Nat) : Route :=
  let p := bitsOf e 27 24
  if !bitOf e 31 || 9 ≤ p || (s.port p).state != .up || !s.pod.en then .lost
  else if bitOf e 30 then .trail p (bitsOf e 22 16) else .direct p

def State.modRoute (s : State) (m : Nat) : Route := s.routeOf (Map.get 0 s.pod.modRoute m)
def State.pkgRoute (s : State) (b : Nat) : Route := s.routeOf (Map.get 0 s.pod.pkgRoute b)

/-- n = q² + q + 1 (R41). -/
def State.podSize (s : State) : Nat := s.pod.order * s.pod.order + s.pod.order + 1

/-- Whether a context's key identifier is sealed on a module (R70). -/
def State.sealedKey (s : State) (ctx m : Nat) : Bool :=
  s.ctxKey ctx != 0 && !(s.module m).enrolled.contains (s.ctxKey ctx)

/-! ## Translation (R108, R115, R131, R418) -/

/-- The kind of access a fault-queue entry names (Table 4-9). -/
inductive AccKind where
  | read | write | atomic | engRead | engWrite
  deriving DecidableEq, Repr

def AccKind.code : AccKind → Nat
  | .read => 0
  | .write => 1
  | .atomic => 2
  | .engRead => 3
  | .engWrite => 4

def AccKind.writes : AccKind → Bool
  | .read => false
  | .engRead => false
  | .write => true
  | .atomic => true
  | .engWrite => true

/-- The result of translating one part of an access. -/
inductive XRes where
  | ok (place : Place) (ord : PageOrd) (ha : Bool) (tlb : Nat)
  | misaligned
  | malformed
  | permission
  | park (code ppa : Nat)
  deriving DecidableEq, Repr

/-- R108, R51, R71: whether the context may reach a physical target. `queue`: a queue operation. -/
def State.mayReach (s : State) (ctx a : Nat) (noSeal : Bool) : Bool :=
  let g := s.ctxGlade ctx
  let owns (k : Nat) := (s.plot k).ownedBy g && !((s.plot k).st == .leaving && (s.gladeAt g).committing)
  let k := ppaKind a
  if k = 0 then owns (hbmPlot a)
  else if k = 3 then owns (canopyPlot a)
  else if k = 4 then s.ctxFlag ctx 0
  else if k = 1 then controlArea ≤ modOff a && !(noSeal && s.sealedKey ctx (modIndex a))
  else true

/-- A target that makes the translation malformed (R108, R115). -/
def State.targetBad (s : State) (a : Nat) : Bool :=
  ppaBad a || (ppaKind a == 1 && s.pod.en && s.podSize ≤ modIndex a)

/-- TIER_LOST (R55) and HOST_ATOMIC_UR (R129) of a physical target. -/
def State.tierFault (s : State) (a : Nat) (ha : Bool) (k : AccKind) : Option Nat :=
  if ppaKind a = 1 && s.modRoute (modIndex a) == .lost then some 0x22
  else if ppaKind a = 2 && k == .atomic && !ha then some 0x24 else none

/-- Translate one part in a context: `bytes` is the size of the whole access (R129), `noSeal` marks an atomic or queue
operation (R71). -/
def State.translate (s : State) (ctx va : Nat) (k : AccKind) (bytes : Nat) (noSeal : Bool) : XRes × State :=
  if !s.ctxValid ctx || 2 ^ 48 ≤ va then (.malformed, s)
  else
    match s.findLeaf ctx va with
    | (.notPresent, s) => (.park 0x20 0, s)
    | (.malformed, s) => (.malformed, s)
    | (.leaf e log tlb, s) =>
      if leafSv e = 0 then
        let a := leafPpa e + va % 2 ^ log
        if k == .atomic && ppaKind a == 2 && bytes < 4 then (.misaligned, s)
        else if s.targetBad a then (.malformed, s)
        else if !s.mayReach ctx a noSeal then (.permission, s)
        else if leafPark e = 2 then (.park 0x23 a, s)
        else if leafPark e = 1 && k.writes then (.park 0x25 0, s)
        else if !leafW e && k.writes then (.park 0x21 0, s)
        else match s.tierFault a (leafHa e) k with
          | some c => (.park c a, s)
          | none => (.ok (if ppaKind a = 4 then .mmio (a % 2 ^ 32) else .phys a) (pageOrd (leafOrd e)) (leafHa e) (tlb + 1), s)
      else
        let back := leafSv e == 2
        let page := leafPidx e + (if log ≤ 12 then 0 else bitsOf va (log - 1) 12)
        match s.shadowPpa back (leafSbid e) page (va % 4096) with
        | none => (.malformed, s)
        | some (a, parked) =>
          if s.targetBad a || ppaKind a = 2 || ppaKind a = 4 then (.malformed, s)
          else if !s.mayReach ctx a noSeal then (.permission, s)
          else if leafPark e = 2 then (.park 0x23 a, s)
          else if (leafPark e = 1 || parked) && k.writes then (.park 0x25 0, s)
          else if !leafW e && k.writes then (.park 0x21 0, s)
          else match s.tierFault a (leafHa e) k with
            | some c => (.park c a, s)
            | none => (.ok (.shadow back (leafSbid e) page (va % 4096)) (pageOrd (leafOrd e)) false (tlb + 1), s)

/-! ## The pending-fault table (R131, R502) -/

/-- The lowest tag that no live entry has. -/
def freeTag (used : List Nat) (n : Nat) : Option Nat := (List.range n).find? (fun t => !used.contains t)

/-- Park an access: join the live entry of its key, or take the lowest free tag; none when the table is full. The
agents are those of Table 4-9. -/
def State.park (s : State) (ctx va code ppa : Nat) (k : AccKind) (agent : Nat) : Option Nat × State :=
  let x := s.xlat
  match x.pend.find? (fun p => p.ctx == ctx && p.vpn == va / 4096 && p.code == code) with
  | some p => (some p.tag, s)
  | none =>
    match freeTag (x.pend.map (fun p => p.tag)) 1024 with
    | none => (none, s)
    | some t =>
      let e : Pend := { tag := t, ctx := ctx, vpn := va / 4096, code := code, va := va, ppa := ppa, access := k.code,
                        agent := agent, glade := s.ctxGlade ctx, order := x.nextPend }
      (some t, { s with xlat := { x with pend := x.pend ++ [e], nextPend := x.nextPend + 1 } })

/-- A replayable fault of a part: parked with a tag, or waiting for a free entry. -/
def parkState (t : Option Nat) (code : Nat) : PartState :=
  match t with
  | some t => .parked t
  | none => .queued code

/-- The order kind of the page of an address, as the tables stand; RC for one that is not present. -/
def State.ordAt (s : State) (ctx va : Nat) : PageOrd :=
  match s.walk ctx va with
  | .leaf _ _ e => pageOrd (leafOrd e)
  | _ => .rc

/-! ## Places -/

/-- The physical address of a place outside the cores. -/
def State.placePpa (s : State) (p : Place) : Option Nat :=
  match p with
  | .phys a => some a
  | .shadow back sbid page off => (s.shadowPpa back sbid page off).map (fun r => r.1)
  | .kspace g off => (s.segPlot g (off / 2 ^ 21)).map (fun k => canopyPpa k (off % 2 ^ 21))
  | .scratch _ _ => none
  | .lanePriv _ _ => none
  | .mmio _ => none

end Sys2Proof.Machine
end

