-- ==== Sys2Proof/Machine/Link.lean ====
section
/-!
DEFINITION. The pod as this package's links see it: its geometry (02 R41, R42), link keys and flit counters (R66 to R68),
relay regions and descriptors (R57, R58).
-/
namespace Sys2Proof.Machine

/-! ## Geometry -/

/-- D of Table 2-5. -/
def podSet (q : Nat) : List Nat :=
  if q = 2 then [0, 1, 3] else if q = 3 then [0, 1, 3, 9] else if q = 4 then [0, 1, 4, 14, 16]
  else if q = 5 then [0, 1, 3, 8, 12, 18] else if q = 7 then [0, 1, 3, 13, 32, 36, 43, 52]
  else if q = 8 then [0, 1, 3, 7, 15, 31, 36, 54, 63] else []

/-- The place of a value in a list. -/
def indexIn (x : Nat) : List Nat → Option Nat
  | [] => none
  | y :: t => if x = y then some 0 else (indexIn x t).map (fun i => i + 1)

/-- line(m), head by head, and head(m,p). -/
def State.lineOfMod (s : State) (m : Nat) : List Nat := (podSet s.pod.order).map (fun d => (m + d) % s.podSize)
def State.headOf (s : State) (m p : Nat) : Option Nat := indexIn p (s.lineOfMod m)

/-- The module that port k of package p attaches to. -/
def State.modOfPort (s : State) (p k : Nat) : Nat := (p + s.podSize - ((podSet s.pod.order)[k]?).getD 0) % s.podSize

/-- shared(a,b): the one module whose line holds both. -/
def State.sharedMod (s : State) (a b : Nat) : Nat :=
  ((List.range s.podSize).find? (fun m => (s.headOf m a).isSome && (s.headOf m b).isSome)).getD 0

/-! ## Link keys (R66 to R68) -/

def State.keyOf (s : State) (port kid : Nat) (out : Bool) : Option LinkKey :=
  s.pod.keys.find? (fun k => k.port == port && k.kid == kid && k.out == out)

def State.putKey (s : State) (x : LinkKey) : State :=
  let rest := s.pod.keys.filter (fun k => !(k.port == x.port && k.kid == x.kid && k.out == x.out))
  { s with pod := { s.pod with keys := rest ++ [x] } }

def LinkKey.bank (x : LinkKey) (g : Bool) : Option Bank := if g then x.b1 else x.b0
def LinkKey.setBank (x : LinkKey) (g : Bool) (b : Option Bank) : LinkKey := if g then { x with b1 := b } else { x with b0 := b }

/-- Count n flits under a bank. -/
def LinkKey.count (x : LinkKey) (g : Bool) (n : Nat) : LinkKey :=
  x.setBank g ((x.bank g).map (fun b => { b with counter := b.counter + n }))

/-- A message of some bytes leaves on a port: its flits of 232 bytes (Table 2-8) are counted under the bank that G selects.
How messages share flits is internal to the link (R43): here each has its own (DESIGN CHOICE, log 72). -/
def State.flits (s : State) (port kid bytes : Nat) : State :=
  match s.keyOf port kid true with
  | some x => s.putKey (x.count x.gen (max 1 ((bytes + 231) / 232)))
  | none => s

/-- The key identifier under which a context's traffic with a module goes: its own where it is enrolled, else 0 (R66, R70). -/
def State.linkKid (s : State) (ctx m : Nat) : Nat := if s.sealedKey ctx m then 0 else s.ctxKey ctx

/-- R72: after a loss during a rekey no tenant flit is sent before fresh keys are there. -/
def State.linkOk (s : State) (port ctx m : Nat) : Bool :=
  !(s.port port).keyless || s.ctxKey ctx == 0 || (s.keyOf port (s.linkKid ctx m) true).isSome

/-! ## Relay regions (R57, Table 2-10) -/

def relayRegion (i j : Nat) : Nat := 0x400000 * (16 * i + j)
def reqRing : Nat := 0x3FFF80
def respRing : Nat := 0x3FFFC0
def payloadBase : Nat := 0x20000

end Sys2Proof.Machine

namespace Sys2Proof
open Machine

/-- How many bytes of data a request of a kind carries. -/
def RelayDesc.carries (d : RelayDesc) : Nat :=
  if d.kind = 2 || (d.kind = 3 && d.size = 6) then 0 else if d.kind = 3 && d.size < 5 then 2 * 2 ^ d.size else d.len

/-- How many bytes of data its response carries. -/
def RelayDesc.returns (d : RelayDesc) : Nat :=
  if d.kind = 2 || (d.kind = 3 && d.size = 6) then d.len else if d.kind = 3 && d.size < 5 then 2 ^ d.size else 0

/-- The payload span that a request needs: its data and its response's, if longer than OPERANDS; whole lines. -/
def RelayDesc.spanLen (d : RelayDesc) : Nat :=
  let n := max d.carries d.returns
  if n ≤ 16 then 0 else (n + 63) / 64 * 64

/-- The 64 bytes of a descriptor (Table 2-13); `resp`: of its response. -/
def RelayDesc.encode (d : RelayDesc) (resp : Bool) : List Byte :=
  bytesOf 1 (d.kind + if resp then 0x80 else 0) ++ bytesOf 1 d.src ++ bytesOf 1 d.dst
    ++ bytesOf 1 ((if d.sealBit then 1 else 0) + (if d.last then 2 else 0) + (if d.contrib then 4 else 0)) ++ bytesOf 1 d.key
    ++ bytesOf 1 (if d.kind = 3 then 16 * d.size + d.aop else 0) ++ bytesOf 2 0 ++ bytesOf 4 d.len ++ bytesOf 4 d.seq
    ++ bytesOf 8 d.target ++ bytesOf 8 d.payload
    ++ (if d.data.length ≤ 16 then d.data ++ List.replicate (16 - d.data.length) 0 else List.replicate 16 0)
    ++ bytesOf 8 d.ident ++ (if resp then bytesOf 4 d.status ++ bytesOf 1 d.queueRes ++ bytesOf 3 0 else bytesOf 8 d.cksum)

/-- The fields of the descriptor that 64 bytes hold. R58: a reserved KIND, a nonzero reserved field, or a length beyond the
payload buffer makes it malformed; so does a length outside 1 to 65,536 (DESIGN CHOICE, log 73). -/
def RelayDesc.parse (b : List Byte) (m head : Nat) : RelayDesc :=
  let k := fieldOf b 0 1
  let f := fieldOf b 3 1
  let d : RelayDesc :=
    { kind := k % 0x80, src := fieldOf b 1 1, dst := fieldOf b 2 1, sealBit := bitOf f 0, last := bitOf f 1, contrib := bitOf f 2,
      key := fieldOf b 4 1, size := fieldOf b 5 1 / 16, aop := fieldOf b 5 1 % 16, len := fieldOf b 8 4, seq := fieldOf b 12 4,
      target := fieldOf b 16 8, payload := fieldOf b 24 8, ident := fieldOf b 48 8, cksum := fieldOf b 56 8,
      status := fieldOf b 56 4, queueRes := fieldOf b 60 1, via := m, head := head }
  { d with malformed := d.kind = 0 || 5 ≤ d.kind || 8 ≤ f || (d.contrib && d.kind != 1) || fieldOf b 6 2 != 0
      || (d.kind = 3 && (7 ≤ d.size || (5 ≤ d.size && d.aop != 0) || (d.size < 5 && 13 ≤ d.aop)))
      || (d.kind != 3 && fieldOf b 5 1 != 0) || (d.kind != 4 && 2 ^ 50 ≤ d.target)
      || d.len = 0 || 65536 < d.len
      || (16 < max d.carries d.returns && (d.payload < payloadBase || reqRing < d.payload + max d.carries d.returns)) }

end Sys2Proof

namespace Sys2Proof.Machine

/-- A free span of a payload buffer, first fit, beside the spans in use as (start, length). -/
def freeSpan (used : List (Nat × Nat)) (n : Nat) : Option Nat :=
  let starts := payloadBase :: used.map (fun x => x.1 + x.2)
  starts.find? (fun a => a + n ≤ reqRing && used.all (fun x => a + n ≤ x.1 || x.1 + x.2 ≤ a))

end Sys2Proof.Machine
end

