-- ==== Sys2Proof/Machine/Lines.lean ====
section
/-!
DEFINITION. Lines: the slices of the L2 (04 R107; 07 R214, R227), sealed lines of module memory (02 R70, R71), and the one
read and the one write of physical memory that every agent uses.
-/
namespace Sys2Proof.Machine

/-! ## The L2 -/

/-- A line enters a slice; which line of the slice it displaces, if any, is not stated. -/
def State.l2Insert (s : State) (x : L2Line) : State :=
  let victims := s.l2.filter (fun y => y.slice == x.slice && y.line != x.line && (ppaKind (64 * y.line) == 1 || s.latent.contains y.line))
  let (k, s) := s.pick (victims.length + 1)
  let s := match victims[k]? with
    | some v => s.evictLine v
    | none => s
  s.l2Put x

/-- An access to a line that the L2 holds moves the line to its present slice (R227). -/
def State.l2Hit (s : State) (x : L2Line) (slice st : Nat) : State :=
  if x.slice = slice then s.l2Put { x with st := st } else s.l2Insert { x with slice := slice, st := st }

/-- An access to a line of local HBM through the L2 (R107, R214): the line is held under the accessor's context; another
context's line is dropped first. -/
def State.l2Touch (s : State) (ctx a : Nat) (write alloc : Bool) : State :=
  let line := lineOf a
  let sl := s.sliceFor (s.ctxGlade ctx) a
  match s.l2Find line with
  | some x =>
    if x.ctx = ctx then s.l2Hit x sl (if write then 4 else x.st)
    else (s.evictLine x).l2Insert ⟨sl, line, ctx, if write then 4 else 2⟩
  | none => if alloc then s.l2Insert ⟨sl, line, ctx, if write then 4 else 2⟩ else s

/-! ## Sealed lines (R70, R71) -/

def xorBytes (a b : List Byte) : List Byte := List.zipWith (fun x y => x ^^^ y) a b

/-- The seal of a line; no IV for a line that is not sealed. -/
def State.sealOf (s : State) (pl : Nat) : Seal := Map.get {} s.pod.sealed pl
def State.setSeal (s : State) (pl : Nat) (q : Seal) : State := { s with pod := { s.pod with sealed := Map.set {} s.pod.sealed pl q } }

/-- Whether the tag of a sealed line holds under a tenant's key identifier. -/
def sealOpens (q : Seal) (kid : Nat) (cipher : List Byte) : Bool :=
  kid != 0 && q.kid.all (fun k => k == kid) && Config.sealTag kid q.iv cipher == q.tag

/-- 64 bytes encrypted under a key and an IV, with their seal. -/
def sealBytes (kid : Nat) (iv : List Nat) (bs : List Byte) : List Byte × Seal :=
  let c := xorBytes bs (Config.keystream kid iv)
  (c, { iv := iv, tag := Config.sealTag kid iv c, kid := some kid })

/-- 64 bytes with their seal, as a package with a key reads them: the plain bytes, and whether the tag fails. -/
def openBytes (kid : Nat) (c : List Byte) (q : Seal) : List Byte × Bool :=
  if q.iv = [] then (c, false)
  else if sealOpens q kid c then (xorBytes c (Config.keystream kid q.iv), false) else (c, true)

/-- One line of a module as a package with a key reads it. -/
def State.openLine (s : State) (kid pl : Nat) : List Byte × Bool := openBytes kid (s.readN (64 * pl) 64) (s.sealOf pl)

/-- A range cut at line boundaries: address and length of each piece. -/
def linePieces (a n : Nat) : List (Nat × Nat) :=
  (linesOf a n).map (fun l => (max a (64 * l), min (a + n) (64 * l + 64) - max a (64 * l)))

/-- Whether some line of a range is sealed. -/
def State.sealsIn (s : State) (a n : Nat) : Bool :=
  !s.pod.sealed.isEmpty && (linesOf a n).any (fun l => (s.sealOf l).iv != [])

/-- Read physical memory for a context: the bytes, and whether they are poisoned or their seal fails (R71, R138). -/
def State.readPhys (s : State) (ctx a n : Nat) : List Byte × Bool :=
  if s.sealsIn a n then
    let ls := (linePieces a n).map (fun p => (p, s.openLine (s.ctxKey ctx) (lineOf p.1)))
    (ls.flatMap (fun x => (x.2.1.drop (x.1.1 % 64)).take x.1.2), s.poisoned a n || ls.any (fun x => x.2.2))
  else (s.readN a n, s.poisoned a n)

/-- The IV of the next write of a line: module, line, and a write version (R70). -/
def State.nextIv (s : State) (pl : Nat) : List Nat :=
  let v := match (s.sealOf pl).iv with
    | [0, _, _, v] => (v + 1) % 2 ^ 32
    | _ => 0
  [0, modIndex (64 * pl), lineOf (modOff (64 * pl)), v]

/-- Write bytes inside one line. A sealed context seals the line; a partial write of a line that the context
cannot open leaves it as it is, and it is poisoned (R71, R138). -/
def State.writeLine (s : State) (ctx a : Nat) (bs : List Byte) : State :=
  let pl := lineOf a
  let sealed : Bool := ppaKind a == 1 && s.sealedKey ctx (modIndex a)
  let (old, bad) := s.openLine (s.ctxKey ctx) pl
  let new := old.take (a % 64) ++ bs ++ old.drop (a % 64 + bs.length)
  let (c, q) := if sealed then sealBytes (s.ctxKey ctx) (s.nextIv pl) new else (new, {})
  if 64 ≤ bs.length then (s.poke (64 * pl) c).setSeal pl q
  else if bad then s.poisonLines [pl]
  else ({ s with mem := Map.setMany 0 s.mem (64 * pl) c } : State).setSeal pl q

/-- Write physical memory for a context. -/
def State.writePhys (s : State) (ctx a : Nat) (bs : List Byte) : State :=
  if (ppaKind a == 1 && s.sealedKey ctx (modIndex a)) || s.sealsIn a bs.length then
    (pagesOf a bs.length).foldl State.markDirty
      ((linePieces a bs.length).foldl (fun s p => s.writeLine ctx p.1 ((bs.drop (p.1 - a)).take p.2)) s)
  else s.store a bs

end Sys2Proof.Machine
end

