-- ==== Sys2Proof/Machine/Home.lean ====
section
/-!
DEFINITION. Performing one part of an access at its home (09 R269, R285; 02 R46 to R50): atomics (14 Table 14-3), the
directories of modules, reads, writes, and requests that go to a relay or to the host.
-/
namespace Sys2Proof.Machine

/-! ## Atomic operations (Table 14-3, R49, R423) -/

/-- Each half of a word through a 16-bit float addition. -/
def addHalves (f : Fmt) (a b : Nat) : Nat :=
  (f.add FpMode.plain (a % 65536) (b % 65536)).1 + 65536 * (f.add FpMode.plain (a / 65536 % 65536) (b / 65536 % 65536)).1

/-- The new value of n bytes. Codes 13 to 18 are the model's own, for the MIN and MAX of float elements that a REDUCE
asks of a home (R440): FP32, BF16, FP16, each MIN then MAX. -/
def atomicNew (aop n old x cmp : Nat) : Nat :=
  let b := 8 * n
  let m := 2 ^ b
  let lt (p q : Nat) : Bool := sextInt b p < sextInt b q
  let x := x % m
  if aop = 0 then (old + x) % m else if aop = 1 then (if lt x old then x else old) else if aop = 2 then min old x
  else if aop = 3 then (if lt old x then x else old) else if aop = 4 then max old x else if aop = 5 then old &&& x
  else if aop = 6 then old ||| x else if aop = 7 then old ^^^ x else if aop = 8 then x
  else if aop = 9 then (if old = cmp % m then x else old)
  else if aop = 10 then (Fmt.f32.add FpMode.plain old x).1 else if aop = 11 then addHalves .bf16 old x
  else if aop = 12 then addHalves .f16 old x
  else
    let f := if aop < 15 then Fmt.f32 else if aop < 17 then .bf16 else .f16
    (f.minMax FpMode.plain (aop % 2 == 0) old x).1

/-- One part of an operation, wherever it stands. -/
def Op.partAt (o : Op) (i : Nat) : Option Part :=
  match o.body with
  | .cpa b => (b.lanes[i]?).map (fun l => l.src)
  | .waitmem b => some b.part
  | _ => o.parts[i]?

def Op.setPart (o : Op) (i : Nat) (p : Part) : Op :=
  match o.body with
  | .cpa b => { o with body := .cpa { b with lanes := (List.range b.lanes.length).zip b.lanes |>.map (fun x =>
      if x.1 = i then { x.2 with src := p } else x.2) } }
  | .waitmem b => { o with body := .waitmem { b with part := p } }
  | _ => { o with parts := (List.range o.parts.length).zip o.parts |>.map (fun x => if x.1 = i then p else x.2) }

/-! ## Directories (R46, R47) -/

/-- What a request asks of the home of a line: read shared, read own, a relayed read (R50), or every copy given up, for an
atomic, a queue operation or a relayed write (R49, R50). -/
inductive HomeWant where
  | shared | own | relayRead | clear
  deriving DecidableEq, Repr

/-- The heads that hold a line, but one. -/
def DirLine.holders (d : DirLine) (h : Nat) : List Nat :=
  let o := d.owner.toList.filter (fun k => k != h)
  o ++ d.sharers.filter (fun k => k != h && !o.contains k)

/-- The snoops that a request of head h needs (Table 2-9); 16 is no head. -/
def DirLine.targets (d : DirLine) (h : Nat) (w : HomeWant) : List (Nat × Snoop) :=
  match w with
  | .shared =>
    if d.sharers.contains h then []
    else (d.owner.toList.filter (fun k => k != h)).map (fun k => (k, if d.shared then .cur else .data))
  | .own => (d.holders h).map (fun k => (k, .inv))
  | .relayRead => d.owner.toList.map (fun k => (k, .cur))
  | .clear => (d.holders h).map (fun k => (k, .inv))

/-- The directory after a head's answer: 0 not held, 1 held clean, 2 dirty. An owner that answers BISnpCur with dirty data
stays the owner, in O (DESIGN CHOICE for an owner in M, log 74). -/
def DirLine.answered (d : DirLine) (h : Nat) (k : Snoop) (ans : Nat) : DirLine :=
  if ans = 0 || k == .inv then d.clear h
  else if ans = 2 then { d with dirty := true, shared := true }
  else match k with
    | .data => if d.owner = some h then { owner := none, sharers := insertNat h d.sharers } else d
    | _ => d

/-- The directory once a request of head h may act. -/
def DirLine.grant (d : DirLine) (h : Nat) (w : HomeWant) (dirty : Bool) : DirLine :=
  match w with
  | .shared =>
    if d.owner = some h || d.sharers.contains h then d
    else if d.owner.isNone && d.sharers.isEmpty then { owner := some h }
    else { d with sharers := insertNat h d.sharers }
  | .own => { owner := some h, dirty := dirty }
  | .relayRead => d
  | .clear => {}

/-- Whether the requester of a registration still asks. -/
def State.asks (s : State) (w : ReqWho) : Bool :=
  match w with
  | .event _ _ => true
  | .relay d => s.pod.heldBack.contains d
  | .own (.part id i) =>
    s.ops.any (fun o => o.id == id && (o.partAt i).any (fun p => p.state == .waiting) &&
      (match o.owner with
       | .warp g _ => (s.groupAt g).place != .saved
       | .node _ => true))
  | .own (.elem id _) => s.ops.any (fun o => o.id == id)
  | .own (.queue id) => s.ops.any (fun o => o.id == id)
  | .own (.fetch who a) => s.pod.fetches.any (fun f => f.who == who && f.addr == a)
  | .own (.window id _) => s.host.windows.any (fun x => x.id == id)
  | .own (.hart h) => !(Map.get {} s.host.harts h).busy.isEmpty
  | .own (.log fn) => s.host.logs.any (fun l => l.1 == fn)
  | .own _ => false

/-- The first of some requests leaves the queue. -/
def dropReq (who : ReqWho) : List HomeReq → List HomeReq
  | [] => []
  | r :: t => if r.who = who then t else r :: dropReq who t

/-- Ask the homes of some lines of a module (R46): a request waits for those received before it, and for the answers to its
snoops. When it may act: whether dirty data was forwarded. -/
def State.homeTry (s : State) (m : Nat) (who : ReqWho) (h : Nat) (lines : List Nat) (w : HomeWant) : Option Bool × State :=
  let x := s.module m
  let reqs := x.reqs.filter (fun r => r.who == who || s.asks r.who)
  let meets (r : HomeReq) : Bool := r.lines.any (fun l => lines.contains l)
  let mine := reqs.find? (fun r => r.who == who)
  let ahead := (reqs.takeWhile (fun r => r.who != who)).filter meets
  let answered := (mine.map (fun r => r.answered)).getD []
  let due := lines.flatMap (fun l => (((s.dirAt m l).targets h w).filter (fun t => !answered.contains (l, t.1))).map (fun t => (l, t)))
  if ahead.isEmpty && due.isEmpty then
    let dirty := (mine.map (fun r => r.dirty)).getD false
    let s := if mine.isNone then s else s.setModule m { x with reqs := dropReq who reqs }
    (some dirty, lines.foldl (fun s l => s.setDir m l ((s.dirAt m l).grant h w dirty)) s)
  else
    let y := if mine.isSome then { x with reqs := reqs }
      else { x with reqs := reqs ++ [{ id := x.nextReq, who := who, lines := lines }], nextReq := x.nextReq + 1 }
    let new := if ahead.isEmpty then due.filter (fun t => !y.snoops.any (fun q => q.line == t.1 && q.head == t.2.1)) else []
    let s := s.setModule m { y with snoops := y.snoops ++ new.map (fun t => ⟨t.1, t.2.1, t.2.2⟩) }
    (none, new.foldl (fun s t =>
      if s.myHead m = some t.2.1 then s
      else s.send .snoop [m, t.1, t.2.1, match t.2.2 with
        | .cur => 0
        | .data => 1
        | .inv => 2]) s)

/-- A head answers a snoop (R47, R48): 0 not held, 1 held clean, 2 dirty, with its data; 3 write-back in flight, which comes as
the snoop's data. -/
def State.snoopAnswered (s : State) (m line h ans : Nat) : State :=
  match (s.module m).snoops.find? (fun q => q.line == line && q.head == h) with
  | none => s
  | some q =>
    if 3 ≤ ans then s
    else (s.setDir m line ((s.dirAt m line).answered h q.kind ans)).snoopOver m line h (ans == 2)

/-! ## One part -/

inductive PKind where
  | read
  | write (bs : List Byte)
  | atomic (aop x cmp : Nat)
  deriving DecidableEq, Repr

def PKind.writes : PKind → Bool
  | .read => false
  | _ => true

def PKind.isAtomic : PKind → Bool
  | .atomic _ _ _ => true
  | _ => false

/-- What is asked: context, place, bytes; who waits for an answer; the page's order kind (R168); whether a miss allocates in
the L2; the warp key that host pages written are noted under (R168). -/
structure PReq where
  ctx : Nat
  place : Place
  len : Nat
  kind : PKind
  ext : ExtKind
  ord : PageOrd := .rc
  alloc : Bool := true
  wkey : Nat := 0
  /-- The TLB entry it was translated through, plus 1. -/
  tlb : Nat := 0
  deriving DecidableEq, Repr

inductive PRes where
  /-- Performed: the bytes read (the old bytes of an atomic), and whether they are poisoned. -/
  | done (data : List Byte) (bad : Bool)
  | sent (id : Nat)
  | park (code ppa : Nat)
  | failed
  /-- The context may not reach the target any more (R108). -/
  | denied
  /-- Not possible yet. -/
  | blocked
  | mmio (off : Nat)
  deriving DecidableEq, Repr

/-- Bytes of the memories of a core. -/
def State.localBytes (s : State) (p : Place) (n : Nat) : List Byte :=
  match p with
  | .scratch g off => Map.getMany 0 (s.groupAt g).cmem off n
  | .lanePriv g key => Map.getMany 0 (s.groupAt g).lmem key n
  | _ => []

/-- A write to the memory of a group that is gone is lost. -/
def State.putLocal (s : State) (p : Place) (bs : List Byte) : State :=
  match p with
  | .scratch g off =>
    if (s.groupAt g).place == .none then s else s.putGroup g { s.groupAt g with cmem := Map.setMany 0 (s.groupAt g).cmem off bs }
  | .lanePriv g key =>
    if (s.groupAt g).place == .none then s else s.putGroup g { s.groupAt g with lmem := Map.setMany 0 (s.groupAt g).lmem key bs }
  | _ => s

/-- The bytes an atomic stores. -/
def PKind.result (k : PKind) (n : Nat) (old : List Byte) : List Byte :=
  match k with
  | .read => old
  | .write bs => bs
  | .atomic aop x cmp => bytesOf n (atomicNew aop n (ofBytes old) x cmp)

/-- A new request to the outside. -/
def State.newExt (s : State) (e : Ext) : Nat × State :=
  let id := s.pod.nextExt
  (id, { s with pod := { s.pod with ext := s.pod.ext ++ [{ e with id := id }], nextExt := id + 1 } })

/-! ## Host pages (R129, R141, R168) -/

/-- The PASID that a request carries: the issuing context's; 2^20 for none, which harts use (Table 5-10). -/
def State.pasidOf (s : State) (ctx : Nat) (e : ExtKind) : Nat :=
  match e with
  | .hart _ => 2 ^ 20
  | _ => s.ctxPasid ctx

/-- The attributes of Table 5-9: RO in bit 0, IDO in bit 1. -/
def hostAttr (o : PageOrd) (k : PKind) : Nat :=
  match o, k with
  | .so, _ => 0
  | .uo, .atomic _ _ _ => 1
  | .rc, .atomic _ _ _ => 0
  | _, .write _ => 3
  | _, .read => 1

/-- The bytes that a posted write carries to the host. -/
def State.hostWrite (s : State) (ctx : Nat) (e : ExtKind) (o : PageOrd) (a : Nat) (bs : List Byte) : State :=
  s.send .hostWrite [a % 2 ^ 57, s.pasidOf ctx e, hostAttr o (.write bs)] bs

/-- Send a request to the host (R169): a read, or an AtomicOp. FetchAdd, Swap and CAS go out as such; every other AOP runs as
a CAS retry loop, which reads the old value first (R129). -/
def State.sendHost (s : State) (r : PReq) (a : Nat) : PRes × State :=
  let loop : Option (Nat × Nat × Option Nat) := match r.kind with
    | .atomic aop x _ => if aop = 0 || aop = 8 || aop = 9 then none else some (aop, x, none)
    | _ => none
  let (id, s) := s.newExt { id := 0, kind := r.ext, host := true, ctx := r.ctx, ppa := a, len := r.len, write := r.kind.writes, tlb := r.tlb, loop := loop,
                            attrs := hostAttr r.ord r.kind }
  let tail := [s.pasidOf r.ctx r.ext, hostAttr r.ord r.kind]
  (.sent id, match r.kind, loop with
    | .atomic aop x cmp, none => s.send .hostAtomic ([id, a % 2 ^ 57, r.len, aop, x, cmp] ++ tail)
    | _, _ => s.send .hostRead ([id, a % 2 ^ 57, r.len] ++ tail))

/-! ## Module queues (R52, R444) -/

/-- R52: a malformed descriptor. -/
def queueBad (b : List Byte) : Bool :=
  fieldOf b 10 6 != 0 || fieldOf b 32 32 != 0 || fieldOf b 8 1 = 0 || 20 < fieldOf b 8 1 || !([8, 16, 32, 64].contains (fieldOf b 9 1))
    || 2 ^ 50 ≤ fieldOf b 0 8 || fieldOf b 0 8 % 64 != 0

/-- The descriptor of a queue. A relay ring whose bytes 0 to 15 are zero has the base, capacity and entry size that R57
gives it (DEDUCED, log 73). -/
def State.queueDesc (s : State) (m off : Nat) : List Byte :=
  let b := s.readN (modPpa m off) 64
  let o := off % 0x400000
  if off < 0x40000000 && (o = reqRing || o = respRing) && (b.take 16).all (fun x => x == 0) then
    bytesOf 8 (off - o + if o = reqRing then 0 else 0x10000) ++ [10, 64] ++ b.drop 10
  else b

/-- The lines that a queue operation may touch. -/
def State.queueLines (s : State) (m off : Nat) : List Nat :=
  let b := s.queueDesc m off
  let slot (k : Nat) : Nat := (fieldOf b 0 8 + k % 2 ^ fieldOf b 8 1 * fieldOf b 9 1) / 64
  if queueBad b then [off / 64] else [off / 64, slot (fieldOf b 24 8), slot (fieldOf b 16 8)].eraseDups

/-- One queue operation at the home: 0 done, 1 full or empty, 2 another entry size, 3 malformed; and the entry taken. -/
def State.queueOp (s : State) (m off n : Nat) (enq : Bool) (entry : List Byte) : Nat × List Byte × State :=
  let a := modPpa m off
  let b := s.queueDesc m off
  let head := fieldOf b 16 8
  let tail := fieldOf b 24 8
  let cap := 2 ^ fieldOf b 8 1
  let slot (k : Nat) : Nat := fieldOf b 0 8 + k % cap * n
  if off % 64 ≠ 0 || queueBad b then (3, [], s)
  else if fieldOf b 9 1 ≠ n then (2, [], s)
  else if enq then
    if (tail + 2 ^ 64 - head) % 2 ^ 64 < cap then
      (0, [], (s.poke (modPpa m (slot tail)) (entry.take n)).poke (a + 24) (bytesOf 8 (tail + 1)))
    else (1, [], s)
  else if head < tail then (0, s.readN (modPpa m (slot head)) n, s.poke (a + 16) (bytesOf 8 (head + 1)))
  else (1, [], s)

/-! ## Trails (R57 to R61) -/

/-- Next SEQ from this package to a destination (Table 2-13); modules and packages count apart. -/
def State.takeSeq (s : State) (dst : Nat) : Nat × State :=
  let n := Map.get 0 s.pod.seqOut dst
  (n, { s with pod := { s.pod with seqOut := Map.set 0 s.pod.seqOut dst ((n + 1) % 2 ^ 32) } })

/-- The payload of a sealed descriptor is sealed, line by line, unless it carries its tags already (R61, R70). -/
def sealPayload (d : RelayDesc) : RelayDesc :=
  if !d.sealBit || !d.tags.isEmpty || d.data.isEmpty then d
  else
    let ls := (List.range ((d.data.length + 63) / 64)).map (fun i =>
      sealBytes d.key [1, d.src, d.dst, d.seq, i] ((d.data ++ List.replicate 63 0).drop (64 * i) |>.take 64))
    { d with data := ls.flatMap (fun x => x.1), tags := ls.map (fun x => x.2) }

/-- Put the data of a descriptor, and the tags of its lines, into a payload buffer. -/
def State.putPayload (s : State) (a : Nat) (data : List Byte) (tags : List Seal) : State :=
  let s := s.poke a data
  (List.range ((data.length + 63) / 64)).foldl (fun s i => s.setSeal (lineOf a + i) ((tags[i]?).getD {})) s

/-- A relay descriptor enters the request ring of the region from head i to head j of module m, its data in the payload
buffer; none while the ring is full or the buffer has no room (R60). -/
def State.enqueueRelay (s : State) (m i j : Nat) (d : RelayDesc) (span : Nat) : Option State :=
  let region := relayRegion i j
  let d := sealPayload { d with payload := if d.spanLen = 0 then 0 else span }
  let (r, _, s) := (if d.spanLen = 0 then s else s.putPayload (modPpa m (region + span)) d.data d.tags).queueOp m (region + reqRing) 64 true
    (d.encode false)
  if r = 0 then some ((s.flits i 0 (64 + d.data.length)).send .relay [m, region, d.seq]) else none

/-- Send a relay descriptor, whose SEQ stands, to the relay of another package on a port, for which `e` waits (R57, R59): the
request's number, or none while the region has no room. -/
def State.sendRelayAs (s : State) (port relay : Nat) (ctx : Nat) (e : Ext) (d : RelayDesc) : Option Nat × State :=
  let m := (s.port port).modid
  match s.headOf m relay with
  | none => (none, s)
  | some j =>
    let used := (s.pod.ext.filter (fun x => !x.host && x.port == port && x.relay == j)).map (fun x => (x.span, x.spanLen))
    let n := d.spanLen
    match if n = 0 then some 0 else freeSpan (used.filter (fun u => u.2 != 0)) n with
    | none => (none, s)
    | some span =>
      if !s.linkOk port ctx m then (none, s)
      else
        match s.enqueueRelay m port j d span with
        | none => (none, s)
        | some s =>
          let (id, s) := s.newExt { e with host := false, port := port, ctx := ctx, rkind := d.kind,
                                           dst := d.dst + (if d.kind = 4 then 128 else 0), seq := d.seq, relay := j, span := span, spanLen := n }
          (some id, s)

/-- Send a relay descriptor of this package's own, with the next SEQ of its pair. -/
def State.sendRelay (s : State) (port relay : Nat) (ctx : Nat) (e : Ext) (d : RelayDesc) : Option Nat × State :=
  let (sq, s') := s.takeSeq (d.dst + if d.kind = 4 then 128 else 0)
  match s'.sendRelayAs port relay ctx e { d with seq := sq } with
  | (some id, s) => (some id, s)
  | (none, _) => (none, s)

/-- An access through a trail to a module. A sealed line travels whole, with its sideband: a partial write reads it first, and
no other write of the line starts before it has ended (R70). -/
def State.sendFar (s : State) (r : PReq) (port relay a : Nat) : PRes × State :=
  let m := modIndex a
  let sealed : Bool := s.sealedKey r.ctx m
  let e : Ext := { id := 0, kind := r.ext, host := false, ppa := a, len := r.len, write := r.kind.writes, tlb := r.tlb }
  if sealed && (match r.kind with
      | .write _ => true
      | _ => false) && s.pod.ext.any (fun x => !x.host && x.write && x.ppa / 64 == a / 64) then (.blocked, s) else
  let base : RelayDesc := { kind := 2, src := s.pod.pkg, dst := m, sealBit := sealed, key := s.ctxKey r.ctx, len := r.len, target := modOff a }
  let line : RelayDesc := { base with len := 64, target := modOff a / 64 * 64 }
  let (d, e) := match r.kind with
    | .read => if sealed then (line, { e with off := some (a % 64) }) else (base, e)
    | .write bs =>
      if sealed && bs.length < 64 then (line, { e with off := some (a % 64), merge := some bs }) else ({ base with kind := 1, data := bs }, e)
    | .atomic aop x cmp => ({ base with kind := 3, size := Nat.log2 r.len, aop := aop, data := bytesOf r.len x ++ bytesOf r.len cmp }, e)
  match s.sendRelay port relay r.ctx e d with
  | (some id, s) => (.sent id, s)
  | (none, s) => (.blocked, s)

/-! ## Here and at a direct module -/

/-- The bytes of a request at an address that holds them. -/
def State.actAt (s : State) (r : PReq) (a : Nat) : PRes × State :=
  let (old, bad) := s.readPhys r.ctx a r.len
  match r.kind with
  | .read => (.done old bad, s)
  | .write bs => (.done [] false, s.writePhys r.ctx a bs)
  | .atomic _ _ _ => if bad then (.done old true, s) else (.done old false, s.writePhys r.ctx a (r.kind.result r.len old))

/-- A line of local HBM, through the L2; or a canopy, which no L2 holds. -/
def State.performHere (s : State) (r : PReq) (a : Nat) : PRes × State :=
  (if ppaKind a = 0 then s.l2Touch r.ctx a r.kind.writes r.alloc else s).actAt r a

/-- A line of a direct module, through port p. An atomic acts at the home (R49). A read or a write acts in the L2, which
asks the home for the line unless it holds it in a state that will do (Table 2-9); another context's line is written
back first (R107). A package moves E to M silently. -/
def State.performHome (s : State) (r : PReq) (p a : Nat) : PRes × State :=
  let m := modIndex a
  let l := lineOf (modOff a)
  let write := r.kind.writes
  if (s.module m).failed || !s.linkOk p r.ctx m then (.blocked, s)
  else if r.kind.isAtomic then
    match s.homeTry m (.own r.ext) 16 [l] .clear with
    | (none, s) => (.blocked, s)
    | (some _, s) => (s.flits p (s.linkKid r.ctx m) 32).actAt r a
  else
    let sl := s.sliceFor (s.ctxGlade r.ctx) a
    let held := s.l2Find (lineOf a)
    match held.filter (fun x => x.ctx == r.ctx && (!write || x.st == 2 || x.st == 4)) with
    | some x => (s.l2Hit x sl (if write then 4 else x.st)).actAt r a
    | none =>
      let s := match held with
        | some x => if x.ctx = r.ctx then s else s.evictLine x
        | none => s
      match s.homeTry m (.own r.ext) p [l] (if write then .own else .shared) with
      | (none, s) => (.blocked, s)
      | (some _, s) =>
        let s := s.flits p (s.linkKid r.ctx m) 32
        let st := if write then 4 else if (s.dirAt m l).owner = some p then 2 else 1
        let x : L2Line := ⟨sl, lineOf a, r.ctx, st⟩
        let (res, s) := (s.l2Insert x).actAt r a
        (res, if r.alloc || held.isSome then s else s.evictLine x)

/-- A physical target: local, host, or a module by its route. -/
def State.performPhys (s : State) (r : PReq) (a : Nat) : PRes × State :=
  if ppaKind a = 2 then
    match r.kind with
    | .write bs =>
      let s := s.hostWrite r.ctx r.ext r.ord a bs
      (.done [] false, { s with hostDirty := (r.wkey, a % 2 ^ 57 / 4096) :: s.hostDirty.filter (fun h => h != (r.wkey, a % 2 ^ 57 / 4096)) })
    | _ => s.sendHost r a
  else if ppaKind a = 1 then
    match s.modRoute (modIndex a) with
    | .lost => (.park 0x22 a, s)
    | .trail p k => s.sendFar r p k a
    | .direct p => s.performHome r p a
  else s.performHere r a

/-- R230: writes to K space of a segment whose canopy is being copied wait. -/
def State.kHeld (s : State) (g off : Nat) : Bool := (s.gladeAt g).copies.any (fun c => c.i == off / 2 ^ 21 || c.j == off / 2 ^ 21)

/-- A physical target that the context may still reach (R108). -/
def State.performOwn (s : State) (r : PReq) (a : Nat) : PRes × State :=
  if s.mayReach r.ctx a r.kind.isAtomic then s.performPhys r a else (.denied, s)

/-- Perform one part (R269): the place is resolved now (R121), and the request is performed, sent outside, or meets a fault
that the state of the machine now gives it. -/
def State.perform (s : State) (r : PReq) : PRes × State :=
  match r.place with
  | .scratch _ _ | .lanePriv _ _ =>
    let old := s.localBytes r.place r.len
    (.done old false, if r.kind.writes then s.putLocal r.place (r.kind.result r.len old) else s)
  | .mmio off => (.mmio off, s)
  | .kspace g off =>
    if r.kind.writes && s.kHeld g off then (.blocked, s)
    else
      match s.placePpa r.place with
      | none => (.failed, s)
      | some a => s.performHere r a
  | .shadow back sbid page off =>
    match s.shadowPpa back sbid page off with
    | none => (.failed, s)
    | some (a, parked) =>
      if s.targetBad a || ppaKind a = 2 || ppaKind a = 4 then (.failed, s)
      else if parked && r.kind.writes then (.park 0x25 0, s)
      else s.performOwn r a
  | .phys a => s.performOwn r a

end Sys2Proof.Machine
end

