-- ==== Sys2Proof/Machine/Engine.lean ====
section
/-!
DEFINITION. Reads and writes by units that name a virtual address: the graph engine, transfers' records, overlay headers
(04 R134, Table 4-9). They go where any access goes: local lines through the L2, module lines through the home, host pages
and lines behind a trail by a request whose answer is waited for.
-/
namespace Sys2Proof.Machine

/-- What such an access ends in: the bytes, a fault that parks (code, va, ppa), a failure (malformed, PERMISSION, poison), or a
wait, after which it is made again. -/
inductive EngRead where
  | ok (bs : List Byte)
  | park (code va ppa : Nat)
  | failed
  | wait
  deriving DecidableEq, Repr

def State.setFetch (s : State) (who a : Nat) (r : Option (List Byte × Bool)) : State :=
  { s with pod := { s.pod with fetches := s.pod.fetches.filter (fun f => !(f.who == who && f.addr == a)) ++ [⟨who, a, r⟩] } }

/-- A piece whose request is lost is made again. -/
def State.dropFetch (s : State) (who a : Nat) : State :=
  { s with pod := { s.pod with fetches := s.pod.fetches.filter (fun f => !(f.who == who && f.addr == a)) } }

/-- What a unit does is over, and so are its accesses. -/
def State.endFetches (s : State) (who : Nat) : State :=
  if s.pod.fetches.isEmpty then s
  else
    let s := s.forget (fun k =>
      match k with
      | .fetch w _ => w == who
      | _ => false)
    { s with pod := { s.pod with fetches := s.pod.fetches.filter (fun f => f.who != who) } }

/-- One piece, inside one line, of the access of unit `who`: at virtual address `va`, its key, and physical address `a`.
`keep`: that it has been performed is noted, so that it is not made again. -/
def State.engPiece (s : State) (who wkey ctx va : Nat) (o : PageOrd) (tlb : Nat) (k : PKind) (keep : Bool) (a n : Nat) : PRes × State :=
  match s.pod.fetches.find? (fun f => f.who == who && f.addr == va) with
  | some ⟨_, _, some (bs, bad)⟩ => (.done bs bad, s)
  | f =>
    if f.isSome && s.pod.ext.any (fun e => e.kind == .fetch who va) then (.blocked, s)
    else
      match s.performPhys { ctx := ctx, place := .phys a, len := n, kind := k, ext := .fetch who va, ord := o, wkey := wkey, tlb := tlb } a with
      | (.done bs bad, s) =>
        (.done bs bad, if keep || k.writes then s.setFetch who va (some (bs, bad)) else if f.isSome then s.dropFetch who va else s)
      | (.sent _, s) => (.blocked, s.setFetch who va none)
      | (.blocked, s) => (.blocked, s.setFetch who va none)
      | r => r

/-- The pieces of a range that lies in one page, `d` bytes below its physical addresses. -/
def State.engPieces (s : State) (who wkey ctx va : Nat) (o : PageOrd) (tlb : Nat) (data : Option (List Byte)) (keep : Bool) (base : Nat) :
    List (Nat × Nat) → List Byte → EngRead × State
  | [], acc => (.ok acc, s)
  | (a, n) :: t, acc =>
    let k : PKind := match data with
      | none => .read
      | some bs => .write ((bs.drop (a - base)).take n)
    match s.engPiece who wkey ctx (va + (a - base)) o tlb k keep a n with
    | (.done bs bad, s) => if bad then (.failed, s) else s.engPieces who wkey ctx va o tlb data keep base t (acc ++ bs)
    | (.blocked, s) => (.wait, s)
    | (.park c ppa, s) => (.park c 0 ppa, s)
    | (_, s) => (.failed, s)

/-- A range that lies in one page. -/
def State.engPage (s : State) (who wkey ctx va n : Nat) (data : Option (List Byte)) (keep : Bool) : EngRead × State :=
  match s.translate ctx va (if data.isSome then .engWrite else .engRead) n false with
  | (.park c a, s) => (.park c va a, s)
  | (.ok pl o _ tlb, s) =>
    match s.placePpa pl with
    | none => (.failed, s)
    | some a =>
      match s.engPieces who wkey ctx va o tlb data keep a (linePieces a n) [] with
      | (.park c _ ppa, s) => (.park c va ppa, s)
      | r => r
  | (_, s) => (.failed, s)

/-- A range page by page; `fuel` bounds the number of pages. -/
def State.engFrom (s : State) (who wkey ctx : Nat) (data : Option (List Byte)) : Nat → Nat → Nat → List Byte → EngRead × State
  | 0, _, _, acc => (.ok acc, s)
  | fuel + 1, va, n, acc =>
    if n = 0 then (.ok acc, s)
    else
      let k := min n (4096 - va % 4096)
      match s.engPage who wkey ctx va k (data.map (fun bs => bs.take k)) false with
      | (.ok bs, s) => s.engFrom who wkey ctx (data.map (fun bs => bs.drop k)) fuel (va + k) (n - k) (acc ++ bs)
      | r => r

/-- The access of unit `who`. Answers that have come stay until what the unit does is over, for it may make several accesses
and then makes them all again after a wait. -/
def State.engDo (s : State) (who wkey ctx va n : Nat) (data : Option (List Byte)) : EngRead × State :=
  match s.engFrom who wkey ctx data (n / 4096 + 2) va n [] with
  | (.wait, s) => (.wait, s)
  | (.ok bs, s) => (.ok bs, s)
  | (r, s) => (r, s.endFetches who)

/-- Read n bytes at a virtual address in a context. -/
def State.engRead (s : State) (who ctx va n : Nat) : EngRead × State := s.engDo who 0 ctx va n none

/-- Write bytes; host pages are noted under a key, for the flush that may follow (R168). -/
def State.engWrite (s : State) (who wkey ctx va : Nat) (bs : List Byte) : EngRead × State := s.engDo who wkey ctx va bs.length (some bs)

/-! ## Part by part (09 R277) -/

/-- The 16-byte granules of a range: address and length. -/
def granulesAt (va n : Nat) : List (Nat × Nat) :=
  (List.range ((va % 16 + n + 15) / 16)).map (fun i =>
    let a := max va ((va / 16 + i) * 16)
    (a, min (va + n) ((va / 16 + i) * 16 + 16) - a))

/-- The bytes of a piece that has been performed. -/
def State.fetched (s : State) (who va : Nat) : Option (List Byte) :=
  ((s.pod.fetches.find? (fun f => f.who == who && f.addr == va)).bind (fun f => f.answer)).map (fun x => x.1)

/-- One more part of an access whose 16-byte parts are performed one by one, in an order that is not stated. With none left,
the access ends with its bytes. -/
def State.engPart (s : State) (who wkey ctx va n : Nat) (data : Option (List Byte)) : EngRead × State :=
  match (granulesAt va n).filter (fun p => (s.fetched who p.1).isNone) with
  | [] => (.ok ((granulesAt va n).flatMap (fun p => (s.fetched who p.1).getD [])), s.endFetches who)
  | l =>
    let (k, s) := s.pick l.length
    match l[k]? with
    | none => (.wait, s)
    | some p =>
      match s.engPage who wkey ctx p.1 p.2 (data.map (fun bs => (bs.drop (p.1 - va)).take p.2)) true with
      | (.ok _, s) => (.wait, s)
      | (.wait, s) => (.wait, s)
      | (r, s) => (r, s.endFetches who)

/-- The units: an operation (one of four accesses of it), a node, a queue context, a warp's own word. -/
def whoOp (id k : Nat) : Nat := 4 * id + k
def whoNode (id : Nat) : Nat := 2 ^ 50 + id
def whoQctx (q : Nat) : Nat := 2 ^ 51 + q
def whoWarp (key : Nat) : Nat := 2 ^ 52 + key
/-- The unit that reads (0) or writes (1) chunk i of a collective. -/
def whoChunk (coll i k : Nat) : Nat := 2 ^ 60 + 2 * (2 ^ 32 * coll + i) + k

/-- What collectives are doing with chunks is over. -/
def State.endChunks (s : State) (colls : List Nat) : State :=
  (s.pod.fetches.filter (fun f => 2 ^ 60 ≤ f.who && colls.contains ((f.who - 2 ^ 60) / 2 ^ 33))).foldl (fun s f => s.endFetches f.who) s

end Sys2Proof.Machine
end

