-- ==== Sys2Proof/Machine/Post.lean ====
section
/-!
DEFINITION. What the device reports: timestamps (05 R165), the event arbiter (R164), interrupt logs (R160 to R162),
MSI-X, service records (R174) and event queues of modules (02 R63).
-/
namespace Sys2Proof.Machine

/-! ## Timestamps -/

/-- The first line of R165. -/
def Func.tsNow (f : Func) (ref : Nat) : Nat := ((ref % 2 ^ 64 * f.tsscale) / 2 ^ 32 % 2 ^ 96 + f.tsoff) % 2 ^ 64

/-- A read of a function's TSTAMP (R165); PAUSE and TSFRZ freeze it. -/
def Func.tsValue (f : Func) (ref : Nat) : Nat :=
  let t := if f.pause && f.tsfrz then f.tspause else f.tsNow ref
  if t < f.tslast then f.tslast else t

def State.tstamp (s : State) (f : Nat) : Nat × State :=
  let s := s.passTime
  let t := (s.fn f).tsValue s.now
  (t, s.setFn f { s.fn f with tslast := t })

/-! ## Interrupts of the service cluster (R173) -/

def irqFault : Nat := 0
def irqService : Nat := 1
def irqMigration : Nat := 2
def irqPodRecord : Nat := 3
def irqFncfg : Nat := 4

/-- A source is forwarded to the APLIC as a wired interrupt: it is pending there, each raise is counted, and the APLIC
delivers it as an identity to the IMSIC that software has named for it (log 81). -/
def State.raiseIrq (s : State) (k : Nat) : State :=
  let h := Config.aplicTarget k
  let n := h.1 % 16
  let x := Map.get {} s.host.harts n
  { s with host := { s.host with aplic := insertNat k s.host.aplic, raised := Map.set 0 s.host.raised k (Map.get 0 s.host.raised k + 1),
                                 harts := Map.set {} s.host.harts n { x with imsic := insertNat h.2 x.imsic } } }

/-! ## Interrupt logs -/

def State.nextSeq (s : State) : Nat × State := (s.host.seq, { s with host := { s.host with seq := (s.host.seq + 1) % 2 ^ 64 } })

/-- The MSI-X message of a function, after a posting (R161). -/
def State.notify (s : State) (fn : Nat) : State :=
  let f := s.fn fn
  if f.pause then s
  else if f.modRunning then s.setFn fn { f with suppressed := true }
  else if f.masked then s.setFn fn { f with pendingMsi := true }
  else (s.setFn fn { f with modRunning := f.ilmod != 0 }).send .msix [fn]

/-- An entry is lost (R160). -/
def State.loseEntry (s : State) (fn : Nat) : State :=
  s.setFn fn { s.fn fn with illost := if (s.fn fn).illost = 2 ^ 32 - 1 then 2 ^ 32 - 1 else (s.fn fn).illost + 1 }

/-- The oldest waiting entry of a function leaves the list. -/
def popLog (fn : Nat) : List (Nat × List Byte) → List (Nat × List Byte)
  | [] => []
  | e :: t => if e.1 = fn then t else e :: popLog fn t

def State.logGone (s : State) (fn : Nat) : State :=
  { s with host := { s.host with logs := popLog fn s.host.logs, logSent := s.host.logSent.filter (fun k => k != fn) } }

/-- The oldest waiting entry has been performed: ILTAIL covers it, and the function is notified (R161). -/
def State.logDone (s : State) (fn : Nat) : State :=
  let s := s.logGone fn
  (s.setFn fn { s.fn fn with iltail := ((s.fn fn).iltail + 1) % 2 ^ 32 }).notify fn

/-- The oldest waiting entry cannot be written. -/
def State.logLost (s : State) (fn : Nat) : State := (s.logGone fn).loseEntry fn

/-- Write the oldest waiting entry of a function (R160): whether it has left the list. -/
def State.writeLog (s : State) (fn : Nat) : Bool × State :=
  match s.host.logs.find? (fun e => e.1 == fn) with
  | none => (false, s)
  | some (_, bs) =>
    if s.host.logSent.contains fn then (false, s)
    else
      let f := s.fn fn
      match s.translate f.wctx (f.winbase + f.ilbase + 32 * (f.iltail % 2 ^ f.illog)) .write 32 false with
      | (.ok pl o _ _, s) =>
        (match s.placePpa pl with
         | none => (true, s.logLost fn)
         | some a =>
           match s.performPhys { ctx := f.wctx, place := .phys a, len := 32, kind := .write bs, ext := .log fn, ord := o, wkey := 2 ^ 43 } a with
           | (.done _ _, s) => (true, s.logDone fn)
           | (.sent _, s) => (false, { s with host := { s.host with logSent := fn :: s.host.logSent } })
           | (.blocked, s) => (false, s)
           | (_, s) => (true, s.logLost fn))
      | (_, s) => (true, s.logLost fn)

/-- Write what can be written of a function's waiting entries, in order. -/
def State.writeLogs (s : State) (fn : Nat) : Nat → State
  | 0 => s
  | n + 1 =>
    match s.writeLog fn with
    | (true, s) => s.writeLogs fn n
    | (false, s) => s

/-- Post one log entry (Tables 5-7, 5-8): lost if the log is full, ILTAIL and the entries not yet performed counted. While a
function's reset is in progress what its sources produce carries the earlier generation, and is discarded (R157, R162). -/
def State.post (s : State) (fn kind detail index data : Nat) : State :=
  let (sq, s) := s.nextSeq
  let (ts, s) := s.tstamp fn
  let f := s.fn fn
  let wait := (s.host.logs.filter (fun e => e.1 == fn)).length
  if f.resetting then s
  else if !f.ilen || (f.iltail + wait) % 2 ^ 32 = (f.ilhead + 2 ^ f.illog) % 2 ^ 32 then s.loseEntry fn
  else
    let bs := bytesOf 1 kind ++ bytesOf 1 detail ++ bytesOf 2 index ++ bytesOf 4 f.ilgen ++ bytesOf 8 sq ++ bytesOf 8 ts
      ++ bytesOf 8 data
    ({ s with host := { s.host with logs := s.host.logs ++ [(fn, bs)] } } : State).writeLogs fn (wait + 1)

/-- The MEMERR entry of an error charged to a context (R139). -/
def State.postMemerr (s : State) (ctx a : Nat) : State := s.post (s.ctxFn ctx) 3 0 ctx a

/-- What waits to be posted, or to be written, goes on. -/
def State.settlePosts (s : State) : State :=
  match s.host.memerrs with
  | (ctx, a) :: t => ({ s with host := { s.host with memerrs := t } } : State).postMemerr ctx a
  | [] => (s.host.logs.foldl (fun l e => insertNat e.1 l) []).foldl (fun s fn => s.writeLogs fn s.host.logs.length) s

def State.hasPosts (s : State) : Bool :=
  !s.host.memerrs.isEmpty || s.host.logs.any (fun e => !s.host.logSent.contains e.1)

/-! ## Service records -/

/-- Table 5-11. -/
def svcRecord (num tag ctx glade fn core sub ts : Nat) (args : List Word) : List Byte :=
  bytesOf 2 num ++ bytesOf 2 tag ++ bytesOf 2 ctx ++ bytesOf 1 glade ++ bytesOf 1 fn ++ bytesOf 1 core ++ bytesOf 1 sub
    ++ bytesOf 6 0 ++ args.flatMap (fun w => bytesOf 4 w.toNat) ++ bytesOf 8 ts ++ bytesOf 8 0

/-- Take a service tag for an owner and queue its record; none while all 1,024 are in use (R174). -/
def State.takeTag (s : State) (o : SvcOwner) (num ctx core sub : Nat) (args : List Word) : Option State :=
  match freeTag (s.host.tags.map (fun t => t.1)) 1024 with
  | none => none
  | some t =>
    let fn := s.ctxFn ctx
    let (ts, s) := s.tstamp fn
    let rec' := svcRecord num t ctx (s.ctxGlade ctx) fn core sub ts args
    some { s with host := { s.host with tags := s.host.tags ++ [(t, o)], svcWait := s.host.svcWait ++ [rec'] } }

/-! ## Event queues of modules (R63) -/

/-- A record enters the event queue of a head: a ring of 1,024 records in the module's control area, in order; how a queue is
kept is not stated (DESIGN CHOICE, log 75). -/
def State.postModule (s : State) (m head : Nat) (bs : List Byte) : State :=
  let x := s.module m
  let n := Map.get 0 x.posted head
  let s := s.setModule m { x with posted := Map.set 0 x.posted head (n + 1) }
  s.poke (modPpa m (0x40000000 + 0x10000 * head + n % 1024 * 64)) bs

/-- A loss record: kind 1 or 2, module, head, reporter, TSTAMP. -/
def lossRecord (kind m head who ts : Nat) : List Byte :=
  bytesOf 1 kind ++ bytesOf 1 m ++ bytesOf 1 head ++ bytesOf 1 who ++ bytesOf 4 0 ++ bytesOf 8 ts ++ List.replicate 48 0

end Sys2Proof.Machine
end

