-- ==== Sys2Proof/Machine/GraphOps.lean ====
section
/-!
DEFINITION. Nodes, counters, failure and cancel (06 R177 to R180, R185, R204 to R209).
-/
namespace Sys2Proof.Machine

/-! ## Nodes -/

def State.node (s : State) (id : Nat) : Option Node := s.graph.nodes.find? (fun n => n.id == id)

def State.setNode (s : State) (n : Node) : State :=
  { s with graph := { s.graph with nodes := s.graph.nodes.map (fun m => if m.id == n.id then n else m) } }

def State.dropNode (s : State) (id : Nat) : State :=
  { s with graph := { s.graph with nodes := s.graph.nodes.filter (fun m => m.id != id) } }

/-- The groups of a node, as keys. -/
def State.groupsOf (s : State) (node : Nat) : List Nat :=
  (s.groups.filter (fun g => g.2.node == node && g.2.place != .none)).map (fun g => g.1)

def Node.started (n : Node) : Bool := n.st != .waiting && n.st != .ready

/-! ## The pending-fault table: entries that no access is left in (R224) -/

def PartState.holds (p : PartState) (t : Nat) : Bool := p == .parked t

/-- Whether some access is still held by a tag. -/
def State.held (s : State) (t : Nat) : Bool :=
  s.ops.any (fun o => o.park == some t || o.parts.any (fun p => p.state.holds t) ||
    (match o.body with
     | .cpa b => b.lanes.any (fun l => l.src.state.holds t)
     | .waitmem b => b.part.state.holds t
     | _ => false))
  || s.warps.any (fun w => w.2.wordTag == some t) || s.recPark.any (fun r => r.2 == t)
  || s.host.windows.any (fun w => w.tag == some t) || s.graph.nodes.any (fun n => n.park == some t)

/-- An entry left empty that has not been posted is freed; a posted one stays until FQREPLAY names it. -/
def State.sweepPend (s : State) : State :=
  { s with xlat := { s.xlat with pend := s.xlat.pend.filter (fun p => p.posted || s.held p.tag) } }

/-! ## Groups -/

def Op.ofGroup (o : Op) (g : Nat) : Bool :=
  match o.owner with
  | .warp g' _ => g' == g
  | .node _ => false

/-- The quadrants a group holds. -/
def State.quadsOf (s : State) (g : Nat) : List Nat := (s.quads.filter (fun q => q.2.holder == some g)).map (fun q => q.1)

/-- A free quadrant keeps only what belongs to the array itself (R447, R465). -/
def Quad.cleared (q : Quad) : Quad := { spares := q.spares, offline := q.offline }

def State.setQuad (s : State) (k : Nat) (q : Quad) : State := { s with quads := Map.set {} s.quads k q }
def State.quadAt (s : State) (k : Nat) : Quad := Map.get {} s.quads k

/-- Free the quadrants of a group (R447). -/
def State.freeQuads (s : State) (g : Nat) : State :=
  (s.quadsOf g).foldl (fun s k => s.setQuad k (s.quadAt k).cleared) s

/-- Requests outside that operations of a group made are forgotten: their answers are discarded. -/
def ExtKind.ofOps (k : ExtKind) (ids : List Nat) : Bool :=
  match k with
  | .part o _ => ids.contains o
  | .elem o _ => ids.contains o
  | .queue o => ids.contains o
  | .fetch who _ => who < 2 ^ 50 && ids.contains (who / 4)
  | _ => false

/-- Service tags of operations that are gone stay live until the reply (R176). -/
def State.orphanTags (s : State) (ids : List Nat) : State :=
  { s with host := { s.host with tags := s.host.tags.map (fun t =>
      match t.2 with
      | .op i => if ids.contains i then (t.1, .dead) else t
      | _ => t) } }

/-- Operations are discarded with all they hold. -/
def State.dropOps (s : State) (ids : List Nat) : State :=
  let s := (s.orphanTags ids).endChunks ((s.pod.colls.filter (fun c => ids.contains c.op)).map (fun c => c.id))
  let s : State := { s.forget (fun k => k.ofOps ids) with ops := s.ops.filter (fun o => !ids.contains o.id) }
  let s : State := { s with pod := { s.pod with fetches := s.pod.fetches.filter (fun f => !((2 ^ 50 : Nat) > f.who && ids.contains (f.who / 4))),
                                                colls := s.pod.colls.filter (fun c => !ids.contains c.op) } }
  s.sweepPend

/-- Release what a group holds and forget it (R180, R206): its warps, operations and quadrants. -/
def State.dropGroup (s : State) (g : Nat) : State :=
  let ids := (s.ops.filter (fun o => o.ofGroup g)).map (fun o => o.id)
  let s := (s.dropOps ids).freeQuads g
  { s with warps := s.warps.filter (fun w => w.1 / 64 != g), groups := Map.del s.groups g }

/-! ## Counters (R177 to R179) -/

def Counter.is (c : Counter) (ctx level ident : Nat) : Bool := c.ctx == ctx && c.level == level && c.ident == ident

def State.counter (s : State) (ctx level ident : Nat) : Option Counter :=
  s.graph.counters.find? (fun c => c.is ctx level ident)

def State.setCounter (s : State) (c : Counter) : State :=
  { s with graph := { s.graph with counters := s.graph.counters.map (fun d => if d.is c.ctx c.level c.ident then c else d) } }

def State.addCounter (s : State) (c : Counter) : State := { s with graph := { s.graph with counters := s.graph.counters ++ [c] } }

def State.dropCounter (s : State) (ctx level ident : Nat) : State :=
  { s with graph := { s.graph with counters := s.graph.counters.filter (fun c => !c.is ctx level ident) } }

/-- The worse status: FAILED above CANCELLED above DONE (R178). -/
def worse (a b : Nat) : Nat := if a < b then b else a

def State.raiseUnit (s : State) (ctx level ident st : Nat) : State :=
  match s.counter ctx level ident with
  | none => s
  | some c => s.setCounter { c with status := worse c.status st }

/-- The waiters of a unit take its status (R378, R379). -/
def State.answerWaiters (s : State) (ctx level ident st : Nat) : State :=
  { s with ops := s.ops.map (fun o =>
      match o.body, o.owner with
      | .cntWait b, .warp g _ =>
        if b.level == level && b.ident == ident && (s.groupAt g).ctx == ctx && b.answer.isNone then
          { o with body := .cntWait { b with answer := some st } } else o
      | _, _ => o) }

/-- The status code of a log entry for a unit or node (R163). -/
def statusCode (st : Nat) : Nat := if st = 0 then 0x00 else if st = 1 then 0x12 else 0x10

/-- COMPLETION (R163): status code and count for a record of a queue context. -/
def State.postCompletion (s : State) (ctx qctx seq code count : Nat) : State :=
  s.post (s.ctxFn ctx) 1 0 qctx (seq + (code * 2 ^ 24 + count) * 2 ^ 32)

/-- Whether a counter is complete (R178); a launch completes only through `launchDue`. -/
def Counter.due (c : Counter) : Bool := c.count == 0 && (c.level == 1 || c.closed)

/-- A unit completes (R178): waiters, the LOGDONE entry of a graph, and its parent, level by level. -/
def State.completeUp (s : State) (ctx : Nat) : List Nat → Nat → State
  | [], _ => s
  | level :: up, ident =>
    match s.counter ctx level ident with
    | none => s
    | some c =>
      if !c.due then s
      else
        let s := (s.answerWaiters ctx level ident c.status).dropCounter ctx level ident
        let s := match c.log with
          | some (q, seq) => s.postCompletion ctx q seq (statusCode c.status) 0
          | none => s
        let parent := if level = 1 then c.phase else c.job
        match up, s.counter ctx (level + 1) parent with
        | _, none => s
        | up, some p =>
          (s.setCounter { p with count := p.count - 1, status := worse p.status c.status }).completeUp ctx up parent

/-- Subtract from a graph, phase or job counter and complete what becomes due. -/
def State.decUnit (s : State) (ctx level ident : Nat) : State :=
  match s.counter ctx level ident with
  | none => s
  | some c => (s.setCounter { c with count := c.count - 1 }).completeUp ctx ((List.range 4).drop level) ident

/-! ## Flow of nodes (R185) -/

/-- The ends of nodes: what follows from (node, final status 0 DONE, 1 CANCELLED, 2 FAILED). -/
def State.fatal (s : State) (n : Node) : State :=
  match n.qctx with
  | none => s
  | some q => s.post n.fn 5 n.cause q (n.seq + if n.causeStatus then 2 ^ 32 else 0)

/-- A launch's unit completes once its node has ended, and with it every child that it counts (R178, R380). -/
def State.launchGone (s : State) (ctx ident : Nat) : State :=
  match s.counter ctx 0 ident with
  | none => s
  | some c => if c.closed && c.count = 0 then (s.answerWaiters ctx 0 ident c.status).dropCounter ctx 0 ident else s

/-- The launch counter of a node's parent falls by one, with the child's status (R209). -/
def State.endChild (s : State) (n : Node) (st : Nat) : State :=
  match n.parent, s.counter n.ctx 0 n.parentLaunch with
  | some _, some c => (s.setCounter { c with count := c.count - 1, status := worse c.status st }).launchGone n.ctx n.parentLaunch
  | _, _ => s

/-- A launch node that ends FAILED or CANCELLED: its groups are gone, its unit takes the worst status seen, and completes when
the children it counts have ended too (R178, R380). The unit's status. -/
def State.endLaunch (s : State) (n : Node) (st : Nat) : Nat × State :=
  match s.counter n.ctx 0 n.launchId with
  | none => (st, s)
  | some c =>
    let children := (s.graph.nodes.filter (fun m => m.parent == some n.id)).length
    let w := worse c.status st
    (w, (s.setCounter { c with count := children, status := w, closed := true }).launchGone n.ctx n.launchId)

/-- A launch's counter completes when its count is 0 and every group is placed (R185, R209): the waiters take its
status, and the node enters PUBLISHING. -/
def State.launchDue (s : State) (id : Nat) : State :=
  match s.node id with
  | none => s
  | some n =>
    match s.counter n.ctx 0 n.launchId with
    | none => s
    | some c =>
      if n.st == .running && n.placedOnce && n.unplaced.isEmpty && c.count == 0 then
        let s := ((s.answerWaiters n.ctx 0 n.launchId c.status).dropCounter n.ctx 0 n.launchId)
        let s := s.raiseUnit n.ctx 1 n.graphId c.status
        s.setNode { n with st := .publishing,
                           pubs := (List.range n.writes.length).filter (fun i => (n.writes[i]?.map (fun w => w.shadow)).getD false) }
      else s

/-- A successor of a node that ended DONE, which `k` of its successor entries name: as many fewer to wait for, since PREDS
counts entries (DEDUCED, log 66); at 0 it is READY (R183, R185, R186). -/
def Node.predDone (n : Node) (now k : Nat) : Node :=
  let p := n.preds - k
  if n.st == .waiting && p == 0 && n.spill.isNone then { n with preds := 0, st := .ready, readyAt := now } else { n with preds := p }

/-! ## The chip and the spill area (R186) -/

/-- Nodes held on chip (Table 6-10). -/
def State.onChip (s : State) : Nat := (s.graph.nodes.filter (fun n => n.spill.isNone)).length

/-- The lowest free place of the spill area. -/
def State.spillPlace (s : State) : Option Nat :=
  if s.graph.nspEn then freeTag (s.graph.nodes.filterMap (fun n => n.spill)) (2 ^ s.graph.nspLog) else none

/-- A WAITING node leaves the chip. What the area holds of it is not stated: its 256 bytes are free (DESIGN CHOICE, log 76). -/
def State.spillNode (s : State) (id k : Nat) : State :=
  let s := s.poke (s.graph.nspBase + 256 * k) ((List.range 256).map (fun i => Config.freeByte (s.tick + i)))
  { s with tick := s.tick + 256,
           graph := { s.graph with nodes := s.graph.nodes.map (fun n => if n.id = id then { n with spill := some k } else n) } }

/-- Make room on chip for one node: spill a WAITING one if none is free. -/
def State.makeRoom (s : State) : Option State :=
  if s.onChip < 65536 then some s
  else
    match s.graph.nodes.find? (fun n => n.st == .waiting && n.spill.isNone && n.preds != 0), s.spillPlace with
    | some n, some k => some (s.spillNode n.id k)
    | _, _ => none

/-- Reload the spilled nodes that wait for nothing more, while there is room; a node that is reloaded frees its place in the
area before another takes it. -/
def State.reloadNodes (s : State) : State :=
  (s.graph.nodes.filter (fun n => n.spill.isSome && n.st == .waiting && n.preds == 0)).foldl (fun s n =>
    let t := s.setNode { n with spill := none, st := .ready, readyAt := s.now }
    if s.onChip < 65536 then t
    else
      match t.graph.nodes.find? (fun n => n.st == .waiting && n.spill.isNone && n.preds != 0), t.spillPlace with
      | some m, some k => t.spillNode m.id k
      | _, _ => s) s

/-- End a node: it is freed, and its successors, counters and log entries follow (R185, R209). -/
def State.endOne (s : State) (n : Node) (st : Nat) : State :=
  let s := s.dropNode n.id
  let s := if st = 0 then
      { s with graph := { s.graph with nodes := s.graph.nodes.map (fun m =>
          if n.succs.contains m.index && m.ctx == n.ctx && m.graphId == n.graphId && m.qctx == n.qctx then
            m.predDone s.now (n.succs.filter (fun i => i == m.index)).length else m) } }
    else s
  let s := s.reloadNodes
  let (st', s) := if n.nkind = 1 && st ≠ 0 then s.endLaunch n st else (st, s)
  let s := s.endChild n st'
  let s := match n.parent with
    | some p => s.launchDue p
    | none => s
  let s := if st = 2 then s.fatal n else s
  let s := if n.logDone then
      match n.qctx with
      | some q => s.postCompletion n.ctx q n.seq (statusCode st) 0
      | none => s
    else s
  (s.raiseUnit n.ctx 1 n.graphId st').decUnit n.ctx 1 n.graphId

/-- Successors of a FAILED or CANCELLED node that have not started are CANCELLED in turn (R185). -/
def State.succsOf (s : State) (n : Node) : List Node :=
  s.graph.nodes.filter (fun m => n.succs.contains m.index && m.ctx == n.ctx && m.graphId == n.graphId
    && m.qctx == n.qctx && !m.started && m.id != n.id)

def State.endNodes : Nat → List (Nat × Nat) → State → State
  | 0, _, s => s
  | _, [], s => s
  | fuel + 1, (id, st) :: rest, s =>
    match s.node id with
    | none => State.endNodes fuel rest s
    | some n =>
      let next := if st = 0 then [] else (s.succsOf n).map (fun m => (m.id, 1))
      State.endNodes fuel (next ++ rest) (s.endOne n st)

def State.endNode (s : State) (id st : Nat) : State :=
  State.endNodes (s.graph.nodes.length * (s.graph.nodes.length + 1) + 1) [(id, st)] s

/-- Operations of an engine node. -/
def State.nodeOps (s : State) (id : Nat) : List Nat := (s.ops.filter (fun o => o.owner == .node id)).map (fun o => o.id)

/-- All running groups and engine commands of a node are discarded (R207). -/
def State.discardNode (s : State) (id : Nat) : State :=
  let s := (s.dropOps (s.nodeOps id)).endFetches (whoNode id)
  let s : State := { s with graph := { s.graph with watches := s.graph.watches.filter (fun w => w != id) } }
  (s.groupsOf id).foldl (fun s g => s.dropGroup g) s

/-! ## Failure (R207 to R209) -/

/-- A transient cause: UNCORRECTABLE, a failed TIER_LOST replay, or a status of R207. -/
def transient (cause : Nat) (isStatus tier : Bool) : Bool :=
  if isStatus then cause == 0x13 || cause == 0x14 || cause == 0x15 || cause == 0x17
  else cause == 0x10 || (cause == 0x08 && tier)

/-- The service record of REISSUE (R208). -/
def State.reissueRecord (s : State) (n : Node) : Option State :=
  let w (a b : Nat) : Word := BitVec.ofNat 32 (a + b * 65536)
  s.takeTag (.reissue n.id) 0xFFFF n.ctx 0xFF 0xFF
    [BitVec.ofNat 32 n.launchId, w n.graphId n.phaseId, w n.jobId n.index,
     BitVec.ofNat 32 (n.cause + (if n.causeStatus then 256 else 0) + n.attempt * 512),
     BitVec.ofNat 32 n.recVa, BitVec.ofNat 32 (n.recVa / 2 ^ 32), BitVec.ofNat 32 (n.qctx.getD 0xFFFF), 0]

/-- A failure of any group, or of an engine node, fails the whole node (R207, R208): its groups are discarded and nothing
is published; a transient failure of a restartable node whose attempt is below 3 goes to REISSUE. -/
def State.failNode (s : State) (node cause : Nat) (isStatus tier : Bool) : State :=
  match s.node node with
  | none => s
  | some n =>
    if n.st != .running then s
    else
      let s := s.discardNode node
      let n := { n with cause := cause, causeStatus := isStatus }
      if transient cause isStatus tier && n.restart && n.attempt < 3 then
        let s := match s.counter n.ctx 0 n.launchId with
          | some c => if n.nkind = 1 then s.setCounter { c with count := c.count - n.groupsLeft } else s
          | none => s
        let s := s.setNode { n with st := .reissue, unplaced := [], groupsLeft := 0, placedOnce := false }
        (s.reissueRecord n).getD s
      else (s.setNode { n with st := .failed }).endNode node 2

/-! ## Cancel (R204, R205) -/

/-- Whether a node belongs to a unit. -/
def Node.inUnit (n : Node) (ctx level ident : Nat) : Bool :=
  n.ctx == ctx && (if level = 0 then n.nkind == 1 && n.launchId == ident else if level = 1 then n.graphId == ident
    else if level = 2 then n.phaseId == ident else n.jobId == ident)

/-- The nodes of a unit, with the children of its launches (R375). -/
def State.unitNodes (s : State) (ctx level ident : Nat) : List Nat :=
  let base := (s.graph.nodes.filter (fun n => n.inUnit ctx level ident)).map (fun n => n.id)
  (List.range s.graph.nodes.length).foldl (fun ids _ =>
    ids ++ ((s.graph.nodes.filter (fun n => !ids.contains n.id && (n.parent.map ids.contains).getD false)).map (fun n => n.id))) base

/-- Parked accesses of a cancelled operation leave their entries at once. -/
def Part.cancel (p : Part) : Part :=
  match p.state with
  | .parked _ => { p with state := .failed }
  | .queued _ => { p with state := .failed }
  | _ => p

def Op.cancel (o : Op) : Op := { o with cancelled := true, park := none, queuedCode := none, parts := o.parts.map Part.cancel }

def Op.isTxf (o : Op) : Bool :=
  match o.body with
  | .txf _ => true
  | _ => false

/-- Outstanding operations of a group end CANCELLED (R204); a transfer completes so, with its status word, even if the group is
saved. A save that had been asked for is not made (R238). -/
def State.cancelGroup (s : State) (g : Nat) : State :=
  let ops := s.ops.filter (fun o => o.ofGroup g)
  let s := s.putGroup g { s.groupAt g with saving := false }
  if (s.groupAt g).place == .saved then
    if !ops.any Op.isTxf then s.dropGroup g
    else
      let s := s.dropOps ((ops.filter (fun o => !o.isTxf)).map (fun o => o.id))
      { s with ops := s.ops.map (fun o => if o.ofGroup g then o.cancel else o),
               warps := s.warps.map (fun w => if w.1 / 64 == g then (w.1, { w.2 with live := 0, wordTag := none }) else w) }
  else
    let s : State := { s with ops := s.ops.map (fun o => if o.ofGroup g then o.cancel else o),
                              warps := s.warps.map (fun w => if w.1 / 64 == g then (w.1, { w.2 with cancelled := true, wordTag := none }) else w) }
    let s := s.orphanTags ((s.ops.filter (fun o => o.ofGroup g)).map (fun o => o.id))
    s.sweepPend

/-- One node of a cancelled unit goes to CANCELLED; a launch ends when its groups have ended, an engine node when its command
has completed CANCELLED, and a node in REISSUE when the runtime replies (R204, R205). -/
def State.cancelNode (s : State) (id : Nat) : State :=
  match s.node id with
  | none => s
  | some n =>
    if n.st == .publishing || n.st == .cancelled then s
    else
      let was := n.st
      let mine := s.ops.filter (fun o => o.owner == .node id)
      let s := s.dropOps ((mine.filter (fun o => !o.isTxf)).map (fun o => o.id))
      let s : State := { s with ops := s.ops.map (fun o => if o.owner == .node id then o.cancel else o),
                                graph := { s.graph with watches := s.graph.watches.filter (fun w => w != id) } }
      let s := s.endFetches (whoNode id)
      let s := (s.groupsOf id).foldl (fun s g => s.cancelGroup g) s
      let s := s.setNode { n with st := .cancelled, unplaced := [], park := none }
      if (was == .reissue && s.host.tags.any (fun t => t.2 == .reissue id)) || (s.groupsOf id).length != 0 || mine.any Op.isTxf then s
      else s.endNode id 1

/-- Cancel a unit: the state, and whether a live unit was cancelled (R204, R152). -/
def State.cancelUnit (s : State) (ctx level ident : Nat) : State × Bool :=
  match s.counter ctx level ident with
  | none => (s, false)
  | some _ => ((s.unitNodes ctx level ident).foldl (fun s id => s.cancelNode id) s, true)

/-! ## The end of a group (R180) -/

/-- The launch's count falls by one, and the launch completes when it reaches 0; a cancelled launch ends with its last
group. -/
def State.groupEnded (s : State) (g : Nat) : State :=
  let grp := s.groupAt g
  let s : State := { s with hostDirty := s.hostDirty.map (fun h => if h.1 / 64 = g then (2 ^ 40 + grp.node, h.2) else h) }
  let s := s.dropGroup g
  match s.node grp.node with
  | none => s
  | some n =>
    let n := { n with groupsLeft := n.groupsLeft - 1, groupsDone := n.groupsDone + 1, doneTime := n.doneTime + (s.now - grp.placedAt) }
    let s := s.setNode n
    match s.counter n.ctx 0 n.launchId with
    | none => if n.st == .cancelled && (s.groupsOf n.id).isEmpty then s.endNode n.id 1 else s
    | some c =>
      let s := s.setCounter { c with count := c.count - 1 }
      if n.st == .cancelled then (if (s.groupsOf n.id).isEmpty then s.endNode n.id 1 else s) else s.launchDue n.id

end Sys2Proof.Machine
end

