-- ==== Sys2Proof/Machine/Frontier.lean ====
section
/-!
DEFINITION. Instruction memory, the divergence frontier and the end of a clause (08 R249 to R256, 11 R320, R321).
-/
namespace Sys2Proof.Machine

/-! ## Instruction memory -/

def Group.slot (g : Group) (k : Nat) : Option Slot := Map.get none g.slots k

/-- The slot and the word offset of a code address (R320). -/
def slotOf (a : CodeAddr) : Nat := a.toNat / 16384
def wordOf (a : CodeAddr) : Nat := a.toNat % 16384

def Group.coreId (g : Group) : Nat :=
  match g.place with
  | .core c => c
  | _ => 0

/-- Whether a code address lies in loaded instruction memory (R321). -/
def Group.loaded (g : Group) (a : CodeAddr) : Bool :=
  match g.slot (slotOf a) with
  | none => false
  | some sl => wordOf a < sl.length

/-- The filled word at a code address; none on a miss (R320). -/
def State.imemWord (s : State) (g : Group) (a : CodeAddr) : Option Word :=
  match g.slot (slotOf a) with
  | none => none
  | some sl =>
    if wordOf a < sl.length then
      (s.imem.find? (fun b => b.core == g.coreId && b.ctx == g.ctx && b.image == sl.image && b.blk == wordOf a / 256)).bind
        (fun b => b.words[wordOf a % 256]?)
    else none

/-- PRIO of the header at a code address (R253); 0 while the word is not in instruction memory. -/
def State.prioAt (s : State) (g : Group) (a : CodeAddr) : Nat :=
  match s.imemWord g a with
  | none => 0
  | some w => (Header.ofWord w).prio

/-! ## The frontier -/

/-- Merge into an entry (R253): the union of the masks, D 0, a fresh detector; the merged entry sleeps while either
does. -/
def Entry.merge (e : Entry) (mask : Mask) (sleep : Nat) : Entry :=
  { e with mask := e.mask ||| mask, d := false, spin := {}, sleep := if e.sleep < sleep then sleep else e.sleep }

/-- An arriving entry joins the one with an equal PC, or takes its place by ascending PC. An entry that resumes inside
a clause stands at another word than its header, and is never merged (DEDUCED, log 51). -/
def arrive (x : Entry) : List Entry → List Entry
  | [] => [x]
  | e :: t =>
    if x.pc = e.pc && x.resume.isNone && e.resume.isNone then e.merge x.mask x.sleep :: t
    else if x.pc.toNat < e.pc.toNat then x :: e :: t
    else e :: arrive x t

/-- Group the lanes of a mask by target: one (target, lanes) pair for each distinct target. -/
def addTarget (pc : CodeAddr) (m : Mask) : List (CodeAddr × Mask) → List (CodeAddr × Mask)
  | [] => [(pc, m)]
  | (a, n) :: t => if a = pc then (a, n ||| m) :: t else (a, n) :: addTarget pc m t

def groupTargets (m : Mask) (f : Nat → CodeAddr) : List (CodeAddr × Mask) :=
  (lanesOf m).foldl (fun ts l => addTarget (f l) (1#32 <<< l) ts) []

/-- Close an iteration of the spin detector when a branch at `hdr` is taken to a PC at or below it (R255); the second
component says whether the entry is demoted. -/
def Spin.close (sp : Spin) (hdr : CodeAddr) : Spin × Bool :=
  if sp.branch = some hdr then
    let quiet := !sp.wrote
    (⟨some hdr, 0, false, if quiet then some sp.sig else none⟩, quiet && sp.last = some sp.sig)
  else (⟨some hdr, 0, false, none⟩, false)

/-- A successor of the clause's entry at `pc` (R254): it keeps D, the sleep and the detector. -/
def Clause.successor (c : Clause) (pc : CodeAddr) (mask : Mask) (taken : Bool) : Entry :=
  let back := taken && pc.toNat ≤ c.hdr.toNat
  let (sp, dem) := if back then c.spin.close c.hdr else (c.spin, false)
  { pc := pc, mask := mask, d := c.d || dem, sleep := c.sleep, spin := sp }

/-- The header that follows the clause. -/
def Clause.next (c : Clause) : CodeAddr := c.hdr + 1 + BitVec.ofNat 16 c.len

/-- The frontier the warp issues from: the handler's while it is inside one (R260). -/
def Warp.front (w : Warp) : List Entry := if w.handler.isSome then w.hfront else w.frontier

def Warp.setFront (w : Warp) (l : List Entry) : Warp :=
  if w.handler.isSome then { w with hfront := l } else { w with frontier := l }

/-- The frontier without the entry whose clause is issuing. -/
def dropEntry (pc : CodeAddr) (resume : Option CodeAddr) (m : Mask) (l : List Entry) : List Entry :=
  l.filter (fun e => !(e.pc == pc && e.resume == resume && e.mask == m))

/-- Every lane that lies in some entry, and so is live (R253). -/
def Warp.lanesIn (w : Warp) : Mask := (w.frontier ++ w.hfront).foldl (fun m e => m ||| e.mask) 0

/-- The handler is left without `ERET` when its last lane has exited (R361). -/
def Warp.leaveIfEmpty (w : Warp) : Warp :=
  if w.handler.isSome && w.hfront.isEmpty then { w with handler := none } else w

/-- End the clause (R254): the entry is replaced by one entry for each (target, lanes, taken), each of which merges.
Lanes in no target have left the frontier. -/
def Warp.endClause (w : Warp) (ts : List (CodeAddr × Mask × Bool)) : Warp :=
  let c := w.clause
  let rest := dropEntry c.hdr c.resume c.mask w.front
  let front := ts.foldl (fun l t => if t.2.1 = 0 then l else arrive (c.successor t.1 t.2.1 t.2.2) l) rest
  let w := (w.setFront front).leaveIfEmpty
  { w with live := w.lanesIn, clause := {}, stall := .none }

/-! ## Which entry may begin (R249, R250, R253, R325) -/

/-- What a header's checks find: a word that is not filled yet, the reason of a malformed header, or the header and
the words of its clause. -/
inductive HeaderCheck where
  | miss
  | bad (reason : Nat)
  | ok (h : Header) (words : List Word)
  deriving DecidableEq, Repr

/-- Decode a clause's words from the first onwards: for each instruction, whether it extends past the LEN words and
whether it is a transfer that is not last. `rem` is what is left of LEN; decoding stops at the first word outside loaded
memory (R325). -/
def cutClause : Nat → List Word → Nat → List (Bool × Bool)
  | 0, _, _ => []
  | _, [], _ => []
  | fuel + 1, w :: t, rem =>
    if needsSecond w && rem < 2 then [(true, false)]
    else if needsSecond w && t.isEmpty then []
    else
      let x := t.headD 0
      let n := wordCount w x
      if rem < n then [(true, false)]
      else (false, isTransfer w x && n < rem) :: cutClause fuel ((w :: t).drop n) (rem - n)

/-- The checks of R249 in the order of their reasons (R325); a header outside loaded memory has reason 5 alone. -/
def State.checkHeader (s : State) (g : Group) (hdr : CodeAddr) : HeaderCheck :=
  if !g.loaded hdr then .bad 5
  else
    match s.imemWord g hdr with
    | none => .miss
    | some w =>
      let h := Header.ofWord w
      let at' := (List.range h.len).map (fun k => hdr + 1 + BitVec.ofNat 16 k)
      let here := at'.takeWhile g.loaded
      if !h.flagsOk then .bad 1
      else if h.bit0 then .bad 2
      else
        let got := here.filterMap (s.imemWord g)
        if got.length < here.length then .miss
        else
          let cuts := cutClause 16 got h.len
          if cuts.any (fun c => c.1) then .bad 3
          else if cuts.any (fun c => c.2) then .bad 4
          else if here.length < h.len then .bad 5
          else .ok h got

/-- Whether every flag of a WAIT mask reads 0 (R250). -/
def Warp.waitMet (w : Warp) (wait : BitVec 12) : Bool := (List.range 12).all (fun i => !wait.getLsbD i || w.getF i == 0)

/-- `a` goes strictly before `b` in issue order but for the PC (R253). -/
def State.entryBefore (s : State) (g : Group) (a b : Entry) : Bool :=
  (!a.d && b.d) || (a.d == b.d && s.prioAt g b.pc < s.prioAt g a.pc)

/-- Put an entry before the first that it goes strictly before. -/
def insertEntry (lt : Entry → Entry → Bool) (e : Entry) : List Entry → List Entry
  | [] => [e]
  | x :: t => if lt e x then e :: x :: t else x :: insertEntry lt e t

/-- The frontier in issue order: the list itself stands in ascending PC (R253). -/
def State.issueOrder (s : State) (g : Group) (w : Warp) : List Entry :=
  w.front.foldl (fun l e => insertEntry (s.entryBefore g) e l) []

/-- Whether a frontier entry may begin its clause now, be it with a trap (R250, R325, R374). -/
def State.mayBegin (s : State) (g : Group) (w : Warp) (e : Entry) : Bool :=
  e.sleep == 0 && (match s.checkHeader g e.pc with
    | .miss => false
    | .bad _ => true
    | .ok h _ => w.waitMet h.wait)

/-- Whether a warp can issue: the next word of its clause, or the beginning of a clause (R253, R256). -/
def State.ready (s : State) (key : Nat) : Bool :=
  let g := s.groupAt (key / 64)
  let w := s.warpAt (key / 64) (key % 64)
  if g.place == .none || g.place == .saved || w.live = 0 then false
  else if w.clause.active then w.stall == .none
  else !g.saving && w.yieldOn.isEmpty && !w.front.isEmpty && (w.cancelled || w.front.any (s.mayBegin g w))

/-- The warps of a sub-core of a core, as keys. -/
def State.subcoreWarps (s : State) (core sub : Nat) : List Nat :=
  (s.warps.filter (fun p => p.2.live != 0 && p.2.subcore == sub &&
    (s.groupAt (p.1 / 64)).place == .core core)).map (fun p => p.1)

/-- A clause with YLD, or `YIELD` (R256, R373): the warp waits until every other warp of its sub-core that is ready has
issued. -/
def State.yieldNow (s : State) : State :=
  let me := warpKey s.curG s.curW
  let others := (s.subcoreWarps s.group.coreId s.warp.subcore).filter (fun k => k != me && s.ready k)
  s.setWarp { s.warp with yieldOn := others }

/-- A matrix NaN that the warp never waited on is reported when the warp ends: the launch fails (R265). A warp ends by
its lanes' exits alone (R361). -/
def State.endReports (s : State) : State :=
  if s.warp.live = 0 && s.warp.reports.any (fun r => r.cause == 0x0C) then s.failNode s.group.node 0x0C false false else s

/-- End the current warp's clause. -/
def State.closeClause (s : State) (ts : List (CodeAddr × Mask × Bool)) : State :=
  let y := s.warp.clause.yld
  let s := s.setWarp (s.warp.endClause ts)
  if y then s.yieldNow else s

/-- A word of `n` words has completed its issue: on to the next word, or to the end of the clause (R250, R254). -/
def State.retire (s : State) (n : Nat) : State :=
  let c := s.warp.clause
  let pc := c.pc + BitVec.ofNat 16 n
  if c.len ≤ (pc - c.hdr - 1).toNat then s.closeClause [(c.next, c.mask, false)]
  else s.setWarp { s.warp with clause := { c with pc := pc }, stall := .none }

end Sys2Proof.Machine
end

