-- ==== Sys2Proof/Machine/Ops.lean ====
section
/-!
DEFINITION. Taking an exception and returning from one (08 R259 to R262, R265), and the checks of 11 Table 11-7 that
read the warp's state.
-/
namespace Sys2Proof.Machine

/-! ## Trap causes (08 Table 8-5) -/

def cIllegalOp : Nat := 0x01
def cIllegalClause : Nat := 0x02
def cDiverged : Nat := 0x03
def cIllegalWait : Nat := 0x04
def cJumpRange : Nat := 0x05
def cMisaligned : Nat := 0x06
def cSpaceRange : Nat := 0x07
def cFatalFault : Nat := 0x08
def cPermission : Nat := 0x09
def cBarState : Nat := 0x0A
def cOverlayAbsent : Nat := 0x0B
def cMatrixNan : Nat := 0x0C
def cFpTrap : Nat := 0x0D
def cUserTrap : Nat := 0x0E
def cBreakpoint : Nat := 0x0F
def cUncorrectable : Nat := 0x10
def cCancelled : Nat := 0x11
def cRole : Nat := 0x12

/-- What a trap reports (R260, Table 8-5): `mask` is TMASK. -/
structure TrapInfo where
  cause : Nat
  mask : Mask
  addr : Nat := 0
  info : Nat := 0
  deriving DecidableEq, Repr

/-- Word 0 of overlay slot 3, where the handler starts (R260). -/
def handlerPc : CodeAddr := 0xC000

/-- A word-sized trap PC (Table 8-3): header address above, resumption word below. -/
def tpcOf (hdr word : CodeAddr) : Word := hdr ++ word

/-! ## Taking an exception -/

/-- The trap registers (Table 8-3). -/
def Warp.setTrap (w : Warp) (t : TrapInfo) (tpc : Word) : Warp :=
  { w with tcause := BitVec.ofNat 32 t.cause, tpc := tpc, tmask := t.mask, taddr := BitVec.ofNat 64 t.addr,
           tinfo := BitVec.ofNat 32 t.info }

/-- The warp stops: no lane of it is live (R262). -/
def Warp.stop (w : Warp) : Warp :=
  { w with live := 0, frontier := [], hfront := [], handler := none, clause := {}, stall := .none }

/-- Enter the handler (R260): the trapping entry is set aside, and the handler runs as one entry of its lanes. -/
def Warp.enterHandler (w : Warp) (hdr : CodeAddr) (resume : Option CodeAddr) (lanes : Mask) (cause : Nat) : Warp :=
  { w with frontier := dropEntry hdr resume lanes w.frontier, hfront := [{ pc := handlerPc, mask := lanes }],
           handler := some ⟨cause⟩, clause := {}, stall := .none }

/-- Take a trap in the entry at `hdr` whose lanes are `lanes` (R259, R260, R262): the trap registers are set; then the
handler is entered, or, with no handler or inside it, the launch fails with the cause (R207). A trap inside the handler
stops the warp. `tier`: the failure is transient because a TIER_LOST entry was failed (R207). -/
def State.takeTrap (s : State) (hdr : CodeAddr) (resume : Option CodeAddr) (lanes : Mask) (t : TrapInfo) (tpc : Word)
    (tier : Bool := false) : State :=
  let w := s.warp.setTrap t tpc
  if w.handler.isSome || s.group.handler == 0xFF then
    (s.setWarp w.stop).failNode s.group.node t.cause false tier
  else s.setWarp (w.enterHandler hdr resume lanes t.cause)

/-- A trap precise at the present word (R259): TPC names the clause's header and this word. -/
def State.trap (s : State) (t : TrapInfo) : State :=
  let c := s.warp.clause
  s.takeTrap c.hdr c.resume c.mask t (tpcOf c.hdr c.pc)

/-- A trap that reports the entry's mask and a TINFO (Table 8-5, the first rows). -/
def State.trapEntry (s : State) (cause info : Nat) : State := s.trap ⟨cause, s.warp.clause.mask, 0, info⟩

/-- ILLEGAL_OP with a reason. -/
def State.illegal (s : State) (reason : Nat) : State := s.trapEntry cIllegalOp reason

/-! ## Returning from one -/

/-- `ERET` (R262, R367): the handler's live lanes return at TPC [15:0] within the clause whose header is at
TPC [31:16]; the clause begins afresh where the two are equal. A return from CANCELLED ends the warp (R204). -/
def Warp.eret (w : Warp) : Warp :=
  let lanes := w.clause.mask
  let hdr := w.tpc.extractLsb' 16 16
  let word := w.tpc.extractLsb' 0 16
  let w' := { w with handler := none, hfront := [], clause := {}, stall := .none }
  if (w.handler.map (fun h => h.cause)) = some cCancelled then w.stop
  else
    let e : Entry := { pc := hdr, mask := lanes, resume := if word = hdr then none else some word }
    { w' with frontier := arrive e w'.frontier }

/-! ## Checks before a word acts (11 Table 11-7, rows 3 to 7) -/

/-- The convergence a word asks for (R257, R258). -/
inductive Conv where
  | none
  | live
  | tiles
  deriving DecidableEq, Repr

/-- What rows 3 to 7 ask of a word: the v and s spans it names as (lowest register, count), the flag it selects
(none for a fixed-latency form), whether it is a plain store, a matrix command, and its convergence. -/
structure Req where
  vs : List (Nat × Nat) := []
  ss : List (Nat × Nat) := []
  fs : Option Bool := Option.none
  /-- Row 4 for a range of e registers that reaches past e15 (R402). -/
  eBad : Bool := false
  plainStore : Bool := false
  mx : Bool := false
  conv : Conv := .none
  deriving DecidableEq, Repr

/-- The flag number a word selects (R251). -/
def Clause.flagOf (c : Clause) (fs : Bool) : Nat := if fs then c.fb else c.fa

/-- Row 3: some register of a span (that exists at all) lies at or above 8b. -/
def spanBeyond (budget : Nat) (sp : Nat × Nat) : Bool := 8 * budget < min (sp.1 + sp.2) 128

/-- Row 4: the span is not aligned to its size, or reaches past the last register. -/
def spanBad (regs : Nat) (sp : Nat × Nat) : Bool := sp.1 % sp.2 != 0 || regs < sp.1 + sp.2

/-- The first lane of a lane's tile, and the lanes of its tile (R243). -/
def tileBase (t l : Nat) : Nat := l / t * t
def tileMask (t l : Nat) : Mask := maskOf (fun k => l / t == k / t)

/-- R258: the live lanes outside the entry, in tiles that hold a lane of it. -/
def Warp.strays (w : Warp) : Mask :=
  (lanesOf w.clause.mask).foldl (fun m l => m ||| tileMask w.part l) 0 &&& w.live &&& ~~~w.clause.mask

/-- Rows 3 to 7 of Table 11-7 in order; they do not depend on guards. -/
def Warp.check (w : Warp) (r : Req) : Option TrapInfo :=
  let m := w.clause.mask
  if r.vs.any (spanBeyond w.budget) then some ⟨cIllegalOp, m, 0, 3⟩
  else if r.vs.any (spanBad 128) || r.ss.any (spanBad 64) || r.eBad then some ⟨cIllegalOp, m, 0, 4⟩
  else if r.fs.any (fun fs => w.clause.flagOf fs == 15) && !r.plainStore then some ⟨cIllegalOp, m, 0, 5⟩
  else if r.mx && w.role != .m then some ⟨cRole, m, 0, 0⟩
  else if r.conv == .live && m != w.live then some ⟨cDiverged, m, 0, 0⟩
  else if r.conv == .tiles && w.strays != 0 then some ⟨cDiverged, w.strays, 0, 0⟩
  else Option.none

/-- The outcome type of every meaning. -/
abbrev Out := Host.Outcome State Fault Refusal

/-- Run a word after the checks of rows 3 to 7: a failing check is taken as a trap. -/
def State.checked (s : State) (r : Req) (k : Out) : Out :=
  match s.warp.check r with
  | some t => .next (s.trap t)
  | none => k

/-- The word cannot issue yet: nothing changes but the note why (R250: the words behind it stay stalled). -/
def State.stallFor (s : State) (why : Stall) : State := s.setWarp { s.warp with stall := why }

/-! ## Guards -/

/-- The active lanes of a lane word (R381): the entry's lanes whose guard is true. -/
def Warp.active (w : Warp) (g : BitVec 3) : Mask :=
  if g = 7 then w.clause.mask else w.clause.mask &&& w.getP g.toNat

/-- Whether a uniform word's q guard is true (R353). -/
def Warp.guard (w : Warp) (q : BitVec 3) : Bool := q = 7 || w.getQ q.toNat

/-! ## Flags -/

/-- Add 1 to a flag (R251); 15 names none. -/
def Warp.flagUp (w : Warp) (f : Nat) : Warp := if f = 15 then w else w.setF f (w.getF f + 1)

/-- Subtract 1 from a flag. -/
def Warp.flagDown (w : Warp) (f : Nat) : Warp := if f = 15 then w else w.setF f (w.getF f - 1)

end Sys2Proof.Machine
end

