-- ==== Sys2Proof/Machine/Operands.lean ====
section
/-!
DEFINITION. Every operand form (11 Tables 11-2 to 11-4, R329, R333; 13 R382, R383, Table 13-1; 12 R357) and the
registers each names, for the checks of rows 3 and 4.
-/
namespace Sys2Proof.Machine

/-- The 32-bit pattern of an inline lane value (Table 11-3): 64 to 95 the integers 0 to 31, 96 to 111 the integers
−16 to −1, 112 to 119 FP32 constants. -/
def inlineWord (n : Nat) : Word :=
  if n < 96 then BitVec.ofNat 32 (n - 64)
  else if n < 112 then BitVec.ofInt 32 ((n : Int) - 112)
  else if n = 112 then 0x3F000000 else if n = 113 then 0x3F800000 else if n = 114 then 0x40000000
  else if n = 115 then 0x40800000 else if n = 116 then 0xBF000000 else if n = 117 then 0xBF800000
  else if n = 118 then 0xC0000000 else 0xC0800000

/-- A lane operand in lane l (R382). -/
def Warp.lsrc (w : Warp) (x : LSrc) (l : Nat) : Word :=
  match x with
  | .vreg r => w.getV r.toNat l
  | .sreg r => w.getS r.toNat
  | .inl n => inlineWord n.toNat
  | .lit k => k

/-- The FP64 encoding of an inline value (Table 13-1, DX forms). -/
def inlineF64 (n : Nat) : Nat :=
  let i : Int := if n < 96 then (n : Int) - 64 else (n : Int) - 112
  if n < 112 then (if i = 0 then 0 else (Fmt.f64.round .rne (i < 0) i.natAbs 0 false).1)
  else
    let k : Int := ((n - 112) % 4 : Nat)
    Fmt.f64.withSign (n ≥ 116) (Fmt.f64.round .rne false 1 (k - 1) false).1

/-- A 64-bit DX operand in lane l (R383). -/
def Warp.lsrcF64 (w : Warp) (x : LSrc) (l : Nat) : Dword :=
  match x with
  | .vreg r => w.getV64 r.toNat l
  | .sreg r => w.getS64 r.toNat
  | .inl n => BitVec.ofNat 64 (inlineF64 n.toNat)
  | .lit k => pairOf 0 k

/-- The 64-bit operand of `IADD64` in lane l (Table 13-1). -/
def Warp.lsrcI64 (w : Warp) (x : LSrc) (l : Nat) : Dword :=
  match x with
  | .vreg r => w.getV64 r.toNat l
  | .sreg r => w.getS64 r.toNat
  | .inl n => (inlineWord n.toNat).signExtend 64
  | .lit k => k.signExtend 64

/-- A uniform b operand (12, `bv`): an s register, the sign-extended immediate, or the literal. -/
def Warp.usrc (w : Warp) (x : USrc) : Word :=
  match x with
  | .sreg r => w.getS r.toNat
  | .imm n => n.signExtend 32
  | .lit k => k

/-- The 64-bit b operand of `UIADD64` and `WAITMEM.64`: a pair, or a sign-extended value. -/
def Warp.usrc64 (w : Warp) (x : USrc) : Dword :=
  match x with
  | .sreg r => w.getS64 r.toNat
  | .imm n => n.signExtend 64
  | .lit k => k.signExtend 64

/-- A UX c operand (12, `cv`). -/
def Warp.csrc (w : Warp) (o : UxOps) : Word := if o.ck then o.c.zeroExtend 32 else w.getS o.c.toNat

end Sys2Proof.Machine

namespace Sys2Proof

open Sys2Proof.Machine

/-! ## The registers an operand names -/

def LSrc.vSpan (x : LSrc) (n : Nat) : List (Nat × Nat) :=
  match x with
  | .vreg r => [(r.toNat, n)]
  | _ => []

def LSrc.sSpan (x : LSrc) (n : Nat) : List (Nat × Nat) :=
  match x with
  | .sreg r => [(r.toNat, n)]
  | _ => []

def USrc.sSpan (x : USrc) (n : Nat) : List (Nat × Nat) :=
  match x with
  | .sreg r => [(r.toNat, n)]
  | _ => []

/-! ## The words of an instruction -/

def LaOps.size (o : LaOps) : Nat := 1 + o.b.words.length
def LxOps.size (o : LxOps) : Nat := 2 + o.b.words.length + o.c.words.length
def LmOps.size (o : LmOps) : Nat := 2 + o.b.words.length
def UaOps.size (o : UaOps) : Nat := 1 + o.b.words.length
def UxOps.size (o : UxOps) : Nat := 2 + o.b.words.length
def UmOps.size (o : UmOps) : Nat := 2 + o.b.words.length

/-- The spans of an LA form. -/
def LaOps.req (o : LaOps) : Req := { vs := [(o.d.toNat, 1), (o.a.toNat, 1)] ++ o.b.vSpan 1, ss := o.b.sSpan 1 }

/-- The spans of an LX form whose d, a, b and c name so many registers each (0: the field names no v register). -/
def LxOps.req (o : LxOps) (nd na nb nc : Nat) : Req where
  vs := (if nd = 0 then [] else [(o.d.toNat, nd)]) ++ (if na = 0 then [] else [(o.a.toNat, na)]) ++
    (if nb = 0 then [] else o.b.vSpan nb) ++ (if nc = 0 then [] else o.c.vSpan nc)
  ss := (if nb = 0 then [] else o.b.sSpan nb) ++ (if nc = 0 then [] else o.c.sSpan nc)

/-! ## Predicates and condition codes -/

/-- The predicate an LX c field names, in lane l. -/
def LSrc.pred (x : LSrc) (w : Warp) (l : Nat) : Bool :=
  match x with
  | .vreg r => inMask (w.getP r.toNat) l
  | _ => false

/-- R391, R395: combine a condition with pc by the combine field AUX [5:4]. -/
def LxOps.combine (o : LxOps) (w : Warp) (l : Nat) (t : Bool) : Bool :=
  let k := o.aux.extractLsb' 4 2
  let pc := o.c.pred w l
  if k = 0 then t else if k = 1 then t && pc else t || pc

/-- The condition code AUX [3:0] of a compare. -/
def LxOps.cc (o : LxOps) : Nat := (o.aux.extractLsb' 0 4).toNat

end Sys2Proof
end

