-- ==== Sys2Proof/Machine/Flags.lean ====
section
/-!
DEFINITION. How lane words write results and flags (13 R381, R385, R386; 08 R265): integer results, floating-point
results with their GNSTAT bits, and FP_TRAP.
-/
namespace Sys2Proof.Machine

/-- The flags that FMODE's trap enables pick out (Table 8-4: TIV, TOF, TDZ). -/
def Warp.enabled (w : Warp) (f : Flags) : Bool :=
  (w.fmode.getLsbD 6 && f.iv) || (w.fmode.getLsbD 7 && f.ovf) || (w.fmode.getLsbD 8 && f.dz)

/-- TINFO of FP_TRAP (Table 8-5) for the enabled conditions some lane raised. -/
def Warp.fpInfo (w : Warp) (f : Flags) : Nat :=
  (if w.fmode.getLsbD 6 && f.iv then 1 else 0) + (if w.fmode.getLsbD 7 && f.ovf then 2 else 0) +
  (if w.fmode.getLsbD 8 && f.dz then 4 else 0)

/-- The flags of all lanes of a mask together. -/
def joinFlags (m : Mask) (f : Nat → Flags) : Flags := (lanesOf m).foldl (fun a l => a.or (f l)) {}

/-- The lanes that raised an enabled condition. -/
def Warp.trapLanes (w : Warp) (m : Mask) (f : Nat → Flags) : Mask := maskOf (fun l => inMask m l && w.enabled (f l))

/-- Finish a lane word whose lanes raise flags `fl` (R386, R308): GNSTAT takes their bits; an enabled condition is
FP_TRAP and nothing is written; otherwise the word writes and completes. -/
def State.finishFp (s : State) (n : Nat) (m : Mask) (fl : Nat → Flags) (write : Warp → Warp) : Out :=
  let w := s.warp
  let all := joinFlags m fl
  let s := s.setGroup (s.group.raise all)
  let bad := w.trapLanes m fl
  if bad = 0 then .next ((s.setWarp (write w)).retire n)
  else .next (s.trap ⟨cFpTrap, bad, 0, w.fpInfo all⟩)

/-- Finish a lane word that raises no flag. -/
def State.finish (s : State) (n : Nat) (write : Warp → Warp) : Out := .next ((s.setWarp (write s.warp)).retire n)

end Sys2Proof.Machine
end

