-- ==== Sys2Proof/Machine/LaneAlu.lean ====
section
/-!
DEFINITION. The integer lane forms: 13 Table 13-3 (LA), R391 (IX) and the predicate forms of R414 (PL).
-/
namespace Sys2Proof.Machine

/-! ## LA, Table 13-3 -/

/-- An LA form that computes one word from A and B in each active lane. -/
def laWordOp (o : LaOps) (s : State) (f : Word → Word → Word) : Out :=
  s.checked o.req <| s.finish o.size fun w =>
    w.wrV o.d.toNat (w.active o.g) (fun l => f (w.getV o.a.toNat l) (w.lsrc o.b l))

def iaddF (a b : Word) : Word := a + b
def isubF (a b : Word) : Word := a - b
def imulF (a b : Word) : Word := a * b
def iaddsF (a b : Word) : Word := wrapWord (clampS 32 (a.toInt + b.toInt))
def isubsF (a b : Word) : Word := wrapWord (clampS 32 (a.toInt - b.toInt))
def minS (a b : Word) : Word := if a.toInt ≤ b.toInt then a else b
def minU (a b : Word) : Word := if a.toNat ≤ b.toNat then a else b
def maxS (a b : Word) : Word := if b.toInt ≤ a.toInt then a else b
def maxU (a b : Word) : Word := if b.toNat ≤ a.toNat then a else b
def andnF (a b : Word) : Word := a &&& ~~~b
def shlF (a b : Word) : Word := if b.toNat < 32 then a <<< b.toNat else 0
def shruF (a b : Word) : Word := if b.toNat < 32 then a >>> b.toNat else 0
/-- For n ≥ 32 every bit equals bit 31 of A. -/
def shrsF (a b : Word) : Word := a.sshiftRight (if b.toNat < 32 then b.toNat else 31)
def rotrF (a b : Word) : Word := a.rotateRight (b.toNat % 32)

def execIadd (o : LaOps) (s : State) : Out := laWordOp o s iaddF
def execIsub (o : LaOps) (s : State) : Out := laWordOp o s isubF
def execImul (o : LaOps) (s : State) : Out := laWordOp o s imulF
def execIadds (o : LaOps) (s : State) : Out := laWordOp o s iaddsF
def execIsubs (o : LaOps) (s : State) : Out := laWordOp o s isubsF
def execIminS (o : LaOps) (s : State) : Out := laWordOp o s minS
def execIminU (o : LaOps) (s : State) : Out := laWordOp o s minU
def execImaxS (o : LaOps) (s : State) : Out := laWordOp o s maxS
def execImaxU (o : LaOps) (s : State) : Out := laWordOp o s maxU
def execAnd (o : LaOps) (s : State) : Out := laWordOp o s (fun a b => a &&& b)
def execOr (o : LaOps) (s : State) : Out := laWordOp o s (fun a b => a ||| b)
def execXor (o : LaOps) (s : State) : Out := laWordOp o s (fun a b => a ^^^ b)
def execAndn (o : LaOps) (s : State) : Out := laWordOp o s andnF
def execShl (o : LaOps) (s : State) : Out := laWordOp o s shlF
def execShrU (o : LaOps) (s : State) : Out := laWordOp o s shruF
def execShrS (o : LaOps) (s : State) : Out := laWordOp o s shrsF
def execRotr (o : LaOps) (s : State) : Out := laWordOp o s rotrF
def execMov (o : LaOps) (s : State) : Out := laWordOp o s (fun _ b => b)

/-! ## IX, R391 -/

/-- An IX form with a word result from A, B and C. -/
def ixWordOp (o : LxOps) (s : State) (f : Word → Word → Word → Word) : Out :=
  s.checked (o.req 1 1 1 1) <| s.finish o.size fun w =>
    w.wrV o.d.toNat (w.active o.g) (fun l => f (w.getV o.a.toNat l) (w.lsrc o.b l) (w.lsrc o.c l))

/-- R391, BFE and BFI: position and length of a control value. -/
def ctlPos (b : Word) : Nat := (b.extractLsb' 0 8).toNat
def ctlLen (b : Word) : Nat := min (b.extractLsb' 8 8).toNat 32

def imulhiSF (a b : Word) : Word := BitVec.ofInt 32 (a.toInt * b.toInt / 2 ^ 32)
def imulhiUF (a b : Word) : Word := BitVec.ofNat 32 (a.toNat * b.toNat / 2 ^ 32)
def bfeUF (a b : Word) : Word :=
  if ctlLen b = 0 || 32 ≤ ctlPos b then 0 else BitVec.ofNat 32 (a.toNat / 2 ^ ctlPos b % 2 ^ ctlLen b)
def bfeSF (a b : Word) : Word :=
  if ctlLen b = 0 || 32 ≤ ctlPos b then 0
  else wrapWord (sextInt (ctlLen b) (wrapNat (ctlLen b) (a.toInt / ((2 ^ ctlPos b : Nat) : Int))))
def bfiMask (b : Word) : Word := BitVec.ofNat 32 ((2 ^ ctlLen b - 1) * 2 ^ ctlPos b)
def bfiF (a b c : Word) : Word := (c &&& ~~~(bfiMask b)) ||| (BitVec.ofNat 32 (a.toNat * 2 ^ ctlPos b) &&& bfiMask b)

/-- PRMT: byte i of the result is chosen by nibble i of the selector among the eight bytes of B:A, or is that byte's
sign replicated. -/
def prmtF (a b c : Word) : Word :=
  let y (i : Nat) : Nat :=
    let n := c.toNat / 16 ^ i % 16
    let v := (b.toNat * 2 ^ 32 + a.toNat) / 256 ^ (n % 8) % 256
    if n < 8 then v else if v < 128 then 0 else 0xFF
  BitVec.ofNat 32 (y 0 + 256 * y 1 + 65536 * y 2 + 16777216 * y 3)

/-- A test of 12 Table 12-3. -/
def intTest (cc : Nat) (a b : Word) : Bool :=
  if cc = 0 then a == b else if cc = 1 then a != b else if cc = 2 then a.toInt < b.toInt
  else if cc = 3 then a.toInt ≤ b.toInt else if cc = 4 then b.toInt < a.toInt else if cc = 5 then b.toInt ≤ a.toInt
  else if cc = 6 then a.toNat < b.toNat else if cc = 7 then a.toNat ≤ b.toNat else if cc = 8 then b.toNat < a.toNat
  else b.toNat ≤ a.toNat

/-- R391, IMAD: the exact sum, clamped with SAT. -/
def imadF (sat : Bool) (a b c : Word) : Word :=
  let x := a.toInt * b.toInt + c.toInt
  wrapWord (if sat then clampS 32 x else x)

def negIf (n : Bool) (a : Word) : Word := if n then -a else a

/-- R391, IADD3: the signed sum of the three (possibly negated) operands, clamped with SAT. -/
def iadd3F (o : LxOps) (a b c : Word) : Word :=
  let x := (negIf o.na a).toInt + (negIf o.nb b).toInt + (negIf o.nc c).toInt
  wrapWord (if o.sat then clampS 32 x else x)

def isadF (sgn : Bool) (a b c : Word) : Word :=
  if sgn then wrapWord (((a.toInt - b.toInt).natAbs : Int) + c.toInt)
  else wrapWord ((((a.toNat : Int) - b.toNat).natAbs : Int) + c.toNat)

def execImulhiS (o : LxOps) (s : State) : Out := ixWordOp o s (fun a b _ => imulhiSF a b)
def execImulhiU (o : LxOps) (s : State) : Out := ixWordOp o s (fun a b _ => imulhiUF a b)
def execImad (o : LxOps) (s : State) : Out := ixWordOp o s (imadF o.sat)
def execBfeU (o : LxOps) (s : State) : Out := ixWordOp o s (fun a b _ => bfeUF a b)
def execBfeS (o : LxOps) (s : State) : Out := ixWordOp o s (fun a b _ => bfeSF a b)
def execBfi (o : LxOps) (s : State) : Out := ixWordOp o s bfiF
def execPopc (o : LxOps) (s : State) : Out := ixWordOp o s (fun a _ _ => BitVec.ofNat 32 (popCount a))
def execClz (o : LxOps) (s : State) : Out := ixWordOp o s (fun a _ _ => BitVec.ofNat 32 (clz32 a))
def execBrev (o : LxOps) (s : State) : Out := ixWordOp o s (fun a _ _ => bitReverse a)
def execPrmt (o : LxOps) (s : State) : Out := ixWordOp o s prmtF
def execLea (o : LxOps) (s : State) : Out := ixWordOp o s (fun a b _ => a + (b <<< o.aux.toNat))
def execIadd3 (o : LxOps) (s : State) : Out := ixWordOp o s (iadd3F o)
def execIsad (o : LxOps) (s : State) : Out := ixWordOp o s (isadF (o.aux == 1))

def execIcmp (o : LxOps) (s : State) : Out :=
  s.checked (o.req 0 1 1 0) <| s.finish o.size fun w =>
    w.wrP o.d.toNat (w.active o.g) (fun l => o.combine w l (intTest o.cc (w.getV o.a.toNat l) (w.lsrc o.b l)))

def execSel (o : LxOps) (s : State) : Out :=
  s.checked (o.req 1 1 1 0) <| s.finish o.size fun w =>
    w.wrV o.d.toNat (w.active o.g) (fun l => if o.c.pred w l then w.getV o.a.toNat l else w.lsrc o.b l)

def execIadd64 (o : LxOps) (s : State) : Out :=
  s.checked (o.req 2 2 2 0) <| s.finish o.size fun w =>
    w.wrV64 o.d.toNat (w.active o.g) (fun l => w.getV64 o.a.toNat l + w.lsrcI64 o.b l)

/-! ## PL, R414 -/

def bool3 (a b c : Bool) : Nat := (if a then 4 else 0) + (if b then 2 else 0) + (if c then 1 else 0)

def execPlop3 (o : LxOps) (s : State) : Out :=
  s.checked {} <| s.finish o.size fun w =>
    w.wrP o.d.toNat (w.active o.g)
      (fun l => o.aux.getLsbD (bool3 (inMask (w.getP o.a.toNat) l) (o.b.pred w l) (o.c.pred w l)))

def execP2v (o : LxOps) (s : State) : Out :=
  s.checked (o.req 1 0 0 0) <| s.finish o.size fun w =>
    w.wrV o.d.toNat (w.active o.g) (fun l =>
      (List.range 7).foldl (fun x i => if inMask (w.getP i) l then x ||| (1#32 <<< i) else x) 0)

def execV2p (o : LxOps) (s : State) : Out :=
  s.checked (o.req 0 1 0 0) <| s.finish o.size fun w =>
    (List.range 7).foldl (fun x i =>
      if o.aux.getLsbD i then x.wrP i (w.active o.g) (fun l => (w.getV o.a.toNat l).getLsbD i) else x) w

end Sys2Proof.Machine
end

