-- ==== Sys2Proof/Machine/Uniform.lean ====
section
/-!
DEFINITION. Uniform arithmetic (12 R355 to R358).
-/
namespace Sys2Proof.Machine

/-- A uniform word whose q guard is false has no effect (R353). -/
def State.guarded (s : State) (q : BitVec 3) (n : Nat) (k : Out) : Out := if s.warp.guard q then k else .next (s.retire n)

/-- A UA form (R355). -/
def uaOp (o : UaOps) (s : State) (f : Word → Word → Word) : Out :=
  s.checked {} <| s.guarded o.q o.size <| s.finish o.size fun w =>
    w.wrS o.d.toNat (f (w.getS o.a.toNat) (w.usrc o.b))

def execUiadd (o : UaOps) (s : State) : Out := uaOp o s iaddF
def execUisub (o : UaOps) (s : State) : Out := uaOp o s isubF
def execUimul (o : UaOps) (s : State) : Out := uaOp o s imulF
def execUminS (o : UaOps) (s : State) : Out := uaOp o s minS
def execUminU (o : UaOps) (s : State) : Out := uaOp o s minU
def execUmaxS (o : UaOps) (s : State) : Out := uaOp o s maxS
def execUmaxU (o : UaOps) (s : State) : Out := uaOp o s maxU
def execUand (o : UaOps) (s : State) : Out := uaOp o s (fun a b => a &&& b)
def execUor (o : UaOps) (s : State) : Out := uaOp o s (fun a b => a ||| b)
def execUxor (o : UaOps) (s : State) : Out := uaOp o s (fun a b => a ^^^ b)
def execUandn (o : UaOps) (s : State) : Out := uaOp o s andnF
def execUshl (o : UaOps) (s : State) : Out := uaOp o s shlF
def execUshrU (o : UaOps) (s : State) : Out := uaOp o s shruF
def execUshrS (o : UaOps) (s : State) : Out := uaOp o s shrsF
def execUmov (o : UaOps) (s : State) : Out := uaOp o s (fun _ b => b)

/-! ## UIX, R357 -/

/-- A UIX form with a word result from av, bv and cv. -/
def uixOp (o : UxOps) (s : State) (f : Word → Word → Word → Word) : Out :=
  s.checked {} <| s.guarded o.q o.size <| s.finish o.size fun w =>
    w.wrS o.d.toNat (f (w.getS o.a.toNat) (w.usrc o.b) (w.csrc o))

def execUimulhiS (o : UxOps) (s : State) : Out := uixOp o s (fun a b _ => imulhiSF a b)
def execUimulhiU (o : UxOps) (s : State) : Out := uixOp o s (fun a b _ => imulhiUF a b)

def execUcmp (o : UxOps) (s : State) : Out :=
  s.checked {} <| s.guarded o.q o.size <| s.finish o.size fun w =>
    w.wrQ o.d.toNat (intTest o.md.toNat (w.getS o.a.toNat) (w.usrc o.b))

def execUsel (o : UxOps) (s : State) : Out :=
  s.checked {} <| s.guarded o.q o.size <| s.finish o.size fun w =>
    w.wrS o.d.toNat (if w.getQ o.c.toNat then w.getS o.a.toNat else w.usrc o.b)

def execUpopc (o : UxOps) (s : State) : Out := uixOp o s (fun a _ _ => BitVec.ofNat 32 (popCount a))
def execUclz (o : UxOps) (s : State) : Out := uixOp o s (fun a _ _ => BitVec.ofNat 32 (clz32 a))
def execUbfeU (o : UxOps) (s : State) : Out := uixOp o s (fun a b _ => bfeUF a b)
def execUbfi (o : UxOps) (s : State) : Out := uixOp o s bfiF

def execUiadd64 (o : UxOps) (s : State) : Out :=
  s.checked { ss := [(o.d.toNat, 2), (o.a.toNat, 2)] ++ o.b.sSpan 2 } <|
    s.guarded o.q o.size <| s.finish o.size fun w => w.wrS64 o.d.toNat (w.getS64 o.a.toNat + w.usrc64 o.b)

def execUlea64 (o : UxOps) (s : State) : Out :=
  s.checked { ss := [(o.d.toNat, 2), (o.a.toNat, 2)] } <|
    s.guarded o.q o.size <| s.finish o.size fun w =>
      let x : Dword := if o.md.getLsbD 0 then (w.usrc o.b).signExtend 64 else (w.usrc o.b).zeroExtend 64
      w.wrS64 o.d.toNat (w.getS64 o.a.toNat + (x <<< o.aux.toNat))

/-- The q predicate a uniform b field names. -/
def uqPred (w : Warp) : USrc → Bool
  | .sreg r => w.getQ r.toNat
  | _ => false

def execUqlop (o : UxOps) (s : State) : Out :=
  s.checked {} <| s.guarded o.q o.size <| s.finish o.size fun w =>
    w.wrQ o.d.toNat (o.aux.getLsbD (bool3 (w.getQ o.a.toNat) (uqPred w o.b) (w.getQ o.c.toNat)))

/-- The v register of URDL and UWRL: a + 64 × MOD [0]. -/
def vmodReg (o : UxOps) : Nat := o.a.toNat + (if o.md.getLsbD 0 then 64 else 0)

def execUrdl (o : UxOps) (s : State) : Out :=
  s.checked { vs := [(vmodReg o, 1)] } <|
    s.guarded o.q o.size <| s.finish o.size fun w => w.wrS o.d.toNat (w.getV (vmodReg o) ((w.usrc o.b).toNat % 32))

def execUwrl (o : UxOps) (s : State) : Out :=
  s.checked { vs := [(vmodReg o, 1)], conv := .live } <|
    s.guarded o.q o.size <| s.finish o.size fun w =>
      w.wrV (vmodReg o) (1#32 <<< ((w.usrc o.b).toNat % 32)) (fun _ => w.csrc o)

end Sys2Proof.Machine
end

