-- ==== Sys2Proof/Machine/Access.lean ====
section
/-!
DEFINITION. Issuing long-latency words (08 R251, 14 R415 to R424): the checks of R418 in order, the parts of an access,
and the issue of LD, ST, ATOM, ULD, UST and UATOM. A part is performed later, by `execAccessPerformed`.
-/
namespace Sys2Proof

/-- Bytes of SIZE codes 0 to 4. -/
def MemFields.nbytes (m : MemFields) : Nat := 2 ^ m.size.toNat

/-- The v and s spans of a memory form: data of n registers and the address. -/
def LmOps.memReq (o : LmOps) (nd nb : Nat) : List (Nat × Nat) :=
  [(o.d.toNat, nd), (o.a.toNat, if o.m.space = 0 then 2 else 1)] ++ (if nb = 0 then [] else o.b.vSpan nb)
def UmOps.memReq (o : UmOps) (nd nb : Nat) : List (Nat × Nat) :=
  [(o.d.toNat, nd), (o.a.toNat, if o.m.space = 0 then 2 else 1)] ++ (if nb = 0 then [] else o.b.sSpan nb)

/-- A plain access is not strict in G space (R417). -/
def MemFields.strict (m : MemFields) : Bool := m.ord != 0

end Sys2Proof

namespace Sys2Proof.Machine

/-! ## Fences (R283, R425) -/

/-- A part that releases and fences cover: it is not on a UO page and has not been performed. -/
def Part.covered (p : Part) : Bool := p.ord != .uo && p.state != .performed && p.state != .failed

/-- Whether an operation is a load, store or atomic with covered parts left (R279, R283). -/
def Op.covered (o : Op) : Bool :=
  match o.body with
  | .access _ => o.parts.any Part.covered
  | _ => false

/-- Some earlier access of a warp that releases and fences cover is not performed. -/
def State.coveredBefore (s : State) (g w order : Nat) : Bool :=
  s.ops.any (fun o => o.owner == .warp g w && o.id < order && o.covered)

/-- The key of the host pages that a hart has written. -/
def hartKey (h : Nat) : Nat := 2 ^ 42 + h

/-- The context of the warp or node that a key of host pages names. -/
def State.keyCtx (s : State) (key : Nat) : Nat :=
  if key < 2 ^ 40 then (s.groupAt (key / 64)).ctx else ((s.node (key - 2 ^ 40)).map (fun n => n.ctx)).getD 0

/-- The PASID of its requests; harts have none (Table 5-10). -/
def State.keyPasid (s : State) (key : Nat) : Nat := if hartKey 0 ≤ key then 2 ^ 20 else s.ctxPasid (s.keyCtx key)

/-- Send the flush of R168: one zero-length read to each host page written since the last one. It carries RO = 0, so that it does
not pass those writes (DEDUCED, log 19). -/
def State.sendFlush (s : State) (key : Nat) : State :=
  (s.hostDirty.filter (fun h => h.1 == key)).foldl (fun s h =>
    let x := s.pod
    let s : State := { s with pod := { x with ext := x.ext ++ [{ id := x.nextExt, kind := .flush key, host := true, ctx := s.keyCtx key,
                                                                   ppa := 2 ^ 58 + h.2 * 4096, len := 0 }],
                                              nextExt := x.nextExt + 1 } }
    s.send .hostFlush [x.nextExt, h.2 * 4096, s.keyPasid key, 0])
    { s with hostDirty := s.hostDirty.filter (fun h => h.1 != key) }

def State.flushing (s : State) (key : Nat) : Bool := s.pod.ext.any (fun e => e.kind == .flush key)

/-- A fence of the current warp, as a memory word meets it: none while it still holds (the state may have sent the
flush), else the state with the fence gone (R283). -/
def State.passFence (s : State) : Bool × State :=
  match s.warp.fence with
  | none => (true, s)
  | some (order, scope) =>
    let key := warpKey s.curG s.curW
    if s.coveredBefore s.curG s.curW order then (false, s)
    else if scope = 5 && s.hostDirty.any (fun h => h.1 == key) then (false, s.sendFlush key)
    else if scope = 5 && s.flushing key then (false, s)
    else
      let s := s.setWarp { s.warp with fence := none }
      (true, if scope ≥ 2 then s.dropCache s.group.coreId else s)

/-! ## Issue (R251) -/

/-- A word that accesses memory: it stalls behind a fence, and a long-latency one whose flag is 63 stalls too. -/
def State.memWord (s : State) (fs : Option Bool) (k : State → Out) : Out :=
  let (go, s) := s.passFence
  if !go then .next (s.stallFor .fence)
  else
    match fs with
    | none => k s
    | some fs =>
      let f := s.warp.clause.flagOf fs
      if f ≠ 15 && s.warp.getF f = 63 then .next (s.stallFor .flag) else k s

/-- Add an operation and count it in its flag. -/
def State.addOp (s : State) (fs : Bool) (ord scope : Nat) (parts : List Part) (body : OpBody) : State :=
  let f := s.warp.clause.flagOf fs
  let o : Op := { id := s.nextOp, owner := .warp s.curG s.curW, flag := f, emask := s.warp.clause.mask, ord := ord, scope := scope, parts := parts, body := body }
  let s : State := { s with ops := s.ops ++ [o], nextOp := s.nextOp + 1 }
  s.setWarp (s.warp.flagUp f)

/-! ## Spaces (R241, R415) -/

/-- Whether every byte of an access lies in its space. -/
def State.inSpace (s : State) (g : Group) (space addr n : Nat) : Bool :=
  if space = 0 then addr + n ≤ 2 ^ 48
  else if space = 1 then addr + n ≤ g.scratch
  else if space = 2 then addr < 2 ^ 22 && addr / 2 ^ 19 < g.gangSize && addr % 2 ^ 19 + n ≤ g.scratch
  else if space = 3 then addr + n ≤ s.kSize g.glade
  else addr + n ≤ g.lanePriv

/-- No group: a rank of a gang that is gone, or a node, which has no scratchpad and names no barrier. -/
def noGroup : Nat := 2 ^ 41

/-- The group that holds a rank of a gang. -/
def State.gangMate (s : State) (gid rank : Nat) : Nat :=
  let g := s.groupAt gid
  if g.rank = rank then gid
  else ((s.groups.find? (fun x => x.2.node == g.node && x.2.gang == g.gang && x.2.rank == rank)).map (fun x => x.1)).getD noGroup

/-- The place of a byte outside G space. -/
def State.placeOf (s : State) (gid wid lane space addr : Nat) : Place :=
  if space = 1 then .scratch gid addr
  else if space = 2 then .scratch (s.gangMate gid (addr / 2 ^ 19)) (addr % 2 ^ 19)
  else if space = 3 then .kspace (s.groupAt gid).glade addr
  else .lanePriv gid ((32 * wid + lane) * 4096 + addr)

/-! ## Parts (R277) -/

/-- Cut a range at 16-byte boundaries: (address, offset within the access, length). -/
def granules : Nat → Nat → Nat → Nat → List (Nat × Nat × Nat)
  | 0, _, _, _ => []
  | fuel + 1, addr, off, n =>
    if n = 0 then []
    else
      let k := min n (16 - addr % 16)
      (addr, off, k) :: granules fuel (addr + k) (off + k) (n - k)

/-- One access of a word: its lane, address, bytes to store, and atomic operands. -/
structure Acc1 where
  lane : Nat
  addr : Nat
  data : List Byte := []
  x : Nat := 0
  cmp : Nat := 0
  deriving DecidableEq, Repr

/-- Translate the granules of one access. -/
def State.probe (s : State) (gid wid space n : Nat) (k : AccKind) (noSeal : Bool) (a : Acc1) : List (Part × XRes) × State :=
  (granules 3 a.addr 0 n).foldl (fun (r : List (Part × XRes) × State) gr =>
    let (addr, off, len) := gr
    let base : Part := { lane := a.lane, addr := addr, len := len, off := off, data := (a.data.drop off).take len,
                         x := a.x, cmp := a.cmp }
    if space = 0 then
      let (x, s) := r.2.translate (s.groupAt gid).ctx addr k n noSeal
      (r.1 ++ [(base, x)], s)
    else (r.1 ++ [(base, .ok (s.placeOf gid wid a.lane space addr) .rc false 0)], r.2)) ([], s)

def State.probeAll (s : State) (gid wid space n : Nat) (k : AccKind) (noSeal : Bool) (as : List Acc1) :
    List (Acc1 × List (Part × XRes)) × State :=
  as.foldl (fun r a =>
    let (ps, s) := r.2.probe gid wid space n k noSeal a
    (r.1 ++ [(a, ps)], s)) ([], s)

/-! ## The checks of R418 -/

/-- Whether one part's page makes a misaligned plain access illegal (R417). -/
def XRes.strongOrder (x : XRes) : Bool :=
  match x with
  | .ok _ .so _ _ => true
  | _ => false

/-- The trap of a failed check: the lanes that fail it, the address of the lowest (Table 8-5). -/
def memTrap (cause space acc : Nat) (bad : List Acc1) : TrapInfo :=
  ⟨cause, maskOf (fun l => bad.any (fun a => a.lane == l)), ((bad.head?).map (fun a => a.addr)).getD 0, space + 16 * acc⟩

/-- Checks 1 to 4 over the accesses of a word, lanes ascending: the trap, or the parts. `strict`: natural alignment is
required (R417). `acc` is the access code of TINFO. -/
def State.checkAccess (s : State) (space n acc : Nat) (strict : Bool) (k : AccKind) (noSeal : Bool) (as : List Acc1) :
    Sum TrapInfo (List (Part × XRes)) × State :=
  let g := s.group
  let out := as.filter (fun a => !s.inSpace g space a.addr n)
  if !out.isEmpty then (.inl (memTrap cSpaceRange space acc out), s)
  else
    let (ps, s) := s.probeAll s.curG s.curW space n k noSeal as
    let bad (f : Acc1 × List (Part × XRes) → Bool) := (ps.filter f).map (fun p => p.1)
    let mis := bad (fun p => (p.1.addr % n != 0 && (strict || space != 0 || p.2.any (fun q => q.2.strongOrder)))
      || p.2.any (fun q => q.2 == .misaligned))
    if !mis.isEmpty then (.inl (memTrap cMisaligned space acc mis), s)
    else
      let mal := bad (fun p => p.2.any (fun q => q.2 == .malformed))
      if !mal.isEmpty then (.inl (memTrap cFatalFault space acc mal), s)
      else
        let den := bad (fun p => p.2.any (fun q => q.2 == .permission))
        if !den.isEmpty then (.inl (memTrap cPermission space acc den), s)
        else (.inr (ps.flatMap (fun p => p.2)), s)

/-- Check 5: park what faults, in lane order (R131, R502). -/
def State.settle (s : State) (ctx agent : Nat) (k : AccKind) (ps : List (Part × XRes)) : List Part × State :=
  ps.foldl (fun r p =>
    match p.2 with
    | .ok pl ord ha tlb => (r.1 ++ [{ p.1 with place := pl, ord := ord, ha := ha, tlb := tlb }], r.2)
    | .park code ppa =>
      let (t, s) := r.2.park ctx p.1.addr code ppa k agent
      (r.1 ++ [{ p.1 with ord := s.ordAt ctx p.1.addr, state := parkState t code }], s)
    | _ => r) ([], s)

/-! ## Operands of the memory forms -/

/-- Registers a datum of n bytes takes. -/
def regsFor (n : Nat) : Nat := if n ≤ 4 then 1 else n / 4

/-- The effective address (R328). -/
def effAddr (space : Nat) (pair : Dword) (low : Word) (off : BitVec 12) : Nat :=
  if space = 0 then (pair + off.signExtend 64).toNat else (low + off.signExtend 32).toNat

def Warp.laneAddr (w : Warp) (o : LmOps) (l : Nat) : Nat :=
  effAddr o.m.space.toNat (w.getV64 o.a.toNat l) (w.getV o.a.toNat l) o.m.off

def Warp.unifAddr (w : Warp) (o : UmOps) : Nat :=
  effAddr o.m.space.toNat (w.getS64 o.a.toNat) (w.getS o.a.toNat) o.m.off

/-- n bytes from lane registers, or from s registers. -/
def Warp.vBytes (w : Warp) (r l n : Nat) : List Byte :=
  ((List.range (regsFor n)).flatMap (fun i => bytesOf 4 (w.getV (r + i) l).toNat)).take n
def Warp.sBytes (w : Warp) (r n : Nat) : List Byte :=
  ((List.range (regsFor n)).flatMap (fun i => bytesOf 4 (w.getS (r + i)).toNat)).take n

/-! ## Loads and stores (R421) -/

/-- Issue an access operation whose accesses have passed checks 1 to 4. -/
def State.issueAccess (s : State) (n : Nat) (m : MemFields) (kind : AccessKind) (k : AccKind) (uniform : Bool) (dst : Nat)
    (ps : List (Part × XRes)) : State :=
  let (parts, s) := s.settle s.group.ctx 0 k ps
  let body : AccessBody := { kind := kind, uniform := uniform, space := m.space.toNat, bytes := m.nbytes, sx := m.sx,
                             policy := m.policy.toNat, dst := dst }
  let s := s.addOp m.fs m.ord.toNat m.scope.toNat parts (if ps.isEmpty then .nothing else .access body)
  let s := if kind == .store && !ps.isEmpty then s.setWarp s.warp.noteStore else s
  s.retire n

/-- The whole issue of a lane or uniform access: checks, trap or operation. The lanes of a uniform access are those of its
entry (Table 8-5). -/
def State.issueMem (s : State) (n : Nat) (m : MemFields) (kind : AccessKind) (k : AccKind) (acc : Nat) (strict uniform : Bool)
    (dst : Nat) (as : List Acc1) : Out :=
  match s.checkAccess m.space.toNat m.nbytes acc strict k (k == .atomic) as with
  | (.inl t, s) => .next (s.trap (if uniform then { t with mask := s.warp.clause.mask } else t))
  | (.inr ps, s) => .next (s.issueAccess n m kind k uniform dst ps)

def execLd (o : LmOps) (s : State) : Out :=
  s.checked { vs := o.memReq (regsFor o.m.nbytes) 0, fs := some o.m.fs } <| s.memWord (some o.m.fs) fun s =>
    s.issueMem o.size o.m .load .read 0 o.m.strict false o.d.toNat
      ((lanesOf (s.warp.active o.g)).map (fun l => { lane := l, addr := s.warp.laneAddr o l }))

def execSt (o : LmOps) (s : State) : Out :=
  s.checked { vs := o.memReq (regsFor o.m.nbytes) 0, fs := some o.m.fs, plainStore := o.m.ord == 0 } <|
    s.memWord (some o.m.fs) fun s =>
      s.issueMem o.size o.m .store .write 1 o.m.strict false 0 ((lanesOf (s.warp.active o.g)).map
        (fun l => { lane := l, addr := s.warp.laneAddr o l, data := s.warp.vBytes o.d.toNat l o.m.nbytes }))

def execUld (o : UmOps) (s : State) : Out :=
  s.checked { ss := o.memReq (regsFor o.m.nbytes) 0, fs := some o.m.fs } <| s.guarded o.q o.size <|
    s.memWord (some o.m.fs) fun s =>
      s.issueMem o.size o.m .load .read 0 o.m.strict true o.d.toNat [{ lane := s.warp.low, addr := s.warp.unifAddr o }]

def execUst (o : UmOps) (s : State) : Out :=
  s.checked { ss := o.memReq (regsFor o.m.nbytes) 0, fs := some o.m.fs, plainStore := o.m.ord == 0, conv := .live } <|
    s.guarded o.q o.size <| s.memWord (some o.m.fs) fun s =>
      s.issueMem o.size o.m .store .write 1 o.m.strict true 0
        [{ lane := s.warp.low, addr := s.warp.unifAddr o, data := s.warp.sBytes o.d.toNat o.m.nbytes }]

/-! ## Atomics (R422) -/

/-- The operand span of an atomic (Table 14-3). -/
def atomRegs (aop n : Nat) : Nat := if aop = 9 then 2 * regsFor n else regsFor n

/-- The operands (x or the new value, and the compare value) from a list of words. -/
def atomOperands (aop n : Nat) (ws : List Word) : Nat × Nat :=
  let v (l : List Word) := ofBytes ((l.flatMap (fun w => bytesOf 4 w.toNat)).take n)
  let k := regsFor n
  if aop = 9 then (v ((ws.drop k).take k), v (ws.take k)) else (v (ws.take k), 0)

def execAtom (o : LmOps) (s : State) : Out :=
  let n := o.m.nbytes
  let k := atomRegs o.m.aop.toNat n
  s.checked { vs := o.memReq (regsFor n) k, fs := some o.m.fs } <| s.memWord (some o.m.fs) fun s =>
    let w := s.warp
    let words (l : Nat) : List Word :=
      match o.b with
      | .vreg r => (List.range k).map (fun i => w.getV (r.toNat + i) l)
      | b => [w.lsrc b l]
    s.issueMem o.size o.m (.atomic o.m.aop.toNat) .atomic 2 true false o.d.toNat
      ((lanesOf (w.active o.g)).map (fun l =>
        let p := atomOperands o.m.aop.toNat n (words l)
        { lane := l, addr := w.laneAddr o l, x := p.1, cmp := p.2 }))

def execUatom (o : UmOps) (s : State) : Out :=
  let n := o.m.nbytes
  let k := atomRegs o.m.aop.toNat n
  s.checked { ss := o.memReq (regsFor n) k, fs := some o.m.fs, conv := .live } <| s.guarded o.q o.size <|
    s.memWord (some o.m.fs) fun s =>
      let w := s.warp
      let words : List Word :=
        match o.b with
        | .sreg r => (List.range k).map (fun i => w.getS (r.toNat + i))
        | b => [w.usrc b]
      let p := atomOperands o.m.aop.toNat n words
      s.issueMem o.size o.m (.atomic o.m.aop.toNat) .atomic 2 true true o.d.toNat
        [{ lane := w.low, addr := w.unifAddr o, x := p.1, cmp := p.2 }]

end Sys2Proof.Machine
end

