-- ==== Sys2Proof/Machine/Convert.lean ====
section
/-!
DEFINITION. Conversions between formats (10 R306, R307, 13 R400, R401) and block records (10 R295 to R297).
-/
namespace Sys2Proof.Machine

/-- R306: a NaN keeps its sign and the top bits of its mantissa, and is quiet. -/
def convertNan (src dst : Fmt) (x : Nat) : Nat :=
  if dst.e4m3 then dst.withSign (src.neg x) 0x7F
  else
    let fr := x % 2 ^ src.mbits
    let fr' := if src.mbits ≤ dst.mbits then fr * 2 ^ (dst.mbits - src.mbits) else fr / 2 ^ (src.mbits - dst.mbits)
    dst.withSign (src.neg x) (dst.quiet (dst.infCode + fr'))

/-- A finite or infinite exact value to a floating-point format under R306; the last component counts a clamp. -/
def convertVal (dst : Fmt) (md : FpMode) (v : FVal) : Nat × Flags × Bool :=
  match v with
  | .nan _ => (dst.nan, {}, false)
  | .inf n =>
    if dst.e4m3 then
      if md.satn then (dst.withSign n dst.maxCode, { ms := true }, true)
      else (dst.withSign n dst.infCode, { iv := true }, false)
    else (dst.withSign n dst.infCode, {}, false)
  | .fin n m e =>
    if m = 0 then (dst.withSign n 0, {}, false)
    else
      let (c, fl, big) := dst.round md.rm n m e false
      if big && md.satn then (dst.withSign n dst.maxCode, { ms := true, nx := true }, true)
      else
        let (c, fl) := dst.flushOut md (c, fl)
        (c, fl, false)

/-- Floating point to floating point (R306, R401). -/
def convertFloat (src dst : Fmt) (md : FpMode) (x : Nat) : Nat × Flags × Bool :=
  let x := src.flushIn md x
  match src.unpack x with
  | .nan s => (convertNan src dst x, { iv := s }, false)
  | v => convertVal dst md v

/-- A finite or infinite exact value to an integer in lo … hi (R307): beyond the range it is clamped. -/
def roundToInt (rm : Rnd) (lo hi : Int) (v : FVal) : Int × Flags × Bool :=
  match v with
  | .nan _ => (0, { iv := true }, false)
  | .inf n => (if n then lo else hi, { iv := true, ms := true }, true)
  | .fin n m e =>
    let (k, inexact) := if m = 0 then (0, false) else
      -- a magnitude far above the range rounds to itself
      if e > 128 then (2 ^ 128, false) else if e < -2400 then roundAt rm n 1 (-2400) true 0 else roundAt rm n m e false 0
    let r : Int := if n then -(k : Int) else k
    if r < lo then (lo, { iv := true, ms := true }, true)
    else if r > hi then (hi, { iv := true, ms := true }, true)
    else (r, { nx := inexact }, false)

/-- Floating point to integer (R307, R401). -/
def convertToInt (src : Fmt) (md : FpMode) (lo hi : Int) (x : Nat) : Int × Flags × Bool :=
  roundToInt md.rm lo hi (src.unpack (src.flushIn md x))

/-- Integer to floating point (R307, R401): it rounds under R298 and overflows under R299. -/
def convertFromInt (dst : Fmt) (md : FpMode) (x : Int) : Nat × Flags :=
  if x = 0 then (0, {}) else dst.result md (x < 0) x.natAbs 0 false

/-- The formats of 13 Table 13-10. -/
def cvtFmt (c : Nat) : Option Fmt :=
  if c = 0 then some .f32 else if c = 1 then some .f16 else if c = 2 then some .bf16 else if c = 3 then some .e4m3Fmt
  else if c = 4 then some .e5m2Fmt else if c = 8 then some .f64 else none

/-- The range of an integer format of Table 13-10. -/
def cvtRange (c : Nat) : Int × Int :=
  if c = 5 then (-128, 127) else if c = 6 then (-2147483648, 2147483647) else (0, 4294967295)

/-- The register bits a format of Table 13-10 takes. -/
def cvtBits (c : Nat) : Nat :=
  if c = 0 || c = 6 || c = 7 then 32 else if c = 1 || c = 2 then 16 else if c = 8 then 64 else 8

/-- The value of an integer source of Table 13-10. -/
def cvtInt (c x : Nat) : Int := if c = 5 then sextInt 8 x else if c = 6 then sextInt 32 x else ((x % 2 ^ 32 : Nat) : Int)

/-- `CVT` of one element (R401): source and destination codes, SAT, the source bits; the result bits and flags. -/
def convert (md : FpMode) (dst src : Nat) (sat : Bool) (x : Nat) : Nat × Flags :=
  match cvtFmt src, cvtFmt dst with
  | some s, some d =>
    let (c, fl, _) := convertFloat s d md (x % 2 ^ cvtBits src)
    (c, fl)
  | some s, none =>
    let (lo, hi) := cvtRange dst
    let (r, fl, _) := convertToInt s md lo hi (x % 2 ^ cvtBits src)
    (wrapNat (cvtBits dst) r, fl)
  | none, some d => convertFromInt d md (cvtInt src x)
  | none, none =>
    let v := cvtInt src x
    let (lo, hi) := cvtRange dst
    if lo ≤ v && v ≤ hi then (wrapNat (cvtBits dst) v, {})
    else if sat then (wrapNat (cvtBits dst) (if v < lo then lo else hi), { ms := true })
    else (wrapNat (cvtBits dst) v, {})

/-! ## Block records -/

/-- The m of Table 10-2: BSE2, BSE4, BSE7. -/
def blockM (k : Nat) : Nat := if k = 0 then 2 else if k = 1 then 4 else 7

/-- The record's length in bytes (Table 10-2). -/
def blockBytes (k : Nat) : Nat := if k = 0 then 8 else if k = 1 then 12 else 18

/-- A magnitude m × 2^e rounded to nearest even in units of 2^q. -/
def rneAt (m : Nat) (e q : Int) : Nat :=
  if m = 0 then 0 else if e + bitLen m < q - 1 then 0 else (roundAt .rne false m e false q).1

/-- The exact value of a finite element. -/
def FVal.mant : FVal → Nat
  | .fin _ m _ => m
  | _ => 0

def FVal.expo : FVal → Int
  | .fin _ _ e => e
  | _ => 0

def FVal.sign : FVal → Bool
  | .fin n _ _ => n
  | .inf n => n
  | .nan _ => false

def FVal.isNanV : FVal → Bool
  | .nan _ => true
  | _ => false

def FVal.isInfV : FVal → Bool
  | .inf _ => true
  | _ => false

/-- ⌊log2⌋ of a nonzero finite magnitude. -/
def FVal.log2 (v : FVal) : Int := v.expo + bitLen v.mant - 1

/-- Whether |m1 × 2^e1| equals m2 × 2^e2. -/
def sameMag (m1 : Nat) (e1 : Int) (m2 : Nat) (e2 : Int) : Bool := (addExact false m1 e1 true m2 e2).1 == 0

/-- An encoded record: its bytes as one little-endian number, the flags, and which elements were clamped. -/
structure BlockOut where
  code : Nat
  fl : Flags
  clamps : List Bool
  deriving DecidableEq, Repr

/-- R297: encode 16 values into a record of format k. `satn` is SATNARROW. -/
def blockEncode (k : Nat) (satn : Bool) (vs : List FVal) : BlockOut :=
  let m := blockM k
  let anyNan := vs.any FVal.isNanV
  let anyInf := vs.any FVal.isInfV
  let anySnan := vs.any (fun v => v == .nan true)
  if anyNan || (anyInf && !satn) then ⟨0xFF, { iv := anyInf || anySnan }, vs.map (fun _ => false)⟩
  else
    -- an infinity is clamped to the record's largest value, (2^m − 1) / 2^(m−1) × 2^(254−127)
    let clampedInf := vs.map FVal.isInfV
    let ws := vs.map (fun v => if v.isInfV then FVal.fin v.sign (2 ^ m - 1) (127 - (m - 1 : Nat)) else v)
    let nz := ws.filter (fun v => v.mant != 0)
    let e : Int := nz.foldl (fun a v => if v.log2 > a then v.log2 else a) (-100000)
    let carried := nz.any (fun v => rneAt v.mant v.expo (e - m + 1) == 2 ^ m)
    let x0 : Int := if nz.isEmpty then 0 else (if carried then e + 1 else e) + 127
    if x0 > 254 && !satn then ⟨0xFF, { ovf := true, nx := true }, vs.map (fun _ => false)⟩
    else
      let hiClamp := x0 > 254
      let x : Nat := (if x0 > 254 then 254 else if x0 < 0 then 0 else x0).toNat
      let q (u : Nat) : Int := (x : Int) - 127 - u - (m - 1 : Nat)
      let fits (v : FVal) : Bool := rneAt v.mant v.expo (q 1) ≤ 2 ^ m - 1
      let us : List Nat := (List.range 8).map (fun j =>
        if fits (ws.getD (2 * j) (.fin false 0 0)) && fits (ws.getD (2 * j + 1) (.fin false 0 0)) then 1 else 0)
      let el (i : Nat) : Nat × Bool × Bool × Bool :=  -- mag, clamped by the min, inexact, underflow
        let v := ws.getD i (.fin false 0 0)
        let qi := q (us.getD (i / 2) 0)
        let r := rneAt v.mant v.expo qi
        let mag := if r > 2 ^ m - 1 then 2 ^ m - 1 else r
        (mag, r > 2 ^ m - 1, !sameMag v.mant v.expo mag qi, v.mant != 0 && mag == 0)
      let els := (List.range 16).map el
      let stream := (List.range 16).foldl (fun s i =>
        let (mag, _, _, _) := els.getD i (0, false, false, false)
        s + ((if (ws.getD i (.fin false 0 0)).sign then 1 else 0) + 2 * mag) * 2 ^ ((m + 1) * i)) 0
      let micro := (List.range 8).foldl (fun s j => s + us.getD j 0 * 2 ^ j) 0
      let clamps := (List.range 16).map (fun i =>
        clampedInf.getD i false || (hiClamp && (els.getD i (0, false, false, false)).2.1))
      ⟨x + 256 * micro + 65536 * stream,
       { nx := els.any (fun t => t.2.2.1), uf := els.any (fun t => t.2.2.2), ms := hiClamp || clampedInf.any id }, clamps⟩

/-- R296: element i of a record (its bytes as one little-endian number). X = 0xFF reads as quiet NaNs. -/
def blockElem (k : Nat) (rec i : Nat) : FVal :=
  let m := blockM k
  let x := rec % 256
  if x = 0xFF then .nan false
  else
    let u := rec / 2 ^ (8 + i / 2) % 2
    let f := rec / 65536 / 2 ^ ((m + 1) * i) % 2 ^ (m + 1)
    .fin (f % 2 == 1) (f / 2) ((x : Int) - 127 - u - (m - 1 : Nat))

/-- A block element as the FP32 value it is (R413): the conversion is exact; a NaN is the default NaN. -/
def blockToF32 (v : FVal) : Nat :=
  match v with
  | .nan _ => Fmt.f32.nan
  | .inf n => Fmt.f32.withSign n Fmt.f32.infCode
  | .fin n m e => if m = 0 then Fmt.f32.withSign n 0 else (Fmt.f32.round .rne n m e false).1

end Sys2Proof.Machine
end

