-- ==== Sys2Proof/Machine/ArrayMath.lean ====
section
/-!
DEFINITION. The arithmetic of the systolic array (10 R313 to R318, 15 R450, R451, R456, R460), as functions of rows.
-/
namespace Sys2Proof.Machine

/-! ## Elements (Table 15-3) -/

/-- Bytes of a row of 32 elements. -/
def mxRowBytes (c : Nat) : Nat :=
  if c ≤ 1 then 64 else if c ≤ 4 then 32 else if c = 5 then 16 else if c = 6 then 24 else if c = 7 then 36 else 128

def mxFmt (c : Nat) : Option Fmt :=
  if c = 0 then some .bf16 else if c = 1 then some .f16 else if c = 2 then some .e4m3Fmt else if c = 3 then some .e5m2Fmt
  else if c = 8 then some .f32 else none

/-- The allowed pairs of R450. -/
def mxPair (w a : Nat) : Bool := if w = 4 || a = 4 then w == 4 && a == 4 else w ≤ 7 && a ≤ 7

/-- Element i of a row. -/
def mxElem (c : Nat) (row : List Byte) (i : Nat) : FVal :=
  match mxFmt c with
  | some f =>
    let n := mxRowBytes c / 32
    f.unpack (ofBytes ((row.drop (n * i)).take n))
  | none =>
    if c = 4 then
      let x := sextInt 8 (ofBytes ((row.drop i).take 1))
      .fin (x < 0) x.natAbs 0
    else
      let n := blockBytes (c - 5)
      blockElem (c - 5) (ofBytes ((row.drop (n * (i / 16))).take n)) (i % 16)

def mxRow (c : Nat) (row : List Byte) : List FVal := (List.range 32).map (mxElem c row)

/-! ## A column value (R313, R315) -/

/-- The exact product of two values; the Bool is an invalid 0 × ∞. -/
def exactMul (a b : FVal) : FVal × Bool :=
  match a, b with
  | .nan s, _ => (.nan s, false)
  | _, .nan s => (.nan s, false)
  | .inf n, .fin n' m _ => if m = 0 then (.nan false, true) else (.inf (n != n'), false)
  | .fin n m _, .inf n' => if m = 0 then (.nan false, true) else (.inf (n != n'), false)
  | .inf n, .inf n' => (.inf (n != n'), false)
  | .fin n m e, .fin n' m' e' => (.fin (n != n') (m * m') (e + e'), false)

/-- ⌊v / 2^q⌋ of a finite value (truncation toward −∞). -/
def floorAt (v : FVal) (q : Int) : Int :=
  match v with
  | .fin n m e =>
    let x : Int := if n then -(m : Int) else m
    if q ≤ e then x * 2 ^ (e - q).toNat else x.fdiv (2 ^ (q - e).toNat)
  | _ => 0

/-- c and qe of R313 over the nonzero finite products. -/
def alignSum (isInt : Bool) (ps : List FVal) : Int × Int :=
  let nz := ps.filter (fun p => p.mant != 0)
  match nz with
  | [] => (0, 0)
  | p :: t =>
    let q : Int := if isInt then 0 else t.foldl (fun e x => if e < x.log2 then x.log2 else e) p.log2 - 26
    (nz.foldl (fun c x => c + floorAt x q) 0, q)

/-- The default NaN of FP32. -/
def nan32 : Nat := 0x7FC00000

/-- One column value from the pairs of its alignment group, with its flags (IV, OF). -/
def columnValue (isInt : Bool) (pairs : List (FVal × FVal)) (sigma : Nat) : Nat × Flags :=
  let ps := pairs.map (fun p => exactMul p.1 p.2)
  let pos := ps.any (fun p => p.1 == .inf false)
  let neg := ps.any (fun p => p.1 == .inf true)
  let iv := ps.any (fun p => p.2) || (pos && neg)
  if ps.any (fun p => p.1.isNanV) || (pos && neg) then (nan32, { iv := iv })
  else
    let v : FVal :=
      if pos || neg then .inf neg
      else
        let (c, q) := alignSum isInt (ps.map (fun p => p.1))
        .fin (c < 0) c.natAbs q
    match exactMul v (Fmt.f32.unpack sigma) with
    | (.nan _, inv) => (nan32, { iv := inv })
    | (.inf n, _) => (Fmt.f32.withSign n Fmt.f32.infCode, {})
    | (.fin n m e, _) =>
      if m = 0 then (Fmt.f32.withSign n 0, {})
      else
        let (x, fl, _) := Fmt.f32.round .rne n m e false
        (x, { ovf := fl.ovf })

/-- One stream row: the new accumulator row, the flags, and the column of the first element that became NaN. -/
def mmsRow (isInt ovw : Bool) (row : List FVal) (weights : List (List FVal)) (group : List Nat) (sigma : Nat)
    (acc : List Nat) : List Nat × Flags × Option Nat :=
  let one (j e : Nat) : Nat × Flags :=
    let (c, fl) := columnValue isInt
      (group.map (fun k => (row.getD k (.fin false 0 0), (weights.getD k []).getD j (.fin false 0 0)))) sigma
    if ovw then (c, fl)
    else
      let (x, g) := Fmt.f32.add FpMode.plain e c
      (x, fl.or { iv := g.iv, ovf := g.ovf })
  let out := (List.range 32).map (fun j => one j (acc.getD j 0))
  let fl := out.foldl (fun (f : Flags) x => f.or x.2) {}
  let ev := (List.range 32).find? (fun j => Fmt.f32.isNan ((out.getD j (0, {})).1) && !Fmt.f32.isNan (acc.getD j 0))
  (out.map (fun x => x.1), { fl with mn := fl.mn || ev.isSome }, ev)

/-! ## A drained row (R316 to R318, R460) -/

/-- FMODE as a drain captured it. -/
def drainMode (fm : BitVec 9) (ofmt : Nat) : FpMode where
  rm := Rnd.ofCode (fm.extractLsb' 0 2).toNat
  ftzi := false
  ftzo := fm.getLsbD 3
  satn := fm.getLsbD 4 && ofmt != 8

/-- The flags a drain may set. -/
def Flags.drain (f : Flags) : Flags := { f with uf := false, nx := false }

/-- Whether an element or its scale is a signalling NaN (R303). -/
def drainSnan (oscale x : Nat) : Bool := Fmt.f32.isSnan x || Fmt.f32.isSnan oscale

/-- One element of a drain: its code, flags, whether it was clamped, and whether it is a new NaN. -/
def drainElem (md : FpMode) (ofmt oscale x : Nat) : Nat × Flags × Bool × Bool :=
  let f := Fmt.f32
  let p := exactMul (f.unpack x) (f.unpack oscale)
  match mxFmt ofmt with
  | none =>
    let (k, fl, cl) := roundToInt md.rm (-128) 127 p.1
    (wrapNat 8 k, { fl with iv := fl.iv || drainSnan oscale x }, cl, false)
  | some dst =>
    let r : Nat × Flags × Bool :=
      if f.isNan x then (convertNan f dst x, { iv := f.isSnan x }, false)
      else if f.isNan oscale then (convertNan f dst oscale, { iv := f.isSnan oscale }, false)
      else if p.2 then (dst.nan, { iv := true }, false)
      else convertVal dst md p.1
    (r.1, { r.2.1 with iv := r.2.1.iv || drainSnan oscale x }, r.2.2, dst.isNan r.1 && !f.isNan x)

/-- A drained row of 32 accumulator elements: its bytes, flags, the clamps it counts, and the first new NaN. -/
def drainRow (md : FpMode) (ofmt oscale : Nat) (row : List Nat) : List Byte × Flags × Nat × Option Nat :=
  if 5 ≤ ofmt && ofmt ≤ 7 then
    let half (h : Nat) : BlockOut × Bool :=
      let ps := ((row.drop (16 * h)).take 16).map (fun x => exactMul (Fmt.f32.unpack x) (Fmt.f32.unpack oscale))
      (blockEncode (ofmt - 5) md.satn (ps.map (fun p => p.1)), ps.any (fun p => p.2) || ((row.drop (16 * h)).take 16).any (drainSnan oscale))
    let a := half 0
    let b := half 1
    let n := blockBytes (ofmt - 5)
    let bad (h : BlockOut) (lo : Nat) : Option Nat :=
      if h.code % 256 = 0xFF then (List.range 16).map (fun i => lo + i) |>.find? (fun j => !Fmt.f32.isNan (row.getD j 0)) else none
    let ev := (bad a.1 0).or (bad b.1 16)
    (bytesOf n a.1.code ++ bytesOf n b.1.code, { (a.1.fl.or b.1.fl).drain with iv := a.1.fl.iv || b.1.fl.iv || a.2 || b.2, mn := ev.isSome },
      ((a.1.clamps ++ b.1.clamps).filter id).length, ev)
  else
    let es := row.map (drainElem md ofmt oscale)
    let w := mxRowBytes ofmt / 32
    let ev := (List.range 32).find? (fun j => (es.getD j (0, {}, false, false)).2.2.2)
    (es.flatMap (fun e => bytesOf w e.1), { (es.foldl (fun (f : Flags) e => f.or e.2.1) {}).drain with mn := ev.isSome },
      (es.filter (fun e => e.2.2.1)).length, ev)

end Sys2Proof.Machine
end

