-- ==== Sys2Proof/Machine/System.lean ====
section
/-!
DEFINITION. The system forms of major 0x20 (12 R365 to R374; 14 R425 to R427).
-/
namespace Sys2Proof.Machine

/-! ## Traps, breakpoints and the return from a trap -/

/-- R365: TPC resumes after the two words of the instruction; as the last of its clause, at the next header. -/
def Clause.afterTrap (c : Clause) : Word :=
  let pc := c.pc + 2
  if c.len ≤ (pc - c.hdr - 1).toNat then tpcOf c.next c.next else tpcOf c.hdr pc

/-- USER_TRAP and BREAKPOINT (R365, R260). -/
def State.softTrap (s : State) (cause info : Nat) : State :=
  let c := s.warp.clause
  s.takeTrap c.hdr c.resume c.mask ⟨cause, c.mask, 0, info⟩ c.afterTrap

def execTrap (o : UxOps) (s : State) : Out :=
  s.checked {} <| s.guarded o.q o.size <| .next (s.softTrap cUserTrap o.aux.toNat)

def execBrkpt (o : UxOps) (s : State) : Out :=
  s.checked {} <| s.guarded o.q o.size <| .next (s.softTrap cBreakpoint 0)

/-- The handler is left; a clause with YLD yields after it (R256). -/
def State.doEret (s : State) : State :=
  let y := s.warp.clause.yld
  let s := s.setWarp s.warp.eret
  if y then s.yieldNow else s

/-- `ERET` (R262, R367): outside a handler ILLEGAL_OP; from an entry that lacks a live lane of the handler DIVERGED; to a
word outside its clause ILLEGAL_CLAUSE. It waits until the header it names is in instruction memory. -/
def execEret (o : UxOps) (s : State) : Out :=
  s.checked {} <|
    if !s.warp.guard o.q then .next (s.closeClause [(s.warp.clause.next, s.warp.clause.mask, false)])
    else if s.warp.handler.isNone then .next (s.illegal 8)
    else if s.warp.hfront.length != 1 then .next (s.trapEntry cDiverged 0)
    else
      let hdr : CodeAddr := s.warp.tpc.extractLsb' 16 16
      let word : CodeAddr := s.warp.tpc.extractLsb' 0 16
      let cancel := (s.warp.handler.map (fun h => h.cause)) == some cCancelled
      if cancel || word = hdr then .next s.doEret
      else
        match s.imemWord s.group hdr with
        | none =>
          if s.group.loaded hdr then .next (s.stallFor .imem) else .next (s.trapEntry cIllegalClause 6)
        | some h =>
          if (Header.ofWord h).len < (word - hdr).toNat then .next (s.trapEntry cIllegalClause 6)
          else .next s.doEret

/-! ## Service calls (R366) -/

def execSvc (o : UxOps) (s : State) : Out :=
  s.checked { ss := [(o.a.toNat, 8), (o.d.toNat, 4)], fs := some o.fs, conv := .live } <| s.guarded o.q o.size <|
    let num := (s.warp.usrc o.b).toNat % 65536
    if 0xFF00 ≤ num then .next (s.illegal 7)
    else
      let f := s.warp.clause.flagOf o.fs
      if f ≠ 15 && s.warp.getF f = 63 then .next (s.stallFor .flag)
      else
        let g := s.group
        let args := (List.range 8).map (fun i => s.warp.getS (o.a.toNat + i))
        match s.takeTag (.op s.nextOp) num g.ctx g.coreId (s.warp.subcore + 4 * s.curW) args with
        | none => .next (s.stallFor .tag)
        | some s' =>
          let tag := (s'.host.tags.getLast?.map (fun t => t.1)).getD 0
          .next ((s'.addOp o.fs 0 0 [] (.svc { tag := tag, dreg := o.d.toNat, sreg := o.c.toNat })).retire o.size)

/-! ## Special registers (Table 8-3) -/

/-- The registers of two words. -/
def wideSreg (i : Nat) : Bool := i == 24 || i == 26 || i == 27

/-- FLAGCNT. -/
def Warp.flagCnt (w : Warp) : Nat :=
  (List.range 12).foldl (fun n i => n + (if w.getF i = 0 then 0 else 2 ^ i) + 4096 * w.getF i) 0

/-- FRONT. -/
def Warp.frontReg (w : Warp) : Nat := w.front.length + 256 * w.clause.prio + (if w.clause.d then 16384 else 0)

/-- The lanes of a CPA command in the order it writes them: ascending destination, then lane (R289, R435). -/
def insertLane (x : CpaLane) : List CpaLane → List CpaLane
  | [] => [x]
  | y :: t => if x.dst < y.dst then x :: y :: t else y :: insertLane x t
def CpaBody.ordered (b : CpaBody) : List CpaLane := b.lanes.foldl (fun l x => insertLane x l) []

/-- From the lowest destination address, the bytes written without a gap, and the full span (R437). -/
def CpaBody.low (b : CpaBody) : Nat := (b.ordered.head?.map (fun l => l.dst)).getD 0
def CpaBody.span (b : CpaBody) : Nat :=
  match b.ordered.getLast? with
  | none => 0
  | some l => l.dst + b.bytes - b.low
def CpaBody.prefix (b : CpaBody) : Nat :=
  match b.ordered.find? (fun l => !l.done || l.failed) with
  | none => b.span
  | some l => l.dst - b.low

/-- The incomplete commands of a group's channel, oldest first. -/
def State.chanOps (s : State) (g ch : Nat) : List (Op × CpaBody) :=
  s.ops.filterMap (fun o =>
    match o.body with
    | .cpa b => if o.ofGroup g && b.chan == ch then some (o, b) else none
    | _ => none)

/-- WPOSk (R437). -/
def State.wpos (s : State) (g ch : Nat) : Nat :=
  match s.chanOps g ch with
  | (_, b) :: _ => b.seq % 256 * 2 ^ 24 + b.prefix % 2 ^ 24
  | [] =>
    let c := Map.get {} (s.groupAt g).chans ch
    if c.issued = 0 then 0 else c.lastSeq % 256 * 2 ^ 24 + c.lastSpan % 2 ^ 24

/-- The key of the quadrant of a sub-core. -/
def quadKey (core k : Nat) : Nat := 4 * core + k

/-- The watermark a quadrant shows (R457): its oldest incomplete MMS, else the last completed one. -/
def Quad.watermark (q : Quad) : Awm :=
  (q.queue.findSome? (fun c =>
    match c.body with
    | .mms d => some { seq := d.seq, row0 := d.row0, final := c.row : Awm }
    | _ => none)).getD q.awm

/-- AWMk (R457). -/
def State.awm (s : State) (g k : Nat) : Nat :=
  let core := (s.groupAt g).coreId
  let q := s.quadAt (quadKey core k)
  let evenQ := s.quadAt (quadKey core (k / 2 * 2))
  let a := q.watermark
  if q.holder != some g || (k % 2 == 1 && evenQ.fused) then 0
  else a.seq % 256 * 2 ^ 24 + a.row0 * 2 ^ 15 + a.final

/-- A special register's value for the issuing warp, lane 0's LANEID. -/
def State.sregNow (s : State) (i : Nat) : Nat :=
  let g := s.group
  let w := s.warp
  if i = 0 then 0 else if i = 1 then s.curW else if i = 2 then w.subcore else if i = 3 then g.coreId
  else if i = 4 then g.coreId / 8
  else if i = 5 then (match w.role with | .c => 0 | .m => 1 | .v => 2)
  else if i = 6 then g.nwarps
  else if i = 7 then g.idx.1 else if i = 8 then g.idx.2.1 else if i = 9 then g.idx.2.2
  else if i = 10 then g.dim.1 else if i = 11 then g.dim.2.1 else if i = 12 then g.dim.2.2
  else if i = 13 then g.launchId else if i = 14 then g.jobId else if i = 15 then g.phaseId
  else if i = 16 then w.fmode.toNat else if i = 17 then w.part else if i = 18 then g.gnstat.toNat
  else if i = 19 then g.glade else if i = 20 then g.ctx
  else if i = 21 then w.tcause.toNat else if i = 22 then w.tpc.toNat else if i = 23 then w.tmask.toNat
  else if i = 24 then w.taddr.toNat else if i = 25 then w.tinfo.toNat
  else if i = 28 then w.flagCnt else if i = 29 then w.frontReg
  else if 30 ≤ i && i ≤ 37 then s.wpos s.curG (i - 30)
  else if 38 ≤ i && i ≤ 41 then s.awm s.curG (i - 38)
  else if i = 42 then g.rank else if i = 43 then g.gangSize else if i = 44 then g.nodeId
  else 0

/-- CLOCK: the core's cycles, after some more have passed (DESIGN CHOICE, log 10). -/
def State.readClock (s : State) : Nat × State :=
  let core := s.group.coreId
  let c := Map.get 0 s.clocks core + Config.elapsed s.tick
  (((c : Int) + s.group.clockAdd).toNat % 2 ^ 64, { s with clocks := Map.set 0 s.clocks core c, tick := s.tick + 1 })

/-- A read of special register i: one for the whole issue (R368). -/
def State.readSreg (s : State) (i : Nat) : Nat × State :=
  if i = 26 then s.readClock
  else if i = 27 then s.tstamp s.group.fn
  else (s.sregNow i, s)

/-- An index that no register has traps whatever the guard (R247, R338; log 85). -/
def execSrd (o : UxOps) (s : State) : Out :=
  let i := (o.aux.extractLsb' 0 6).toNat
  let n := if wideSreg i then 2 else 1
  let lane := o.md.getLsbD 0
  let d := o.d.toNat + (if o.md.getLsbD 1 then 64 else 0)
  s.checked (if lane then { vs := [(d, n)] } else { ss := [(d, n)] }) <|
    if 45 ≤ i then .next (s.illegal 6)
    else s.guarded o.q o.size <|
      let (x, s) := s.readSreg i
      let v := BitVec.ofNat 64 x
      s.finish o.size fun w =>
        if lane then
          (if i = 0 then w.wrV d w.clause.mask (fun l => BitVec.ofNat 32 l)
           else if n = 2 then w.wrV64 d w.clause.mask (fun _ => v) else w.wrV d w.clause.mask (fun _ => loOf v))
        else if n = 2 then w.wrS64 d v else w.wrS d (loOf v)

/-- The tile sizes PART accepts (R243). -/
def partOk (x : Nat) : Bool := x == 2 || x == 4 || x == 8 || x == 16 || x == 32

/-- Registers that `SWR` may write (R247): FMODE, PART, GNSTAT, and the trap registers inside a handler. -/
def swrOk (i : Nat) (inHandler : Bool) : Bool := (16 ≤ i && i ≤ 18) || (21 ≤ i && i ≤ 25 && inHandler)

/-- Write a special register (R369); a GNSTAT write clears the bits it names (R248). -/
def State.writeSreg (s : State) (i : Nat) (x : Dword) : State :=
  let w := s.warp
  let lo := loOf x
  if i = 16 then s.setWarp { w with fmode := lo.extractLsb' 0 9 }
  else if i = 17 then s.setWarp { w with part := lo.toNat }
  else if i = 18 then s.setGroup { s.group with gnstat := s.group.gnstat &&& ~~~(lo.extractLsb' 0 8) }
  else if i = 21 then s.setWarp { w with tcause := lo }
  else if i = 22 then s.setWarp { w with tpc := lo }
  else if i = 23 then s.setWarp { w with tmask := lo }
  else if i = 24 then s.setWarp { w with taddr := x }
  else s.setWarp { w with tinfo := lo }

def execSwr (o : UxOps) (s : State) : Out :=
  let i := (o.aux.extractLsb' 0 6).toNat
  let n := if wideSreg i then 2 else 1
  s.checked { ss := [(o.a.toNat, n)], conv := if 16 ≤ i && i ≤ 18 then .live else .none } <|
    if !swrOk i s.warp.handler.isSome then .next (s.illegal 6)
    else s.guarded o.q o.size <|
      let x : Dword := if n = 2 then s.warp.getS64 o.a.toNat else (s.warp.getS o.a.toNat).zeroExtend 64
      if i = 16 && 512 ≤ (loOf x).toNat then .next (s.illegal 2)
      else if i = 17 && !partOk (loOf x).toNat then .next (s.illegal 2)
      else .next ((s.writeSreg i x).retire o.size)

/-- The nine-bit mask of `SMODE` (R370). -/
def smodeMask (o : UxOps) : BitVec 9 := (o.aux.zeroExtend 9) ||| (if o.md.getLsbD 0 then 0x100#9 else 0#9)

def execSmode (o : UxOps) (s : State) : Out :=
  s.checked { conv := .live } <| s.guarded o.q o.size <|
    let b := s.warp.usrc o.b
    if 512 ≤ b.toNat then .next (s.illegal 2)
    else s.finish o.size fun w =>
      { w with fmode := (w.fmode &&& ~~~(smodeMask o)) ||| (b.extractLsb' 0 9 &&& smodeMask o) }

def execPart (o : UxOps) (s : State) : Out :=
  s.checked { conv := .live } <| s.guarded o.q o.size <|
    let b := (s.warp.usrc o.b).toNat
    if !partOk b then .next (s.illegal 2) else s.finish o.size fun w => { w with part := b }

/-! ## Overlays and issue control (R372 to R374) -/

def execOvlld (o : UxOps) (s : State) : Out :=
  s.checked { fs := some o.fs, conv := .live } <| s.guarded o.q o.size <|
    let i := (s.warp.usrc o.b).toNat % 16
    if s.group.novl ≤ i then .next (s.trapEntry cOverlayAbsent i)
    else
      let f := s.warp.clause.flagOf o.fs
      if s.warp.getF f = 63 then .next (s.stallFor .flag)
      else .next ((s.addOp o.fs 0 0 [] (.ovlld { ovl := i, dreg := o.d.toNat })).retire o.size)

/-- YIELD acts as YLD of its clause (R373). -/
def execYield (o : UxOps) (s : State) : Out :=
  s.checked {} <| s.guarded o.q o.size <|
    s.finish o.size fun w => { w with clause := { w.clause with yld := true } }

/-- SLEEP (R374): the entry's successors carry the count. -/
def execSleep (o : UxOps) (s : State) : Out :=
  s.checked {} <| s.guarded o.q o.size <|
    s.finish o.size fun w => { w with clause := { w.clause with sleep := min (w.usrc o.b).toNat 1048575 } }

/-! ## FENCE, PUB, WAITMEM -/

/-- FENCE (R283, R425): memory words of the warp wait from here on. -/
def execFence (o : UxOps) (s : State) : Out :=
  s.checked { conv := .live } <| s.guarded o.q o.size <|
    .next ((s.setWarp { s.warp with fence := some (s.nextOp, max o.aux.toNat ((s.warp.fence.map (fun f => f.2)).getD 0)) }).retire o.size)

/-- A shadow leaf whose buffer is not valid: its place (R426 ends such a `PUB` with 2). -/
def State.deadShadow (s : State) (ctx va : Nat) : Option Place :=
  match s.walk ctx va with
  | .leaf _ log e =>
    if s.ctxValid ctx && !leafBad e log && leafSv e != 0 && !s.sbValid (leafSbid e) then
      some (.shadow (leafSv e == 2) (leafSbid e) (leafPidx e) (va % 4096))
    else none
  | _ => none

/-- PUB (R426): its VA is translated at issue; checks 1, 3 and 4 trap and faults park. -/
def execPub (o : UxOps) (s : State) : Out :=
  s.checked { fs := some o.fs, conv := .live, ss := [(o.a.toNat, 2)] } <| s.guarded o.q o.size <|
    s.memWord (some o.fs) fun s =>
      let va := (s.warp.getS64 o.a.toNat).toNat
      let start (parts : List Part) (s : State) : Out :=
        .next ((s.addOp o.fs 2 o.aux.toNat parts (.pub { dreg := o.d.toNat })).retire o.size)
      match s.checkAccess 0 1 0 false .read false [{ lane := s.warp.low, addr := va }] with
      | (.inl t, s) =>
        if t.cause = cFatalFault then
          match s.deadShadow s.group.ctx va with
          | some pl => start [{ addr := va, len := 1, place := pl }] s
          | none => .next (s.trap { t with mask := s.warp.clause.mask })
        else .next (s.trap { t with mask := s.warp.clause.mask })
      | (.inr ps, s) =>
        let (parts, s) := s.settle s.group.ctx 0 .read ps
        start parts s

/-- The class of a blocking wait's waiter (R200). -/
def State.waiterClass (s : State) : Nat := s.group.cls

def execWaitmem (o : UxOps) (s : State) : Out :=
  let space := (o.md.extractLsb' 0 2).toNat
  let wide := o.md.getLsbD 2
  let n := if wide then 8 else 4
  s.checked { ss := [(o.a.toNat, if space = 0 then 2 else 1)] ++ (if wide then [(o.d.toNat, 2)] ++ o.b.sSpan 2 else []),
              fs := some o.fs, conv := .live } <| s.guarded o.q o.size <|
    s.memWord (some o.fs) fun s =>
      let w := s.warp
      if s.waiterClass = 2 then .next (s.trapEntry cIllegalWait 0)
      else
        let va := if space = 0 then (w.getS64 o.a.toNat).toNat else (w.getS o.a.toNat).toNat
        match s.checkAccess space n 0 true .read false [{ lane := w.low, addr := va }] with
        | (.inl t, s) => .next (s.trap { t with mask := s.warp.clause.mask })
        | (.inr ps, s) =>
          let host := ps.any (fun p =>
            match p.2 with
            | .ok (.phys a) _ _ _ => ppaKind a == 2
            | _ => false)
          if host then .next (s.trap ⟨cPermission, s.warp.clause.mask, va, 0⟩)
          else
            let (parts, s) := s.settle s.group.ctx 0 .read ps
            let cv := (s.warp.csrc o).toNat * (if o.ck then 1024 else 1)
            let b : WaitBody := { space := space, wide := wide, cmp := (o.aux.extractLsb' 3 3).toNat,
                                  value := if wide then (s.warp.usrc64 o.b).toNat else (s.warp.usrc o.b).toNat,
                                  timeout := if cv = 0 then none else some cv, dreg := o.d.toNat,
                                  part := parts.head?.getD {} }
            .next ((s.addOp o.fs 1 (o.aux.extractLsb' 0 3).toNat [] (.waitmem b)).retire o.size)

end Sys2Proof.Machine
end

