-- ==== Sys2Proof/Machine/Barrier.lean ====
section
/-!
DEFINITION. Barrier objects and the BAR forms (14 R428 to R433).
-/
namespace Sys2Proof.Machine

/-! ## The object (Table 14-5a) -/

structure Bar where
  pa : Nat
  ex : Nat
  pb : Int
  ph : Bool
  st : Nat
  cls : Nat
  scope : Nat
  w : Nat
  resv : Nat
  gen : Nat
  deriving DecidableEq, Repr

def Bar.ofBytes (bs : List Byte) : Bar :=
  let x := Machine.ofBytes bs
  { pa := bitsOf x 15 0, ex := bitsOf x 31 16, pb := sextInt 32 (bitsOf x 63 32), ph := bitOf x 64, st := bitsOf x 66 65,
    cls := bitsOf x 68 67, scope := bitsOf x 71 69, w := bitsOf x 79 72, resv := bitsOf x 95 80, gen := bitsOf x 127 96 }

def Bar.bytes (b : Bar) : List Byte :=
  bytesOf 2 b.pa ++ bytesOf 2 b.ex ++ bytesOf 4 (wrapNat 32 b.pb)
    ++ bytesOf 1 ((if b.ph then 1 else 0) + 2 * b.st + 8 * b.cls + 32 * b.scope) ++ bytesOf 1 b.w ++ bytesOf 2 b.resv
    ++ bytesOf 4 b.gen

/-- Where a barrier address of a group's C space (1) or V space (2) lies: the group that holds it, and its offset. -/
def State.barLoc (s : State) (gid space addr : Nat) : Nat × Nat :=
  if space = 1 then (gid, addr) else (s.gangMate gid (addr / 2 ^ 19), addr % 2 ^ 19)

def State.bar (s : State) (l : Nat × Nat) : Bar := Bar.ofBytes (Map.getMany 0 (s.groupAt l.1).cmem l.2 16)

def State.setBar (s : State) (l : Nat × Nat) (b : Bar) : State :=
  if (s.groupAt l.1).place == .none then s
  else s.putGroup l.1 { s.groupAt l.1 with cmem := Map.setMany 0 (s.groupAt l.1).cmem l.2 b.bytes }

/-- What fails check(o). -/
def Bar.malformed (b : Bar) : Bool := b.st == 3 || b.cls == 3 || 2 < b.scope || b.resv != 0 || b.ex < b.pa

/-- Release the waiters of an object with a result. -/
def State.wakeBar (s : State) (l : Nat × Nat) (x : Bool) : State :=
  { s with ops := s.ops.map (fun o =>
      match o.body, o.owner with
      | .barWait b, .warp g _ =>
        if s.barLoc g b.space b.addr == l && b.answer.isNone && (s.groupAt g).place != .saved then
          { o with body := .barWait { b with answer := some x } } else o
      | _, _ => o) }

/-- complete_if_due, and the object written back. -/
def State.commitBar (s : State) (l : Nat × Nat) (b : Bar) : State :=
  if b.pa = 0 && b.pb = 0 then (s.setBar l { b with ph := !b.ph, pa := b.ex, w := 0 }).wakeBar l true else s.setBar l b

/-- pb stays within 32 bits, signed. -/
def pbOk (x : Int) : Bool := -(2 ^ 31) ≤ x && x < 2 ^ 31

/-- The generation a copy records (R432); none for an object outside its space. -/
def State.barGen (s : State) (gid space addr : Nat) : Option Nat :=
  if s.inSpace (s.groupAt gid) space addr 16 then some (s.bar (s.barLoc gid space addr)).gen else none

/-- The subtraction of a copy (R432): false is BARRIER_GONE. -/
def State.barSub (s : State) (gid space addr : Nat) (gen : Option Nat) (n : Nat) : Bool × State :=
  let l := s.barLoc gid space addr
  let b := s.bar l
  if !s.inSpace (s.groupAt gid) space addr 16 || b.st != 1 || gen != some b.gen || !pbOk (b.pb - n) then (false, s)
  else (true, s.commitBar l { b with pb := b.pb - n })

/-! ## The forms -/

def barSpace (o : UxOps) : Nat := if o.md.getLsbD 0 then 2 else 1

/-- The access a BAR form makes, for TINFO: `BAR.TEST` and `BAR.WAIT` read; the others change the object (DEDUCED, log 25). -/
def barInfo (o : UxOps) (acc : Nat) : Nat := barSpace o + 16 * acc

/-- A release by the present word waits until the covered accesses of the warp are performed (R279, R287). -/
def State.released (s : State) (k : State → Out) : Out :=
  if s.coveredBefore s.curG s.curW s.nextOp then .next (s.stallFor .fence) else k s

/-- The checks every BAR form makes (R429), then what it does to the object at a location. -/
def barOp (o : UxOps) (s : State) (fs : Option Bool) (acc : Nat) (k : State → Nat × Nat → Bar → Out) : Out :=
  s.checked { fs := fs, conv := .live } <| s.guarded o.q o.size <| s.memWord fs fun s =>
    let addr := (s.warp.getS o.a.toNat).toNat
    if !s.inSpace s.group (barSpace o) addr 16 then
      .next (s.trap ⟨cSpaceRange, s.warp.clause.mask, addr, barInfo o acc⟩)
    else if addr % 16 ≠ 0 then .next (s.trap ⟨cMisaligned, s.warp.clause.mask, addr, barInfo o acc⟩)
    else
      let l := s.barLoc s.curG (barSpace o) addr
      k s l (s.bar l)

/-- BAR_STATE (R430). -/
def State.barTrap (s : State) (o : UxOps) (b : Bar) : Out :=
  .next (s.trap ⟨cBarState, s.warp.clause.mask, (s.warp.getS o.a.toNat).toNat, b.st⟩)

/-- A form that has changed the object completes. -/
def State.barDone (s : State) (o : UxOps) : Out := .next ((s.setWarp s.warp.noteStore).retire o.size)

def execBarInit (o : UxOps) (s : State) : Out :=
  barOp o s none 2 fun s l b =>
    let n := (s.warp.usrc o.b).toNat
    if (b.st = 1 && (b.w != 0 || b.pa != b.ex || b.pb != 0)) || n = 0 || 65535 < n then s.barTrap o b
    else (s.setBar l { b with pa := n, ex := n, pb := 0, st := 1, cls := s.group.cls, scope := o.aux.toNat, w := 0,
                              gen := (b.gen + 1) % 2 ^ 32 }).barDone o

def execBarArrive (o : UxOps) (s : State) : Out :=
  barOp o s none 2 fun s l b =>
    let n := (s.warp.usrc o.b).toNat
    if b.malformed || b.st != 1 || n = 0 || b.pa < n then s.barTrap o b
    else s.released fun s =>
      ((s.setWarp (s.warp.wrS o.d.toNat (if b.ph then 1 else 0))).commitBar l { b with pa := b.pa - n }).barDone o

def execBarExpect (o : UxOps) (s : State) : Out :=
  barOp o s none 2 fun s l b =>
    let pb := b.pb + (s.warp.usrc o.b).toInt
    if b.malformed || b.st != 1 || !pbOk pb then s.barTrap o b else (s.commitBar l { b with pb := pb }).barDone o

/-- An acquire at a scope: grove or wider invalidates the core's read cache (R280, R287). -/
def State.acquire (s : State) (gid scope : Nat) : State := if scope ≥ 2 then s.dropCache (s.groupAt gid).coreId else s

def execBarTest (o : UxOps) (s : State) : Out :=
  barOp o s none 0 fun s _ b =>
    if b.malformed || b.st = 0 then s.barTrap o b
    else
      let t := b.st = 1 && b.ph != (s.warp.usrc o.b).getLsbD 0
      let s := if t then s.acquire s.curG b.scope else s
      s.finish o.size fun w => w.wrQ o.d.toNat t

def execBarInval (o : UxOps) (s : State) : Out :=
  barOp o s none 2 fun s l b => ((s.setBar l { b with st := 2, w := 0 }).wakeBar l false).barDone o

/-- `BAR.WAIT` (R431): a free object has no class, so its fault is check(o)'s (DEDUCED, log 26). The wait ends by
`execAccessPerformed` once it has its answer. -/
def execBarWait (o : UxOps) (s : State) : Out :=
  barOp o s (some o.fs) 0 fun s l b =>
    if (b.st = 1 || b.st = 2) && b.cls != s.waiterClass then .next (s.trapEntry cIllegalWait 0)
    else if b.malformed || b.st = 0 then s.barTrap o b
    else
      let now := b.ph != (s.warp.usrc o.b).getLsbD 0 || b.st = 2
      let body : BarWaitBody := { space := barSpace o, addr := (s.warp.getS o.a.toNat).toNat,
                                  parity := (s.warp.usrc o.b).getLsbD 0, dreg := o.d.toNat,
                                  answer := if now then some (b.st = 1) else none }
      let s := s.addOp o.fs 1 b.scope [] (.barWait body)
      if now then .next (s.retire o.size) else (s.setBar l { b with w := min 255 (b.w + 1) }).barDone o

end Sys2Proof.Machine
end

