-- ==== Sys2Proof/Machine/Hierarchy.lean ====
section
/-!
DEFINITION. The work hierarchy forms (12 R375 to R380) and the legality of their waits (06 R200).
-/
namespace Sys2Proof.Machine

/-- LAUNCH (R375): its record is read and checked by `execLaunchAccept`. -/
def execLaunch (o : UxOps) (s : State) : Out :=
  s.checked { ss := [(o.a.toNat, 2)], fs := some o.fs, conv := .live } <| s.guarded o.q o.size <|
    s.memWord (some o.fs) fun s =>
      let va := (s.warp.getS64 o.a.toNat).toNat
      if 2 ^ 48 ≤ va then .next (s.trap ⟨cSpaceRange, s.warp.clause.mask, va, 48⟩)
      else if va % 64 ≠ 0 then .next (s.trap ⟨cMisaligned, s.warp.clause.mask, va, 48⟩)
      else .next ((s.addOp o.fs 2 3 [] (.launch { va := va, dreg := o.d.toNat })).retire o.size)

/-- The unit an operand names: level and identifier; none where bits [31:16] are not 0. -/
def unitOf (o : UxOps) (a : Word) : Option (Nat × Nat) :=
  let level := (o.aux.extractLsb' 0 2).toNat
  if level ≠ 0 && 65536 ≤ a.toNat then none else some (level, a.toNat)

/-- The least value a counter may be taken to: for a launch its groups not complete and its children not ended. -/
def State.counterFloor (s : State) (c : Counter) : Nat :=
  if c.level = 0 then
    match s.graph.nodes.find? (fun n => n.inUnit c.ctx 0 c.ident) with
    | none => 0
    | some n => n.groupsLeft + (s.graph.nodes.filter (fun m => m.parent == some n.id)).length
  else 0

/-- Add to a live counter (R376, R179): none if the adjustment is refused. -/
def State.adjust (s : State) (ctx level ident : Nat) (x : Int) : Option State :=
  match s.counter ctx level ident with
  | none => none
  | some c =>
    let y := (c.count : Int) + x
    if y < s.counterFloor c || 2 ^ 32 ≤ y then none
    else
      let s := s.setCounter { c with count := y.toNat }
      if level = 0 then
        some (match s.graph.nodes.find? (fun n => n.inUnit ctx 0 ident) with
          | none => s
          | some n => s.launchDue n.id)
      else some (if y = 0 then s.completeUp ctx ((List.range 4).drop level) ident else s)

def execCntadd (o : UxOps) (s : State) : Out :=
  s.checked { conv := .live } <| s.guarded o.q o.size <| s.released fun s =>
    let r := (unitOf o (s.warp.getS o.a.toNat)).bind (fun u => s.adjust s.group.ctx u.1 u.2 (s.warp.usrc o.b).toInt)
    match r with
    | none => s.finish o.size fun w => w.wrQ o.d.toNat false
    | some s => s.finish o.size fun w => w.wrQ o.d.toNat true

def execCancel (o : UxOps) (s : State) : Out :=
  s.checked { conv := .live } <| s.guarded o.q o.size <|
    match unitOf o (s.warp.getS o.a.toNat) with
    | none => .next (s.retire o.size)
    | some u => .next ((s.cancelUnit s.group.ctx u.1 u.2).1.retire o.size)

/-- The class of a `CNTWAIT` target: the weakest of the launches it holds; concurrent where it holds none (R200). -/
def State.targetClass (s : State) (ctx level ident : Nat) : Nat :=
  (s.graph.nodes.filter (fun n => n.nkind == 1 && n.inUnit ctx level ident)).foldl
    (fun c n => max c ((n.launch.map (fun l => l.cls)).getD 0)) 0

/-- Whether a unit encloses a group. -/
def Group.ownUnit (g : Group) (level ident : Nat) : Bool :=
  ident == (if level = 0 then g.launchId else if level = 1 then g.graphId else if level = 2 then g.phaseId else g.jobId)

/-- Table 6-6 for `CNTWAIT`. -/
def State.cntLegal (s : State) (level ident : Nat) : Bool :=
  let g := s.group
  let t := s.targetClass g.ctx level ident
  !g.ownUnit level ident && (g.cls == 0 || (g.cls == 1 && t != 2))

/-- CNTWAIT (R378): the wait ends by `execAccessPerformed` once it has its status. -/
def execCntwait (o : UxOps) (s : State) : Out :=
  s.checked { fs := some o.fs, conv := .live } <| s.guarded o.q o.size <|
    let f := s.warp.clause.flagOf o.fs
    let a := s.warp.getS o.a.toNat
    let legal := match unitOf o a with
      | none => s.group.cls != 2
      | some u => s.cntLegal u.1 u.2
    if !legal then .next (s.trapEntry cIllegalWait 0)
    else if s.warp.getF f = 63 then .next (s.stallFor .flag)
    else
      let level := (o.aux.extractLsb' 0 2).toNat
      let live := (unitOf o a).any (fun u => (s.counter s.group.ctx u.1 u.2).isSome)
      let body : CntWaitBody := { level := level, ident := a.toNat, dreg := o.d.toNat, answer := if live then none else some 3 }
      .next ((s.addOp o.fs 1 3 [] (.cntWait body)).retire o.size)

end Sys2Proof.Machine
end

