-- ==== Sys2Proof/Machine/Reduce.lean ====
section
/-!
DEFINITION. Collective records, chunk identity, the residue checksum and the exact reduction (03 R73 to R91).
-/
namespace Sys2Proof.Machine

/-! ## The record (Tables 3-1 to 3-3) -/

def wireBytesOf (w : Nat) : Nat := if w = 0 || w = 4 then 4 else if w = 1 || w = 2 then 2 else 8

/-- The IEEE format of a wire code; none for the integers. -/
def wireFmt (w : Nat) : Option Fmt :=
  if w = 0 then some .f32 else if w = 1 then some .bf16 else if w = 2 then some .f16 else if w = 3 then some .f64 else none


/-- The packages of a member mask, ascending (R76). -/
def membersOf (mask : Nat) : List Nat := (List.range 128).filter (bitOf mask)

def Coll.parse (b : List Byte) (op ctx : Nat) : Coll where
  id := 0
  op := op
  ctx := ctx
  number := fieldOf b 0 2 % 4096
  kind := fieldOf b 2 1
  rop := fieldOf b 3 1
  wire := fieldOf b 4 1
  isPart := bitOf (fieldOf b 5 1) 0
  sealBit := bitOf (fieldOf b 5 1) 1
  attempt := bitsOf (fieldOf b 5 1) 3 2
  logchunk := fieldOf b 6 1
  root := fieldOf b 7 1
  members := membersOf (fieldOf b 8 16)
  nchunk := fieldOf b 24 4
  list := []
  src := fieldOf b 32 8
  dst := fieldOf b 40 8
  fail := fieldOf b 56 8
  failcap := fieldOf b 64 4
  landbase := fieldOf b 80 8

/-- Entries rise strictly and stay below a bound. -/
def listOk (n : Nat) : List Nat → Bool
  | [] => true
  | [x] => x < n
  | x :: y :: t => x < n && x < y && listOk n (y :: t)

/-- R74: what makes a record malformed, for package `me` of a pod of n packages. R74 does not name a nonzero ROOT of KIND 0 to 2,
nor a LANDBASE beyond a module's offsets: both are taken as malformed (DESIGN CHOICE, log 87). -/
def collBad (b : List Byte) (me n : Nat) (list : List Nat) : Bool :=
  let c := Coll.parse b 0 0
  4096 ≤ fieldOf b 0 2 || 16 ≤ fieldOf b 5 1 || fieldOf b 68 12 != 0 || fieldOf b 88 40 != 0 || 2 ^ 50 ≤ c.landbase
    || 5 ≤ c.kind || (c.kind != 2 && c.kind != 3 && 3 ≤ c.rop) || 6 ≤ c.wire || c.logchunk < 8 || 14 < c.logchunk
    || (c.isPart && (c.rop != 0 || 3 ≤ c.wire)) || c.members.any (fun p => n ≤ p) || !c.members.contains me
    || c.members.length < 2 || (if c.kind = 3 || c.kind = 4 then !c.members.contains c.root else c.root != 0)
    || c.landbase < 0x40500000 || c.landbase % 4096 != 0 || c.nchunk = 0 || 2 ^ 24 < c.nchunk || !listOk c.nchunk list

def Coll.chunk (c : Coll) : Nat := 2 ^ c.logchunk
def Coll.elems (c : Coll) : Nat := c.chunk / wireBytesOf c.wire
/-- The chunks of this attempt, ascending. -/
def Coll.chunks (c : Coll) : List Nat := if c.list.isEmpty then List.range c.nchunk else c.list

/-- The owner of a chunk (R76). -/
def Coll.owner (c : Coll) (i : Nat) : Nat :=
  if c.kind = 3 || c.kind = 4 then c.root else c.members[i % c.members.length]?.getD 0

/-- S, and the landing position of a chunk (R84). -/
def Coll.slotSize (c : Coll) : Nat := (if c.isPart then c.elems * 48 else c.elems * wireBytesOf c.wire) + 64
def Coll.landing (c : Coll) (i step contrib : Nat) : Nat := c.landbase + ((4 * i + step) * 16 + contrib) * c.slotSize

/-! ## Chunk identity (Table 3-4) -/

def identOf (ctx coll attempt step contrib origin index : Nat) : Nat :=
  ctx * 2 ^ 52 + coll * 2 ^ 40 + attempt * 2 ^ 38 + step * 2 ^ 36 + contrib * 2 ^ 32 + origin * 2 ^ 24 + index

def Coll.ident (c : Coll) (step contrib origin index : Nat) : Nat :=
  identOf c.ctx c.number c.attempt step contrib origin index

def identCtx (x : Nat) : Nat := bitsOf x 63 52
def identColl (x : Nat) : Nat := bitsOf x 51 40
def identAttempt (x : Nat) : Nat := bitsOf x 39 38
def identStep (x : Nat) : Nat := bitsOf x 37 36
def identContrib (x : Nat) : Nat := bitsOf x 35 32
def identOrigin (x : Nat) : Nat := bitsOf x 30 24
def identIndex (x : Nat) : Nat := bitsOf x 23 0

/-- The receive-table key of a collective matches a chunk identity (R98). -/
def Coll.keyIs (c : Coll) (x : Nat) : Bool :=
  c.ctx == identCtx x && c.number == identColl x && c.attempt == identAttempt x

/-- The slot key of a chunk identity (R85): all but the contributor and the origin. -/
def slotKey (x : Nat) : Nat := identOf (identCtx x) (identColl x) (identAttempt x) (identStep x) 0 0 (identIndex x)

/-- The trailer of a landing position (R84). Its status word holds the code in [31:24], like every status word (R441). -/
def trailer (ident cksum status mask : Nat) : List Byte :=
  bytesOf 8 ident ++ bytesOf 8 cksum ++ bytesOf 4 (status * 2 ^ 24) ++ bytesOf 2 mask ++ List.replicate 42 0

/-- The status code of a trailer. -/
def trailerCode (t : List Byte) : Nat := fieldOf t 16 4 / 2 ^ 24

/-! ## The inputs of a reduction -/

/-- One element of one contributor: the NaN it carries (origin, encoding), its infinities, its finite part in units of
2^−1074, and whether it is −0. `raw` is its encoding in the wire format. -/
structure RedIn where
  nan : Option (Nat × Nat) := none
  pinf : Bool := false
  ninf : Bool := false
  fin : Int := 0
  negZero : Bool := false
  raw : Nat := 0
  deriving DecidableEq, Repr

/-- The unit in which finite parts are kept: every finite value of every wire format is a multiple of it. -/
def redUnit : Int := -1074

def RedIn.ofWire (w origin x : Nat) : RedIn :=
  match wireFmt w with
  | none => { fin := sextInt (8 * wireBytesOf w) x, raw := x }
  | some f =>
    match f.unpack x with
    | .nan _ => { nan := some (origin, x), raw := x }
    | .inf n => { pinf := !n, ninf := n, raw := x }
    | .fin n m e =>
      let v : Int := (m * 2 ^ (e - redUnit).toNat : Nat)
      { fin := if n then -v else v, negZero := n && m == 0, raw := x }

/-- An X48 record (R79). -/
def RedIn.ofX48 (b : List Byte) : RedIn :=
  let fl := fieldOf b 40 1
  { nan := if bitOf fl 2 then some (fieldOf b 41 1, fieldOf b 44 4) else none, pinf := bitOf fl 0, ninf := bitOf fl 1,
    fin := sextInt 320 (fieldOf b 0 40) * 2 ^ (1074 - 160) }

/-- Cut bytes into pieces of n. -/
def piecesOf (n : Nat) : Nat → List Byte → List (List Byte)
  | 0, _ => []
  | k + 1, b => b.take n :: piecesOf n k (b.drop n)

/-- The elements of a chunk, which is in the wire format or in X48 records. -/
def redInputs (w origin elems : Nat) (x48 : Bool) (b : List Byte) : List RedIn :=
  if x48 then (piecesOf 48 elems b).map RedIn.ofX48
  else (piecesOf (wireBytesOf w) elems b).map (fun e => RedIn.ofWire w origin (ofBytes e))

/-! ## The checksum word (R78, Table 3-5) -/

def resP : Nat := 2 ^ 61 - 1

/-- ρ of a finite part in units of 2^−1074 (IEEE and X48), or of an integer. -/
def rho (isInt : Bool) (v : Int) : Nat :=
  let k := if isInt then 0 else (redUnit % 61).toNat
  let r := v.natAbs % resP * 2 ^ k % resP
  if v < 0 then (resP - r) % resP else r

def cksumOf (w : Nat) (xs : List RedIn) : Nat :=
  let res := xs.foldl (fun a x => (a + rho (wireFmt w).isNone x.fin) % resP) 0
  res + (if xs.any (fun x => x.ninf) then 2 ^ 63 else 0) + (if xs.any (fun x => x.pinf) then 2 ^ 62 else 0)
    + (if xs.any (fun x => x.nan.isSome) then 2 ^ 61 else 0)

/-- The checksum word of a chunk. -/
def chunkCksum (w elems : Nat) (x48 : Bool) (b : List Byte) : Nat := cksumOf w (redInputs w 0 elems x48 b)

/-! ## The reduction (R89) -/

/-- The NaN of the lowest origin. Which one of several of that origin is open (DESIGN CHOICE, log 63): a free choice that
depends on them and not on when they came, so the inputs stand in contributor order. -/
def lowestNan (xs : List RedIn) : Option (Nat × Nat) :=
  let nans := xs.filterMap (fun x => x.nan)
  match nans.foldl (fun (a : Option Nat) n => some (match a with | none => n.1 | some o => min o n.1)) none with
  | none => none
  | some o =>
    let ties := nans.filter (fun n => n.1 == o)
    match ties with
    | [n] => some n
    | _ => ties[Config.tiedNan (ties.map (fun n => n.2)) % ties.length]?

/-- The exact sum of one element's inputs, and its specials. -/
def redSum (xs : List RedIn) : RedIn :=
  { nan := lowestNan xs, pinf := xs.any (fun x => x.pinf), ninf := xs.any (fun x => x.ninf),
    fin := xs.foldl (fun a x => a + x.fin) 0, negZero := xs.all (fun x => x.negZero) }

/-- The rounding step: an exact sum in the wire format. -/
def RedIn.round (x : RedIn) (w : Nat) : Nat :=
  match wireFmt w with
  | none => wrapNat (8 * wireBytesOf w) x.fin
  | some f =>
    match x.nan with
    | some n => f.quiet n.2
    | none =>
      if x.pinf && x.ninf then f.nan
      else if x.pinf || x.ninf then f.withSign x.ninf f.infCode
      else if x.fin = 0 then f.withSign x.negZero 0
      else (f.round .rne (x.fin < 0) x.fin.natAbs redUnit false).1

/-- An exact sum as an X48 record (R79). -/
def RedIn.x48 (x : RedIn) (w : Nat) : List Byte :=
  let q (n : Nat) : Nat := ((wireFmt w).map (fun f => f.quiet n)).getD n
  bytesOf 40 (wrapNat 320 (x.fin / 2 ^ (1074 - 160)))
    ++ bytesOf 1 ((if x.pinf then 1 else 0) + (if x.ninf then 2 else 0) + (if x.nan.isSome then 4 else 0))
    ++ bytesOf 1 ((x.nan.map (fun n => n.1)).getD 0) ++ [0, 0] ++ bytesOf 4 ((x.nan.map (fun n => q n.2)).getD 0)

/-- MIN and MAX: the least or greatest input; the specials of R89 come first. -/
def redPick (w : Nat) (max : Bool) (xs : List RedIn) : Nat :=
  match lowestNan xs, wireFmt w with
  | some n, some f => f.quiet n.2
  | _, some f =>
    let pinf := xs.any (fun x => x.pinf)
    let ninf := xs.any (fun x => x.ninf)
    if pinf && ninf then f.nan
    else if pinf || ninf then f.withSign ninf f.infCode
    else (xs.foldl (fun (a : Option Nat) x =>
      match a with
      | none => some x.raw
      | some y => some (if (if max then f.below y x.raw else f.below x.raw y) then x.raw else y)) none).getD 0
  | _, none =>
    (xs.foldl (fun (a : Option RedIn) x =>
      match a with
      | none => some x
      | some y => some (if (if max then y.fin < x.fin else x.fin < y.fin) then x else y)) none).elim 0 (fun x => x.raw)

/-- The output element. `x48`: the step-1 output of a collective with PART = 1. -/
def redElem (op w : Nat) (x48 : Bool) (xs : List RedIn) : List Byte :=
  if op = 0 then
    let r := redSum xs
    if x48 then r.x48 w else bytesOf (wireBytesOf w) (r.round w)
  else bytesOf (wireBytesOf w) (redPick w (op == 2) xs)

/-- Transpose: the i-th elements of all contributions. -/
def redColumn (i : Nat) (rows : List (List RedIn)) : List RedIn := rows.filterMap (fun r => r[i]?)

/-- The output chunk. -/
def redChunk (op w elems : Nat) (x48 : Bool) (rows : List (List RedIn)) : List Byte :=
  (List.range elems).flatMap (fun i => redElem op w x48 (redColumn i rows))

/-! ## The ADDER and ROUND tests (R90, R91) -/

/-- The special bits of a list of elements: NI, PI, NN. -/
def specialBits (xs : List RedIn) : Bool × Bool × Bool :=
  (xs.any (fun x => x.ninf), xs.any (fun x => x.pinf), xs.any (fun x => x.nan.isSome))

/-- The specials that R89 derives for one output element: those of the arrivals, and, in a wire format, a sum beyond the
format's range. -/
def derivedSpecials (op w : Nat) (x48 : Bool) (xs : List RedIn) : RedIn :=
  if x48 then redSum xs else RedIn.ofWire w 0 (if op = 0 then (redSum xs).round w else redPick w (op == 2) xs)

/-- ADDER: Σ ρ of the exact sums against Σ RES of the arrivals, and the special bits of the output against those that R89
derives. The two residues, and whether the test holds. MIN and MAX form no sum. -/
def adderTest (op w elems : Nat) (x48 : Bool) (rows : List (List RedIn)) (words : List Nat) (out : List Byte) : Nat × Nat × Bool :=
  let cols := (List.range elems).map (fun i => redColumn i rows)
  let sum := cols.foldl (fun a xs => (a + rho (wireFmt w).isNone (redSum xs).fin) % resP) 0
  let res := words.foldl (fun a x => (a + x % 2 ^ 61) % resP) 0
  (res, sum, (op != 0 || sum == res) &&
    specialBits (redInputs w 0 elems x48 out) == specialBits (cols.map (derivedSpecials op w x48)))

/-- ROUND on one element with a finite output: ρ(rounded) + ρ(exact − rounded) against ρ(exact); a selected element must be
that of an arrival, bit for bit. -/
def roundElem (op w : Nat) (xs : List RedIn) (out : RedIn) : Bool :=
  if out.nan.isSome || out.pinf || out.ninf then true
  else if op = 0 then
    (wireFmt w).isNone || (rho false out.fin + rho false ((redSum xs).fin - out.fin)) % resP == rho false (redSum xs).fin
  else xs.any (fun x => x.raw == out.raw)

/-- ROUND over a chunk; there is no rounding step into X48 records. -/
def roundTest (op w elems : Nat) (x48 : Bool) (rows : List (List RedIn)) (out : List Byte) : Bool :=
  x48 || ((List.range elems).zip (redInputs w 0 elems false out)).all (fun x => roundElem op w (redColumn x.1 rows) x.2)

/-! ## Error records (R94) -/

def errorRecord (m head who code step ident carried computed ts : Nat) : List Byte :=
  bytesOf 1 3 ++ bytesOf 1 m ++ bytesOf 1 head ++ bytesOf 1 who ++ bytesOf 1 code ++ bytesOf 1 step ++ bytesOf 2 0
    ++ bytesOf 8 ident ++ bytesOf 8 carried ++ bytesOf 8 computed ++ bytesOf 8 ts ++ List.replicate 24 0

end Sys2Proof.Machine
end

