-- ==== Sys2Proof/Machine/Pod.lean ====
section
/-!
DEFINITION. Trails (02 R56), where each chunk is reduced (03 R80), and the start of a
collective at this package.
-/
namespace Sys2Proof.Machine

/-! ## Trails (R56), from what this package knows of the attachments -/

def State.upAt (s : State) (p m : Nat) : Bool :=
  match s.headOf m p with
  | none => false
  | some h => !(s.module m).failed && !(s.module m).lost.contains h && (p != s.pod.pkg || (s.port h).state == .up)

/-- The live attachments of the pod, as (package, module). -/
def State.liveLinks (s : State) : List (Nat × Nat) :=
  (List.range s.podSize).flatMap (fun m => ((s.lineOfMod m).filter (fun p => s.upAt p m)).map (fun p => (p, m)))

/-- leg(a,b), over given live attachments. -/
def State.leg (s : State) (up : List (Nat × Nat)) (a b : Nat) : Bool :=
  up.contains (a, s.sharedMod a b) && up.contains (b, s.sharedMod a b)

/-- pkg_route: none invalid, else the relay, if any. -/
def State.trailOf (s : State) (up : List (Nat × Nat)) (a b : Nat) : Option (Option Nat) :=
  if s.leg up a b then some none
  else
    ((List.range s.podSize).find? (fun r =>
      (s.headOf (s.sharedMod a b) r).isNone && s.leg up a r && s.leg up r b)).map some

/-- Whether the route between two packages uses the attachment of package p to module m. -/
def State.usesLink (s : State) (up : List (Nat × Nat)) (a b p m : Nat) : Bool :=
  let leg (x y : Nat) : Bool := s.sharedMod x y == m && (p == x || p == y)
  match s.trailOf up a b with
  | none => false
  | some none => leg a b
  | some (some r) => leg a r || leg r b

/-! ## Where a chunk is reduced (R80), over the attachments that were live when the attempt was issued -/

/-- The module of step1_target(p, o), and the relay. -/
def State.step1Mod (s : State) (up : List (Nat × Nat)) (p o : Nat) : Option (Nat × Option Nat) :=
  match s.trailOf up p o with
  | none => none
  | some none => some (s.sharedMod p o, none)
  | some (some r) => some (s.sharedMod r o, some r)

/-- relnum(m, o, p). -/
def State.relnum (s : State) (c : Coll) (m o p : Nat) : Nat :=
  let used := (s.lineOfMod m).filterMap (fun x => if x = o then none else s.headOf m x)
  let free := (List.range 16).filter (fun h => !used.contains h)
  let rel := c.members.filter (fun x => x != o &&
    (match s.step1Mod c.up x o with
     | some (m', some _) => m' == m
     | _ => false))
  (free[(indexIn p rel).getD 0]?).getD 15

/-- step1_target(p, o): module, contributor number, relay. -/
def State.step1Target (s : State) (c : Coll) (p o : Nat) : Option (Nat × Nat × Option Nat) :=
  (s.step1Mod c.up p o).map (fun x =>
    match x.2 with
    | none => (x.1, (s.headOf x.1 p).getD 0, none)
    | some r => (x.1, s.relnum c x.1 o p, some r))

/-- The modules that hold a step-1 slot for chunks of an owner, each with its expected mask. -/
def State.step1Slots (s : State) (c : Coll) (o : Nat) : List (Nat × Nat) :=
  (c.members.filter (fun x => x != o)).foldl (fun l x =>
    match s.step1Target c x o with
    | none => l
    | some (m, k, _) =>
      if l.any (fun e => e.1 == m) then l.map (fun e => if e.1 == m then (m, e.2 ||| 2 ^ k) else e) else l ++ [(m, 2 ^ k)]) []

/-- Some member has no route to an owner, so the owner's chunks cannot be reduced (DEDUCED, log 61). -/
def State.cutOff (s : State) (c : Coll) (o : Nat) : Bool := c.members.any (fun p => p != o && (s.trailOf c.up p o).isNone)

/-- step2_module(o) of this package: the module on its lowest UP port. -/
def State.step2Module (s : State) : Option Nat :=
  ((List.range 9).find? (fun k => (s.port k).state == .up)).map (fun k => (s.port k).modid)

/-- The port of this package towards a module (R41). -/
def State.portOf (s : State) (m : Nat) : Option Nat := s.headOf m s.pod.pkg

/-! ## Starting a collective -/

/-- A chunk of a collective fails; `link`: with LINK_LOST, else CHECKSUM. -/
def Coll.failChunk (c : Coll) (i : Nat) (link : Bool) : Coll :=
  { c with failed := insertNat i c.failed, lost := if link then insertNat i c.lost else c.lost,
           linkLost := c.linkLost || link, checksum := c.checksum || !link,
           toSend := c.toSend.filter (fun x => x / 64 != i), busy := c.busy.filter (fun x => x.1 / 64 != i),
           step1 := c.step1.filter (fun x => x.1 != i), step2 := c.step2.filter (fun x => x != i),
           toGet := c.toGet.filter (fun x => x != i), ready := c.ready.filter (fun x => x.1 != i) }

/-- A chunk fails at its owner; in an ALLREDUCE its status still goes to every member (R93). -/
def Coll.ownerFail (c : Coll) (i : Nat) (link : Bool) : Coll :=
  let c := c.failChunk i link
  if c.kind = 0 then { c with toOwn := insertNat i c.toOwn } else c

/-- What this package has to do for each chunk (R80 to R83, R101). A sealed owner waits for members, not for slots. -/
def State.plan (s : State) (c : Coll) : Coll :=
  let me := s.pod.pkg
  let mine := c.chunks.filter (fun i => c.owner i == me)
  let others := c.chunks.filter (fun i => c.owner i != me)
  let reduces := c.kind != 2 && c.kind != 3
  let spreads := c.kind == 0 || c.kind == 2 || c.kind == 3
  let slots := if c.sealBit then c.members.filter (fun p => p != me) else (s.step1Slots c me).map (fun e => e.1)
  let lost (i : Nat) : Bool :=
    if reduces then s.cutOff c (c.owner i) else c.owner i != me && (s.trailOf c.up me (c.owner i)).isNone
  let d := { c with toSend := if reduces then others.map (fun i => 64 * i + 32) else [],
                    step1 := if reduces then mine.flatMap (fun i => slots.map (fun m => (i, m))) else [],
                    step2 := if reduces then mine else [],
                    toOwn := if reduces then [] else mine,
                    toGet := if spreads then others else [] }
  (c.chunks.filter lost).foldl (fun d i => if c.owner i = me then d.ownerFail i true else d.failChunk i true) d

/-- What a collective still waits for once an unmatched arrival has been taken; none where it does not wait for it. -/
def Coll.await (c : Coll) (e : Spill) : Option Coll :=
  let i := identIndex e.ident
  let from0 := (i, identOrigin e.ident)
  let step := identStep e.ident
  if step = 0 then (if c.step1.contains from0 then some { c with step1 := c.step1.filter (fun x => x != from0) } else none)
  else if step = 1 then (if c.step1.contains (i, e.m) then some { c with step1 := c.step1.filter (fun x => x != (i, e.m)) } else none)
  else if step = 2 then (if c.step2.contains i then some { c with step2 := c.step2.filter (fun x => x != i) } else none)
  else if c.toGet.contains i then some { c with toGet := c.toGet.filter (fun x => x != i) } else none

/-- The unmatched arrivals of a collective's key that it waits for, in their order, and those that are left. -/
def Coll.matched (c : Coll) : List Spill → List Spill × List Spill
  | [] => ([], [])
  | e :: t =>
    match if c.keyIs e.ident then c.await e else none with
    | some c => (e :: (c.matched t).1, (c.matched t).2)
    | none => ((c.matched t).1, e :: (c.matched t).2)

def Spill.bytes (e : Spill) : List Byte :=
  bytesOf 8 e.ident ++ bytesOf 8 e.pos ++ bytesOf 1 e.m ++ bytesOf 1 (if e.delivery then 2 else 1) ++ bytesOf 6 0 ++ bytesOf 8 e.tstamp

/-- The spill list holds other entries: those in memory move up to its start (DESIGN CHOICE, log 62). -/
def State.keepSpills (s : State) (l : List Spill) : State :=
  if l = s.pod.spills then s
  else
    let s := ((List.range l.length).zip l).foldl (fun s e => s.store (s.pod.spillBase + 32 * e.1) e.2.bytes) s
    { s with pod := { s.pod with spills := l } }

/-- Unmatched arrivals that a collective waits for are consumed when it is armed, in their order, and those of its earlier
attempts are freed (R98): the inbox takes the consumed ones as notifications; a spill entry keeps no checksum word
(Table 3-9). -/
def State.armSpills (s : State) (c : Coll) : State :=
  let older (e : Spill) := c.ctx == identCtx e.ident && c.number == identColl e.ident && identAttempt e.ident < c.attempt
  let (hit, rest) := c.matched s.pod.spills
  let s := s.keepSpills (rest.filter (fun e => !older e))
  { s with inbox := s.inbox ++ hit.map (fun e =>
      (if identStep e.ident = 1 || identStep e.ident = 2 then Instr.slotNotification else Instr.readyNotification,
       EventArg.notice (if e.delivery then 0xFF else e.m) e.pos e.ident 0)) }

/-- Start a collective: its number. The routes are those of this moment (R80). -/
def State.startColl (s : State) (c : Coll) : Nat × State :=
  let k := s.pod.nextColl
  let c := s.plan { c with id := k, up := s.liveLinks, second := s.step2Module }
  (k, ({ s with pod := { s.pod with colls := s.pod.colls ++ [c], nextColl := k + 1 } }).armSpills c)

end Sys2Proof.Machine
end

