-- ==== Sys2Proof/Machine/Transfer.lean ====
section
/-!
DEFINITION. Issue of per-lane copies, transfers and module-queue operations (14 R434 to R444).
-/
namespace Sys2Proof.Machine

/-! ## CPA (R434, R435) -/

/-- One lane of a copy at issue: source and destination addresses. -/
structure CpaAddr where
  lane : Nat
  src : Nat
  dst : Nat
  deriving DecidableEq, Repr

/-- A trap of a check on both addresses: the source is named where it fails, else the destination. -/
def cpaTrap (cause : Nat) (sp dsp : Nat) (bad : List (CpaAddr × Bool)) : TrapInfo :=
  let addr := (bad.head?.map (fun b => if b.2 then (b.1.src, sp) else (b.1.dst, dsp))).getD (0, sp)
  ⟨cause, maskOf (fun l => bad.any (fun b => b.1.lane == l)), addr.1, addr.2 + 48⟩

/-- The lanes that fail a test on the source or on the destination. -/
def cpaBad (as : List CpaAddr) (src dst : CpaAddr → Bool) : List (CpaAddr × Bool) :=
  (as.filter (fun a => src a || dst a)).map (fun a => (a, src a))

/-- Checks 1 to 4 on the sources and destinations: the trap, or the source parts. -/
def State.checkCpa (s : State) (sp dsp n : Nat) (as : List CpaAddr) : Sum TrapInfo (List (Part × XRes)) × State :=
  let g := s.group
  let b1 := cpaBad as (fun a => !s.inSpace g sp a.src n) (fun a => !s.inSpace g dsp a.dst n)
  if !b1.isEmpty then (.inl (cpaTrap cSpaceRange sp dsp b1), s)
  else
    let b2 := cpaBad as (fun a => a.src % n != 0) (fun a => a.dst % n != 0)
    if !b2.isEmpty then (.inl (cpaTrap cMisaligned sp dsp b2), s)
    else s.checkAccess sp n 3 true .engRead false (as.map (fun a => { lane := a.lane, addr := a.src }))

/-- CPA commands of the groups of a core. -/
def State.coreCopies (s : State) (core : Nat) : Nat :=
  (s.ops.filter (fun o =>
    match o.body, o.owner with
    | .cpa _, .warp g _ => (s.groupAt g).place == .core core
    | _, _ => false)).length

def State.issueCpa (s : State) (o : LmOps) (ctl : Nat) (as : List CpaAddr) (ps : List (Part × XRes)) : State :=
  let (parts, s) := s.settle s.group.ctx 1 .engRead ps
  let ch := ctl % 8
  let c := Map.get {} s.group.chans ch
  let bsp := if bitOf ctl 5 then 2 else 1
  let body : CpaBody :=
    { chan := ch, seq := c.issued, bytes := o.m.nbytes, dstSpace := if bitOf ctl 4 then 2 else 1, dreg := o.d.toNat,
      lanes := as.map (fun a => { lane := a.lane, dst := a.dst, src := (parts.find? (fun p => p.lane == a.lane)).getD {} }),
      bar := if bitOf ctl 3 then some (bsp, ctl / 1024, s.barGen s.curG bsp (ctl / 1024)) else none }
  let s := s.setGroup { s.group with chans := Map.set {} s.group.chans ch { c with issued := c.issued + 1 } }
  let s := s.addOp o.m.fs o.m.ord.toNat o.m.scope.toNat [] (.cpa body)
  (s.setWarp s.warp.noteStore).retire o.size

/-- `CPA` is a lane form, and R434 names no DIVERGED check, unlike every other form that has one (DEDUCED, log 84). -/
def execCpa (o : LmOps) (s : State) : Out :=
  let sp := o.m.space.toNat
  s.checked { vs := o.memReq 1 0, fs := some o.m.fs } <| s.memWord (some o.m.fs) fun s =>
    let w := s.warp
    let act := w.active o.g
    if act = 0 then .next ((s.addOp o.m.fs 0 0 [] .nothing).retire o.size)
    else
      let ctl := (w.lsrc o.b (lowestLane act)).toNat
      if bitsOf ctl 13 6 != 0 then .next (s.trap ⟨cSpaceRange, act, 0, sp + 48⟩)
      else
        let as := (lanesOf act).map (fun l => { lane := l, src := w.laneAddr o l, dst := (w.getV o.d.toNat l).toNat : CpaAddr })
        match s.checkCpa sp (if bitOf ctl 4 then 2 else 1) o.m.nbytes as with
        | (.inl t, s) => .next (s.trap t)
        | (.inr ps, s) =>
          if 32 ≤ (s.chanOps s.curG (ctl % 8)).length || 256 ≤ s.coreCopies s.group.coreId then .next (s.stallFor .engine)
          else .next (s.issueCpa o ctl as ps)

/-! ## Shape records (Tables 14-8, R439) -/

def signed32 (x : Nat) : Int := sextInt 32 x

def Shape.parse (b : List Byte) : Shape :=
  let ctl := fieldOf b 3 1
  { kind := fieldOf b 0 1, elem := fieldOf b 1 1, op := fieldOf b 2 1, scope := ctl % 8, be := bitOf ctl 3,
    bspace := if bitOf ctl 4 then 2 else 1, baddr := fieldOf b 4 4, sspace := fieldOf b 8 1, dspace := fieldOf b 9 1,
    dmask := fieldOf b 10 1, policy := fieldOf b 11 1, count0 := fieldOf b 12 4, count1 := fieldOf b 16 2,
    count2 := fieldOf b 18 2, saddr := fieldOf b 24 8, daddr := fieldOf b 32 8, sstr1 := signed32 (fieldOf b 40 4),
    sstr2 := signed32 (fieldOf b 44 4), dstr1 := signed32 (fieldOf b 48 4), dstr2 := signed32 (fieldOf b 52 4),
    stataddr := fieldOf b 56 8 }

/-- Bytes of a REDUCE element. -/
def elemBytes (e : Nat) : Nat := if e = 0 || e = 3 then 4 else 2

/-- R439, for a gang of n groups. -/
def shapeBad (b : List Byte) (n : Nat) : Bool :=
  let h := Shape.parse b
  let ctl := fieldOf b 3 1
  4 ≤ h.kind || 32 ≤ ctl || 6 ≤ h.scope || (!h.be && (bitOf ctl 4 || h.baddr != 0)) || h.stataddr % 4 != 0
    || 2 ^ 48 ≤ h.stataddr || fieldOf b 20 4 != 0 ||
  if h.kind = 3 then h.elem != 0 || h.op != 0 || fieldOf b 4 20 != 0 || fieldOf b 32 24 != 0
  else
    4 ≤ h.sspace || 4 ≤ h.dspace || 4 ≤ h.policy || h.count0 = 0 || 65536 < h.count0 || h.count1 = 0 || h.count2 = 0
      || 16777215 < h.count0 * h.count1 * h.count2 || (h.sspace != 0 && 2 ^ 32 ≤ h.saddr) || (h.dspace != 0 && 2 ^ 32 ≤ h.daddr)
      || (if h.kind = 2 then
            let e := elemBytes h.elem
            4 ≤ h.elem || 3 ≤ h.op || h.count0 % e != 0 || h.saddr % e != 0 || h.daddr % e != 0 || h.sstr1 % e != 0
              || h.sstr2 % e != 0 || h.dstr1 % e != 0 || h.dstr2 % e != 0
          else h.elem != 0 || h.op != 0)
      || (if h.kind = 1 then h.dspace != 2 || h.dmask = 0 || 2 ^ n ≤ h.dmask || bitsOf h.daddr 21 19 != 0 else h.dmask != 0)

/-- Where the byte with a number lies (R439): bytes are numbered row by row. -/
def Shape.at (h : Shape) (base : Nat) (str1 str2 : Int) (e : Nat) : Int :=
  let row := e / h.count0
  (base : Int) + (e % h.count0 : Nat) + (row % h.count1 : Nat) * str1 + (row / h.count1 : Nat) * str2
def Shape.srcOf (h : Shape) (e : Nat) : Int := h.at h.saddr h.sstr1 h.sstr2 e
def Shape.dstOf (h : Shape) (e : Nat) : Int := h.at h.daddr h.dstr1 h.dstr2 e

/-- The parts in which a shape is written, as (first byte, length): elements of a REDUCE, else the pieces of each row
within 16-byte parts of the destination (R277, R440). -/
def Shape.pieces (h : Shape) : List (Nat × Nat) :=
  (List.range (h.count1 * h.count2)).flatMap (fun row =>
    let e := row * h.count0
    if h.kind = 2 then (List.range (h.count0 / elemBytes h.elem)).map (fun i => (e + i * elemBytes h.elem, elemBytes h.elem))
    else (granules (h.count0 / 16 + 2) (h.dstOf e % 16).toNat 0 h.count0).map (fun g => (e + g.2.1, g.2.2)))

/-- The ranks a shape writes: those of DMASK for BCAST, else one write. -/
def Shape.ranks (h : Shape) : List Nat := (List.range 8).filter (bitOf h.dmask)

/-- The barriers a shape subtracts from at the end (R441), with their generations (R432). -/
def State.shapeBars (s : State) (gid : Nat) (h : Shape) : List (Nat × Option Nat) :=
  if !h.be then []
  else if h.kind = 1 && h.bspace = 2 && bitsOf h.baddr 21 19 = 0 then
    h.ranks.map (fun r => (r * 2 ^ 19 + h.baddr, s.barGen gid 2 (r * 2 ^ 19 + h.baddr)))
  else [(h.baddr, s.barGen gid h.bspace h.baddr)]

/-! ## TXF (R438) -/

/-- A read that the present word makes through the transfer unit. A fault parks the word; a failed replay, or a read that
can never succeed, traps FATAL_FAULT at the word. -/
def State.wordRead (s : State) (va n : Nat) (k : List Byte → State → Out) : Out :=
  let c := s.warp.clause
  match s.warp.wordFailed with
  | some code =>
    let s := s.setWarp { s.warp with wordFailed := none }
    .next (s.takeTrap c.hdr c.resume c.mask ⟨cFatalFault, c.mask, va, 48⟩ (tpcOf c.hdr c.pc) (code == 0x22))
  | none =>
    match s.engRead (whoWarp (warpKey s.curG s.curW)) s.group.ctx va n with
    | (.ok bs, s) => k bs s
    | (.wait, s) => .next (s.setWarp { s.warp with stall := .xlat, wordTag := none })
    | (.failed, s) => .next (s.trap ⟨cFatalFault, s.warp.clause.mask, va, 48⟩)
    | (.park code a ppa, s) =>
      let (t, s) := s.park s.group.ctx a code ppa .engRead 2
      .next (s.setWarp { s.warp with stall := .xlat, wordTag := t })

/-- The reads of the present word are over, unless it waits for one (R438). -/
def endWord (r : Out) : Out :=
  match r with
  | .next s => .next (if s.warp.stall == .xlat && s.warp.wordTag.isNone then s else s.endFetches (whoWarp (warpKey s.curG s.curW)))
  | r => r

/-- `TXF` commands in flight on a core. -/
def State.coreTransfers (s : State) (core : Nat) : Nat :=
  (s.ops.filter (fun o =>
    match o.body, o.owner with
    | .txf _, .warp g _ => (s.groupAt g).place == .core core
    | _, _ => false)).length

/-- A malformed record traps SPACE_RANGE (R438, R74). -/
def State.badRecord (s : State) (va : Nat) : Out := .next (s.trap ⟨cSpaceRange, s.warp.clause.mask, va, 48⟩)

/-- Start a transfer of kind 0 to 2, or a collective already started under number `coll`. -/
def State.issueTxf (s : State) (o : UxOps) (va : Nat) (h : Shape) (coll : Nat) : State :=
  let body : TxfBody := { shape := h, va := va, dreg := o.d.toNat, gen := s.shapeBars s.curG h, written := [], coll := coll }
  let s := s.addOp o.fs 0 h.scope [] (.txf body)
  (s.setWarp s.warp.noteStore).retire o.size

def execTxf (o : UxOps) (s : State) : Out :=
  endWord <| s.checked { ss := [(o.a.toNat, 2)], fs := some o.fs, conv := .live } <| s.guarded o.q o.size <|
    s.memWord (some o.fs) fun s =>
      let va := (s.warp.getS64 o.a.toNat).toNat
      if 2 ^ 48 ≤ va then s.badRecord va
      else if va % 64 ≠ 0 then .next (s.trap ⟨cMisaligned, s.warp.clause.mask, va, 48⟩)
      else if 64 ≤ s.coreTransfers s.group.coreId then .next (s.stallFor .engine)
      else if (s.translate s.group.ctx va .engRead 64 false).1 == .permission then
        .next (s.trap ⟨cPermission, s.warp.clause.mask, va, 48⟩)
      else s.wordRead va 64 fun b s =>
        let h := Shape.parse b
        if shapeBad b s.group.gangSize then s.badRecord va
        else if h.kind ≠ 3 then .next (s.issueTxf o va h 0)
        else s.wordRead h.saddr 128 fun cb s =>
          let c := Coll.parse cb s.nextOp s.group.ctx
          s.wordRead (fieldOf cb 48 8) (4 * fieldOf cb 28 4) fun lb s =>
            let list := (piecesOf 4 (fieldOf cb 28 4) lb).map ofBytes
            if h.saddr % 64 ≠ 0 || collBad cb s.pod.pkg s.podSize list then s.badRecord h.saddr
            else if 256 ≤ s.pod.colls.length then .next (s.stallFor .engine)
            else
              let (k, s) := s.startColl { c with list := list }
              .next (s.issueTxf o va h k)

/-! ## TXCAN (R442) -/

/-- The warp's transfers that a `TXCAN` names. -/
def State.txfTargets (s : State) (g w : Nat) (aux : BitVec 8) : List Nat :=
  (s.ops.filter (fun o =>
    match o.body with
    | .txf _ => o.owner == .warp g w && (aux.getLsbD 4 || o.flag == (aux.extractLsb' 0 4).toNat)
    | _ => false)).map (fun o => o.id)

def execTxcan (o : UxOps) (s : State) : Out :=
  s.checked { fs := some o.fs, conv := .live } <| s.guarded o.q o.size <| s.memWord (some o.fs) fun s =>
    let ts := s.txfTargets s.curG s.curW o.aux
    let s : State := { s with ops := s.ops.map (fun x => if ts.contains x.id then { x with cancelled := true, park := none, queuedCode := none } else x) }
    .next ((s.sweepPend.addOp o.fs 0 0 [] (.txcan { targets := ts })).retire o.size)

/-! ## Module queues (R443) -/

/-- The target of a queue operation is module memory, or the fault parks. -/
def XRes.moduleOk (x : XRes) : Bool :=
  match x with
  | .ok (.phys a) _ _ _ => ppaKind a == 1
  | .park _ _ => true
  | _ => false

def mqIssue (o : UxOps) (enq : Bool) (s : State) : Out :=
  let n := 8 * 2 ^ (o.md.extractLsb' 0 2).toNat
  let b := match o.b with
    | .sreg r => r.toNat
    | _ => 0
  s.checked { ss := [(o.a.toNat, 2), (b, n / 4)], fs := some o.fs, conv := .live } <| s.guarded o.q o.size <|
    s.memWord (some o.fs) fun s =>
      let va := (s.warp.getS64 o.a.toNat).toNat
      if 2 ^ 48 ≤ va then .next (s.trap ⟨cSpaceRange, s.warp.clause.mask, va, 48⟩)
      else if va % 64 ≠ 0 then .next (s.trap ⟨cMisaligned, s.warp.clause.mask, va, 48⟩)
      else
        match s.checkAccess 0 16 3 true .atomic true [{ lane := s.warp.low, addr := va }] with
        | (.inl t, s) => .next (s.trap { t with mask := s.warp.clause.mask })
        | (.inr ps, s) =>
          if ps.any (fun p => !p.2.moduleOk) then .next (s.trap ⟨cPermission, s.warp.clause.mask, va, 48⟩)
          else
            let (parts, s) := s.settle s.group.ctx 0 .atomic ps
            let body : MqBody := { enq := enq, va := va, bytes := n, sreg := b, dreg := o.d.toNat,
                                   data := if enq then s.warp.sBytes b n else [] }
            let s := s.addOp o.fs (if enq then 2 else 1) o.aux.toNat parts (.mq body)
            .next ((s.setWarp s.warp.noteStore).retire o.size)

def execMqEnq (o : UxOps) (s : State) : Out := mqIssue o true s
def execMqDeq (o : UxOps) (s : State) : Out := mqIssue o false s

end Sys2Proof.Machine
end

