-- ==== Sys2Proof/Machine/Matrix.lean ====
section
/-!
DEFINITION. The matrix commands and `ARDL` at issue (15 R446 to R463).
-/
namespace Sys2Proof.Machine

/-! ## Quadrants and their holder (R447, R449) -/

/-- The quadrants of the issuing warp: its own, and the even one of its pair. -/
def State.ownQuad (s : State) : Nat := quadKey s.group.coreId s.warp.subcore
def State.evenQuad (s : State) : Nat := quadKey s.group.coreId (s.warp.subcore / 2 * 2)
def State.oddSide (s : State) : Bool := s.warp.subcore % 2 == 1

/-- An M warp on the odd side of a pair that its own group's commands leave FUSED (R449). -/
def State.fusedOdd (s : State) : Bool :=
  s.oddSide && (s.quadAt s.evenQuad).viewF && (s.quadAt s.evenQuad).holder == some s.curG

/-- Whether another group holds a quadrant. -/
def State.quadTaken (s : State) (k : Nat) : Bool := (s.quadAt k).holder.any (fun g => g != s.curG)

/-- Acquire a free quadrant in the cleared state. -/
def State.acquireQuad (s : State) (k : Nat) : State :=
  if (s.quadAt k).holder.isNone then s.setQuad k { (s.quadAt k).cleared with holder := some s.curG } else s

/-- The quadrants a command of a pair reaches: both where the view is fused. -/
def State.reach (s : State) (k : Nat) : List Nat := if (s.quadAt k).viewF then [k, k + 1] else [k]

/-- Whether the view of the command's quadrant is fused. -/
def State.viewFused (s : State) : Bool := (s.quadAt s.ownQuad).viewF

/-- Whether a command writes memory (R255). -/
def MxBody.drains : MxBody → Bool
  | .adrn _ => true
  | _ => false

/-- Put a command in its quadrant's queue, as an operation of the warp. -/
def State.queueMx (s : State) (fs : Bool) (k : Nat) (body : MxBody) (view : Quad → Quad) : State :=
  let c : MxCmd := { op := s.nextOp, gid := s.curG, wid := s.curW, body := body, fmode := s.warp.fmode }
  let s := s.acquireQuad k
  let q := s.quadAt k
  let s := (s.setQuad k { view q with queue := q.queue ++ [c] }).addOp fs 0 1 [] .matrix
  if body.drains then s.setWarp s.warp.noteStore else s

/-- The checks of every MX form, then its own; the quadrant must not be held by another group. -/
def mxForm (o : UxOps) (s : State) (n : Nat) (k : State → Out) : Out :=
  s.checked { ss := if n = 0 then [] else [(o.a.toNat, n)], fs := some o.fs, mx := true, conv := .live } <|
    s.guarded o.q o.size <|
      if s.fusedOdd then .next (s.trapEntry cRole 0)
      else if s.warp.getF (s.warp.clause.flagOf o.fs) = 63 then .next (s.stallFor .flag)
      else k s

/-- The command stalls while another group holds its quadrant (R447). -/
def State.withQuad (s : State) (ks : List Nat) (k : State → Out) : Out :=
  if ks.any s.quadTaken then .next (s.stallFor .quad) else k s

/-- Reason 2: a field or value check of the description. -/
def State.reason2 (s : State) : Out := .next (s.illegal 2)

/-- The row addresses of a stream, a weight plane or a drain. -/
def rowAddrs (base : Nat) (stride : Int) (n : Nat) : List Int := (List.range n).map (fun (r : Nat) => (base : Int) + (r : Int) * stride)

/-- Address limits and alignment of the rows (R449): none if they pass. -/
def State.rowTrap (s : State) (space base : Nat) (stride : Int) (rows bytes : Nat) : Option TrapInfo :=
  let m := s.warp.clause.mask
  let bad := (rowAddrs base stride rows).filter (fun a => a < 0 || !s.inSpace s.group space a.toNat bytes)
  match bad with
  | a :: t => some ⟨cSpaceRange, m, wrapNat 32 (t.foldl (fun x y => if y < x then y else x) a), space + 48⟩
  | [] => if base % 4 != 0 || stride % 4 != 0 then some ⟨cMisaligned, m, base, space + 48⟩ else none

/-- Issue a command whose quadrant is its own and whose checks have passed. -/
def State.issueMx (s : State) (o : UxOps) (body : MxBody) (view : Quad → Quad) : Out :=
  s.withQuad (s.reach s.ownQuad) fun s =>
    .next ((s.queueMx o.fs s.ownQuad body view).retire o.size)

/-! ## QFUSE (R452) -/

/-- The issue-time view after a change of fusion: all planes EMPTY. -/
def Quad.emptyView (q : Quad) (fused : Bool) : Quad := { q with viewA := none, viewS := none, viewF := fused }

def execQfuse (o : UxOps) (s : State) : Out :=
  mxForm o s 0 fun s =>
    let mode := (o.aux.extractLsb' 0 2).toNat
    let k := s.ownQuad
    let held := (s.quadAt k).holder == some s.curG
    if mode = 2 then
      if !held then .next ((s.addOp o.fs 0 0 [] .nothing).retire o.size)
      else s.issueMx o (.qfuse 2) (fun q => { q.emptyView false with seq := 0 })
    else if mode = 1 then
      if s.oddSide then s.reason2
      else s.withQuad [k, k + 1] fun s =>
        let s := (s.acquireQuad k).acquireQuad (k + 1)
        let s := s.setQuad (k + 1) ((s.quadAt (k + 1)).emptyView false)
        .next ((s.queueMx o.fs k (.qfuse 1) (fun q => q.emptyView true)).retire o.size)
    else if !s.viewFused then s.withQuad [k] fun s => .next (((s.acquireQuad k).addOp o.fs 0 0 [] .nothing).retire o.size)
    else s.issueMx o (.qfuse 0) (fun q => q.emptyView false)

/-! ## Weight planes (R453, R454) -/

/-- The word of a descriptor. -/
def State.desc (s : State) (o : UxOps) (i : Nat) : Nat := (s.warp.getS (o.a.toNat + i)).toNat

def execWload (o : UxOps) (s : State) : Out :=
  mxForm o s 4 fun s =>
    let x := s.desc o 3
    let d : WloadDesc := { saddr := s.desc o 0, stride := signed32 (s.desc o 1), scale := BitVec.ofNat 32 (s.desc o 2),
                           space := if bitOf x 4 then 2 else 1, fmt := x % 16 }
    if 32 ≤ x || 8 ≤ d.fmt then s.reason2
    else
      match s.rowTrap d.space d.saddr d.stride (if s.viewFused then 64 else 32) (mxRowBytes d.fmt) with
      | some t => .next (s.trap t)
      | none => s.issueMx o (.wload d) (fun q => { q with viewS := some d.fmt })

def execWswap (o : UxOps) (s : State) : Out :=
  mxForm o s 0 fun s => s.issueMx o .wswap (fun q => { q with viewA := q.viewS, viewS := q.viewA })

/-! ## Streams (R455) -/

def execMms (o : UxOps) (s : State) : Out :=
  mxForm o s 8 fun s =>
    let x := s.desc o 3
    let q := s.quadAt s.ownQuad
    let view := if q.holder == some s.curG then q.viewA else none
    let kmask := s.desc o 4 + s.desc o 5 * 2 ^ 32
    let afmt := (o.md.extractLsb' 0 4).toNat
    let d : MmsDesc := { addr := s.desc o 0, stride := signed32 (s.desc o 1), ascale := BitVec.ofNat 32 (s.desc o 2),
                         space := if bitOf x 18 then 2 else 1, row0 := bitsOf x 17 9, rows := x % 512 + 1,
                         kmask := BitVec.ofNat 64 kmask, afmt := afmt, ovw := o.md.getLsbD 4, seq := q.seq }
    if 2 ^ 19 ≤ x || s.desc o 6 != 0 || s.desc o 7 != 0 || 512 < d.row0 + d.rows || (s.desc o 5 != 0 && !s.viewFused)
      || view.isNone || 8 ≤ afmt || !mxPair (view.getD 0) afmt then s.reason2
    else
      match s.rowTrap d.space d.addr d.stride d.rows (mxRowBytes afmt * (if s.viewFused then 2 else 1)) with
      | some t => .next (s.trap t)
      | none => s.issueMx o (.mms d) (fun q => { q with seq := (q.seq + 1) % 256 })

/-! ## Clearing and draining (R458, R459) -/

def execAclr (o : UxOps) (s : State) : Out :=
  mxForm o s 0 fun s =>
    let b := s.warp.usrc o.b
    if 65536 ≤ b.toNat then s.reason2 else s.issueMx o (.aclr (b.extractLsb' 0 16)) id

def execAdrn (o : UxOps) (s : State) : Out :=
  mxForm o s 8 fun s =>
    let x := s.desc o 3
    let bsp := if bitOf x 15 then 2 else 1
    let baddr := s.desc o 4
    let be := bitOf x 14
    let d : AdrnDesc := { daddr := s.desc o 0, stride := signed32 (s.desc o 1), oscale := BitVec.ofNat 32 (s.desc o 2),
                          bspace := bsp, be := be, clr := bitOf x 13, dspace := if bitOf x 12 then 2 else 1,
                          ofmt := bitsOf x 11 8, ntiles := bitsOf x 7 4 + 1, tile0 := x % 16, baddr := baddr,
                          gen := if be then s.barGen s.curG bsp baddr else none }
    if 65536 ≤ x || 9 ≤ d.ofmt || 16 < d.tile0 + d.ntiles || (be && (baddr % 16 != 0 || d.gen.isNone)) || (!be && baddr != 0)
      || s.desc o 5 != 0 || s.desc o 6 != 0 || s.desc o 7 != 0 then s.reason2
    else
      match s.rowTrap d.dspace d.daddr d.stride (32 * d.ntiles) (mxRowBytes d.ofmt) with
      | some t => .next (s.trap t)
      | none => s.issueMx o (.adrn d) id

/-! ## Status and reads (R461, R462) -/

def execMstat (o : UxOps) (s : State) : Out :=
  mxForm o s 0 fun s =>
    let kind := (o.aux.extractLsb' 0 3).toNat
    let clr := o.md.getLsbD 0
    let b := (s.warp.usrc o.b).toNat
    if 5 ≤ kind || (clr && kind != 0) || (if kind = 0 then 16 ≤ b else b != 0) then s.reason2
    else s.issueMx o (.mstat kind b clr o.d.toNat) id

/-- `ARDL` reads the quadrant of its sub-core once every earlier command of it has been done; a fence holds it as a word of
major 0x35 (14 R425). -/
def execArdl (o : LxOps) (s : State) : Out :=
  s.checked { o.req 1 1 0 0 with fs := some o.fs, mx := true } <| s.memWord (some o.fs) fun s =>
    if s.fusedOdd then .next (s.trapEntry cRole 0)
    else
      let act := s.warp.active o.g
      if act = 0 then .next ((s.addOp o.fs 0 0 [] .nothing).retire o.size)
      else s.withQuad (s.reach s.ownQuad) fun s =>
        let addrs := (lanesOf act).map (fun l => (l, s.warp.getV o.a.toNat l))
        .next ((s.queueMx o.fs s.ownQuad (.ardl act o.d.toNat addrs) id).retire o.size)

end Sys2Proof.Machine
end

