-- ==== Sys2Proof/Machine/MatrixRun.lean ====
section
/-!
DEFINITION. The quadrants at work (15 R448, R452 to R466): the queued commands advance row by row.
-/
namespace Sys2Proof.Machine

/-! ## Order (R448) -/

/-- Accumulator rows a command has still to read or write, as (first, end) ranges. -/
def MxCmd.rows (c : MxCmd) : List (Nat × Nat) :=
  match c.body with
  | .mms d => [(d.row0 + c.row, d.row0 + d.rows)]
  | .adrn d => [(32 * d.tile0 + c.row, 32 * (d.tile0 + d.ntiles))]
  | .aclr m => (List.range 16).filterMap (fun k => if m.getLsbD k then some (32 * k, 32 * k + 32) else none)
  | .ardl _ _ _ => [(0, 512)]
  | _ => []

/-- The rows that its next step touches. -/
def MxCmd.nextRows (c : MxCmd) : List (Nat × Nat) :=
  match c.body with
  | .mms d => [(d.row0 + c.row, d.row0 + c.row + 1)]
  | .adrn d => [(32 * d.tile0 + c.row, 32 * d.tile0 + c.row + 1)]
  | _ => c.rows

def overlap (a b : List (Nat × Nat)) : Bool := a.any (fun x => b.any (fun y => x.1 < y.2 && y.1 < x.2))

/-- What a command does to the planes and to the rest of the quadrant. -/
inductive MxClass where
  | all | load | swap | stream | rows
  deriving DecidableEq, Repr

def MxBody.cls : MxBody → MxClass
  | .qfuse _ => .all
  | .mstat _ _ _ _ => .all
  | .ardl _ _ _ => .all
  | .wload _ => .load
  | .wswap => .swap
  | .mms _ => .stream
  | .aclr _ => .rows
  | .adrn _ => .rows

/-- Whether an earlier command holds up the next step of a later one. -/
def MxCmd.blocks (e c : MxCmd) : Bool :=
  match e.body.cls, c.body.cls with
  | .all, _ => true
  | _, .all => true
  | .load, .load => true
  | .swap, .load => true
  | .load, .swap => true
  | .swap, .swap => true
  | .stream, .swap => true
  | .swap, .stream => true
  | .stream, .stream => true
  | _, _ => overlap e.rows c.nextRows

def MxBody.isFuse : MxBody → Bool
  | .qfuse _ => true
  | _ => false

/-- The other quadrant of a pair. -/
def partner (k : Nat) : Nat := if k % 2 = 0 then k + 1 else k - 1

/-- Whether a queued command may take its next step: no earlier command of its queue blocks it, and no earlier `QFUSE`
stands between the two queues of the pair. -/
def State.mxReady (s : State) (k : Nat) (c : MxCmd) : Bool :=
  (s.quadAt k).queue.all (fun e => c.op ≤ e.op || !e.blocks c) &&
    (s.quadAt (partner k)).queue.all (fun e => c.op ≤ e.op || !(e.body.isFuse || c.body.isFuse))

/-! ## Memory of the group -/

def State.mxPlace (s : State) (g space addr : Nat) : Place :=
  if space = 1 then .scratch g addr else .scratch (s.gangMate g (addr / 2 ^ 19)) (addr % 2 ^ 19)

def State.mxRead (s : State) (g space : Nat) (a : Int) (n : Nat) : List Byte := s.localBytes (s.mxPlace g space a.toNat) n
def State.putMx (s : State) (k : Nat) (c : MxCmd) : State :=
  let q := s.quadAt k
  s.setQuad k { q with queue := q.queue.map (fun e => if e.op = c.op then c else e) }

/-- The bytes of a row, whose 16-byte parts are read one by one, in an order that is not stated (R277); none until the last
has been read. -/
def State.mxParts (s : State) (k : Nat) (c : MxCmd) (space : Nat) (a : Int) (n : Nat) : Option (List Byte) × State :=
  let ps := granulesAt a.toNat n
  let has (p : Nat × Nat) : Option (List Byte) := (c.got.find? (fun g => g.1 == p.1)).map (fun g => g.2)
  match ps.filter (fun p => (has p).isNone) with
  | [] => (some (ps.flatMap (fun p => (has p).getD [])), s)
  | l =>
    let (i, s) := s.pick l.length
    match l[i]? with
    | none => (none, s)
    | some p => (none, s.putMx k { c with got := c.got ++ [(p.1, s.mxRead c.gid space p.1 p.2)] })

def State.mxWrite (s : State) (g space : Nat) (a : Int) (bs : List Byte) : State := s.putLocal (s.mxPlace g space a.toNat) bs

/-! ## Planes and rows -/

def Plane.row (p : Plane) (k n : Nat) : List Byte := Map.getMany 0 p.bytes (64 * k) n
def Plane.setRow (p : Plane) (k : Nat) (bs : List Byte) : Plane := { p with bytes := Map.setMany 0 p.bytes (64 * k) bs }

/-- The elements of the weight rows of a plane. -/
def Plane.weights (p : Plane) : List (List FVal) :=
  match p.fmt with
  | none => []
  | some f => (List.range 32).map (fun k => mxRow f (p.row k (mxRowBytes f)))

def Quad.accRow (q : Quad) (r : Nat) : List Nat := (List.range 32).map (fun j => (Map.get 0 q.acc (32 * r + j)).toNat)
def Quad.setAccRow (q : Quad) (r : Nat) (xs : List Nat) : Quad :=
  { q with acc := Map.setMany 0 q.acc (32 * r) (xs.map (fun x => BitVec.ofNat 32 x)) }

/-! ## Ends of commands -/

def Warp.addReport (w : Warp) (r : Report) : Warp := { w with reports := w.reports ++ [r] }

def State.addReport (s : State) (g w : Nat) (r : Report) : State := s.putWarp g w ((s.warpAt g w).addReport r)

/-- A warp's operation ends: its flag falls and it is forgotten. -/
def State.endOp (s : State) (id : Nat) : State :=
  match s.ops.find? (fun o => o.id == id) with
  | none => s
  | some o =>
    let s : State := { s with ops := s.ops.filter (fun x => x.id != id) }
    match o.owner with
    | .warp g w => s.putWarp g w ((s.warpAt g w).flagDown o.flag)
    | .node _ => s

/-- The work of a warp's operation is done: its results are due, each register at a moment of its own (R252). -/
def State.results (s : State) (id : Nat) (todo : List (Nat × Word)) : State :=
  { s with ops := s.ops.map (fun o => if o.id = id then { o with parts := [], park := none, queuedCode := none, body := .result todo } else o) }

def State.opFlag (s : State) (id : Nat) : Nat := ((s.ops.find? (fun o => o.id == id)).map (fun o => o.flag)).getD 15

/-- A command leaves its queue. -/
def State.leaveMx (s : State) (k : Nat) (c : MxCmd) : State :=
  let q := s.quadAt k
  s.setQuad k { q with queue := q.queue.filter (fun e => e.op != c.op) }

/-- A command ends; a recorded NaN event is reported (R317). -/
def State.endMx (s : State) (k : Nat) (c : MxCmd) : State :=
  let s := s.leaveMx k c
  let s := match c.nan with
    | some info => s.addReport c.gid c.wid { order := c.op, flag := s.opFlag c.op, cause := cMatrixNan, mask := none, addr := 0, info := info }
    | none => s
  s.endOp c.op

/-- A command of queue k ends with UNCORRECTABLE for a row of a quadrant that failed its check (R261, R465). -/
def State.failMx (s : State) (k : Nat) (c : MxCmd) (quad row : Nat) : State :=
  let info : Nat := 0xF + 48 + quad % 4 * 256 + row * 1024
  let s := s.addReport c.gid c.wid { order := c.op, flag := s.opFlag c.op, cause := cUncorrectable, mask := none, addr := 0,
                                     info := BitVec.ofNat 32 info }
  s.endMx k { c with nan := none }

/-- After a row: on to the next, or the end. -/
def State.rowDone (s : State) (k : Nat) (c : MxCmd) (total : Nat) : State :=
  let c := { c with row := c.row + 1, got := [], out := none }
  if total ≤ c.row then s.endMx k c else s.putMx k c

/-- The NaN event of a row, if MNANTRAP was captured and none is recorded yet. -/
def MxCmd.event (c : MxCmd) (k row : Nat) (col : Option Nat) : MxCmd :=
  match col, c.nan with
  | some j, none =>
    if c.fmode.getLsbD 5 then
      { c with nan := some (BitVec.ofNat 32 (k % 4 + row / 32 * 4 + row % 32 * 64 + j * 2048)) }
    else c
  | _, _ => c

/-! ## The steps -/

/-- `QFUSE` takes effect (R452). -/
def State.fuseStep (s : State) (k mode : Nat) : State :=
  let q := s.quadAt k
  let p := s.quadAt (partner k)
  let free (x : Quad) (more : Bool) : Quad :=
    { x with active := {}, shadow := {}, acc := [], sat := [], awm := {}, fused := false, holder := if more then x.holder else none }
  if mode = 2 then
    let s' := s.setQuad k (free q (1 < q.queue.length))
    if q.fused then s'.setQuad (partner k) (free p (!p.queue.isEmpty)) else s'
  else
    (s.setQuad k { q with active := {}, shadow := {}, fused := mode == 1 }).setQuad (partner k) { p with active := {}, shadow := {} }

/-- The issue-time view once a weight load has failed: EMPTY in place of the plane, under the loads and swaps that still
wait; a later `QFUSE` has made the view its own. -/
def State.viewFailed (s : State) (k op : Nat) : State :=
  let q := s.quadAt k
  let later := q.queue.filter (fun e => e.op != op)
  if (later ++ (s.quadAt (partner k)).queue).any (fun e => op < e.op && e.body.isFuse) then s
  else
    let v := later.foldl (fun (v : Option Nat × Option Nat) e =>
      match e.body with
      | .wload d => (v.1, some d.fmt)
      | .wswap => (v.2, v.1)
      | _ => v) (q.active.fmt, none)
    s.setQuad k { q with viewA := v.1, viewS := v.2 }

/-- One weight row (R453); `fail`: the address of a byte of it that cannot be read. A load that failed so leaves the plane
EMPTY and reports UNCORRECTABLE with the lowest such address (R261). -/
def State.loadStep (s : State) (k : Nat) (c : MxCmd) (d : WloadDesc) (fail : Option Nat) : State :=
  let fused := (s.quadAt k).fused
  let total := if fused then 64 else 32
  let c := match fail with
    | none => c
    | some a => { c with bad := some ((c.bad.map (fun b => min a b)).getD a) }
  match s.mxParts k c d.space ((d.saddr : Int) + (c.row : Int) * d.stride) (mxRowBytes d.fmt) with
  | (none, s) => s
  | (some bs, s) =>
  let fmt := if c.bad.isSome then none else some d.fmt
  let put (s : State) (k r : Nat) (f : Option Nat) : State :=
    let q := s.quadAt k
    let base : Plane := if r = 0 then {} else q.shadow
    s.setQuad k { q with shadow := { base.setRow r bs with fmt := f, scale := d.scale } }
  let s := if c.row < 32 then put s k c.row (if fused || c.row < 31 then none else fmt)
    else put s (k + 1) (c.row - 32) (if c.row = 63 then fmt else none)
  let s := if fused && c.row = 63 then
      let q := s.quadAt k
      s.setQuad k { q with shadow := { q.shadow with fmt := fmt } }
    else s
  let s := match c.bad with
    | none => s
    | some a =>
      if c.row + 1 < total then s
      else
        let s := s.addReport c.gid c.wid { order := c.op, flag := s.opFlag c.op, cause := cUncorrectable, mask := none, addr := a,
                                           info := BitVec.ofNat 32 (d.space + 48) }
        s.viewFailed k c.op
  s.rowDone k c total

def Quad.swap (q : Quad) : Quad := { q with active := q.shadow, shadow := q.active }

/-- One stream row (R456). -/
def State.streamStep (s : State) (k : Nat) (c : MxCmd) (d : MmsDesc) : State :=
  let q := s.quadAt k
  match q.active.fmt with
  | none => s.endMx k c
  | some wf =>
    let sigma := c.sigma.getD (BitVec.ofNat 32 (Fmt.f32.mul FpMode.plain d.ascale.toNat q.active.scale.toNat).1)
    let n := mxRowBytes d.afmt
    match s.mxParts k c d.space ((d.addr : Int) + (c.row : Int) * d.stride) (if q.fused then 2 * n else n) with
    | (none, s) => s
    | (some bs, s) =>
    let row := mxRow d.afmt (bs.take n) ++ (if q.fused then mxRow d.afmt (bs.drop n) else [])
    let weights := q.active.weights ++ (if q.fused then (s.quadAt (partner k)).active.weights else [])
    let group := (List.range 64).filter (fun i => d.kmask.getLsbD i)
    let r := d.row0 + c.row
    let (xs, fl, ev) := mmsRow (wf == 4) d.ovw row weights group sigma.toNat (q.accRow r)
    let q := q.setAccRow r xs
    let last := d.rows ≤ c.row + 1
    let s := s.setQuad k (if last then { q with awm := ⟨d.seq, d.row0, d.rows⟩ } else q)
    let s := s.putGroup c.gid ((s.groupAt c.gid).raise fl)
    s.rowDone k ({ c with sigma := some sigma }.event k r ev) d.rows

/-- A row is formed from the accumulators (R460): its flags, clamps and NaN event, and its parts to write. -/
def State.drainForm (s : State) (k : Nat) (c : MxCmd) (d : AdrnDesc) : State :=
  let q := s.quadAt k
  let r := 32 * d.tile0 + c.row
  let (bs, fl, clamps, ev) := drainRow (drainMode c.fmode d.ofmt) d.ofmt d.oscale.toNat (q.accRow r)
  let q := s.quadAt k
  let q := if d.clr then q.setAccRow r (List.replicate 32 0) else q
  let s := s.setQuad k { q with sat := Map.set 0 q.sat (r / 32) (min (2 ^ 32 - 1) (Map.get 0 q.sat (r / 32) + clamps)) }
  let s := s.putGroup c.gid ((s.groupAt c.gid).raise fl)
  let a := ((d.daddr : Int) + (c.row : Int) * d.stride).toNat
  let parts := (granulesAt a bs.length).map (fun p => (p.1, (bs.drop (p.1 - a)).take p.2))
  s.putMx k { c.event k r ev with out := some parts }

/-- A drained row (R460): it is formed, its 16-byte parts are written one by one, and the tile's subtraction follows its last. -/
def State.drainStep (s : State) (k : Nat) (c : MxCmd) (d : AdrnDesc) : State :=
  match c.out with
  | none => s.drainForm k c d
  | some [] =>
    let s := if d.be && c.row % 32 = 31 then (s.barSub c.gid d.bspace d.baddr d.gen (32 * mxRowBytes d.ofmt)).2 else s
    s.rowDone k c (32 * d.ntiles)
  | some l =>
    let (i, s) := s.pick l.length
    match l[i]? with
    | none => s
    | some p => (s.mxWrite c.gid d.dspace p.1 p.2).putMx k { c with out := some (l.eraseIdx i) }

/-- Clear tiles (R458). -/
def Quad.clearTiles (q : Quad) (m : BitVec 16) : Quad :=
  { q with acc := q.acc.filter (fun e => !m.getLsbD (e.1 / 1024)), sat := q.sat.filter (fun e => !m.getLsbD e.1) }

/-- A format code as MSTAT shows it. -/
def fmtCode (f : Option Nat) : Nat := f.getD 15

/-- MSTAT (Table 15-7). -/
def Quad.status (q : Quad) (kind tile : Nat) : Nat :=
  if kind = 0 then Map.get 0 q.sat tile
  else if kind = 1 then fmtCode q.active.fmt + 16 * fmtCode q.shadow.fmt + (if q.fused then 256 else 0)
  else if kind = 2 then q.spares.length + (if q.offline then 4 else 0)
  else if kind = 3 then q.active.scale.toNat else q.shadow.scale.toNat

/-- The quadrant that a command of queue k reaches and that is OFFLINE (R465). -/
def State.dead (s : State) (k : Nat) : Option Nat :=
  (if (s.quadAt k).fused then [k, partner k] else [k]).find? (fun j => (s.quadAt j).offline)

/-- One step of a command that is ready. -/
def State.mxStep (s : State) (k : Nat) (c : MxCmd) : State :=
  let q := s.quadAt k
  if (s.ops.find? (fun o => o.id == c.op)).any (fun o => o.cancelled) then s.endMx k { c with nan := none }
  else
    match s.dead k with
    | some j => s.failMx k c j ((s.quadAt j).spares.getLast?.getD 0)
    | none =>
    match c.body with
    | .qfuse m => (s.fuseStep k m).endMx k c
    | .wload d => s.loadStep k c d none
    | .wswap =>
      let s := s.setQuad k q.swap
      let s := if q.fused then s.setQuad (partner k) (s.quadAt (partner k)).swap else s
      s.endMx k c
    | .mms d => s.streamStep k c d
    | .aclr m => (s.setQuad k (q.clearTiles m)).endMx k c
    | .adrn d => s.drainStep k c d
    | .mstat kind tile clr dreg =>
      let s := if clr then s.setQuad k { q with sat := Map.set 0 q.sat tile 0 } else s
      (s.leaveMx k c).results c.op [(sKey dreg, BitVec.ofNat 32 (q.status kind tile))]
    | .ardl m dreg addrs =>
      let elem (l : Nat) : Word :=
        let a := ((addrs.find? (fun x => x.1 == l)).map (fun x => x.2)).getD 0
        Map.get 0 q.acc (32 * (a.extractLsb' 0 9).toNat + (a.extractLsb' 16 5).toNat)
      (s.leaveMx k c).results c.op ((lanesOf m).map (fun l => (32 * dreg + l, elem l)))

/-- The queued command of an operation. -/
def State.mxFind (s : State) (id : Nat) : Option (Nat × MxCmd) :=
  s.quads.findSome? (fun q => (q.2.queue.find? (fun c => c.op == id)).map (fun c => (q.1, c)))

/-- MATRIX_COMMAND_COMPLETION: the next row of a command, or its end. `.op id 0 a` is the next row of a weight load, of
which the byte at address `a` cannot be read (R453): a fault of the memory, which comes from outside (DESIGN CHOICE, log 23). -/
def execMatrixCommandCompletion (s : State) : Out :=
  match s.arg with
  | .unit id =>
    match s.mxFind id with
    | some (k, c) => .next (if s.mxReady k c then s.mxStep k c else s)
    | none => .next s
  | .op id _ a =>
    match s.mxFind id with
    | some (k, c) =>
      match c.body with
      | .wload d =>
        let at' := ((d.saddr : Int) + (c.row : Int) * d.stride).toNat
        let dead := (s.ops.find? (fun o => o.id == id)).any (fun o => o.cancelled) || (s.dead k).isSome
        .next (if s.mxReady k c && !dead && at' ≤ a && a < at' + mxRowBytes d.fmt then s.loadStep k c d (some a) else s)
      | _ => .next s
    | none => .next s
  | _ => .next s

/-- ARRAY_ROW_FAILURE (R465): a row of quadrant `k` fails its check. The command that streams or loads there ends; the
row goes onto a spare, and the third failed row sets OFFLINE. -/
def execArrayRowFailure (s : State) : Out :=
  match s.arg with
  | .pair k row =>
    let home := if (s.quadAt (partner k)).fused && k % 2 = 1 then partner k else k
    let s := match (s.quadAt home).queue.find? (fun c => s.mxReady home c && c.body.cls != .all) with
      | some c => s.failMx home c k row
      | none => s
    let q := s.quadAt k
    .next (s.setQuad k (if q.spares.length < 2 then { q with spares := q.spares ++ [row] } else { q with offline := true }))
  | _ => .next s

end Sys2Proof.Machine
end

