-- ==== Sys2Proof/Machine/Records.lean ====
section
/-!
DEFINITION. Reading and accepting node records (06 R177 to R186; 11 R349 to R352).
-/
namespace Sys2Proof.Machine

/-- What reading a record ends in: a value, a replayable fault that is served first, a check that fails, or a read that
ends in failure. -/
inductive Rd (α : Type) where
  | ok (x : α)
  | park (code va ppa : Nat)
  | bad
  | lost
  /-- The record is not there yet: the read is made again. -/
  | wait
  deriving DecidableEq, Repr

/-- Read n bytes, then go on. -/
def State.rdThen {α : Type} (s : State) (who ctx va n : Nat) (k : List Byte → State → Rd α × State) : Rd α × State :=
  match s.engRead who ctx va n with
  | (.ok bs, s) => k bs s
  | (.park c v p, s) => (.park c v p, s)
  | (.wait, s) => (.wait, s)
  | (.failed, s) => (.lost, s)

/-! ## Kernel descriptors and overlay images (Tables 11-10, 11-11) -/

/-- The header of an image: (LENGTH, HOME), or malformed. -/
def imageHeader (b : List Byte) : Option (Nat × Nat) :=
  let len := fieldOf b 4 2
  let home := fieldOf b 6 1
  if fieldOf b 0 4 = 0x4C564F39 && 1 ≤ len && len ≤ 16384 && home ≤ 3 && fieldOf b 7 57 = 0 then some (len, home) else none

def kdescBad (b : List Byte) : Bool :=
  let budget (i : Nat) : Bool := 1 ≤ fieldOf b i 1 && fieldOf b i 1 ≤ 16
  fieldOf b 0 4 != 0x4B445343 || fieldOf b 4 1 != 1 || 3 ≤ fieldOf b 5 1 || !budget 6 || !budget 7 || !budget 8
    || (16 ≤ fieldOf b 9 1 && fieldOf b 9 1 != 0xFF) || fieldOf b 10 1 = 0 || 16 < fieldOf b 10 1 || fieldOf b 11 1 != 0
    || fieldOf b 12 4 % 256 != 0 || 524288 < fieldOf b 12 4 || fieldOf b 16 4 % 16 != 0 || 4096 < fieldOf b 16 4
    || fieldOf b 29 3 != 0 || fieldOf b 44 84 != 0

/-- What group start binds: (slot, overlay) for INIT0 to INIT2 and the handler. -/
def kdescInits (b : List Byte) : List (Nat × Nat) :=
  ((List.range 3).filterMap (fun i => if fieldOf b (26 + i) 1 = 0xFF then none else some (i, fieldOf b (26 + i) 1)))
    ++ (if fieldOf b 9 1 = 0xFF then [] else [(3, fieldOf b 9 1)])

/-- Read the headers of the overlays to bind (R351). -/
def State.readInits (s : State) (who ctx novl : Nat) (tab : List Byte) : List (Nat × Nat) → List (Nat × Nat × Nat × Nat) →
    Rd (List (Nat × Nat × Nat × Nat)) × State
  | [], acc => (.ok acc, s)
  | (slot, ovl) :: t, acc =>
    if novl ≤ ovl then (.bad, s)
    else
      let image := fieldOf tab (8 * ovl) 8
      match s.engRead who ctx image 64 with
      | (.park c v p, s) => (.park c v p, s)
      | (.wait, s) => (.wait, s)
      | (.failed, s) => (.lost, s)
      | (.ok b, s) =>
        match imageHeader b with
        | none => (.bad, s)
        | some (len, home) =>
          if home ≠ slot || image % 64 ≠ 0 then (.bad, s) else s.readInits who ctx novl tab t (acc ++ [(slot, ovl, image, len)])

/-! ## The launch part (Table 6-3) -/

def Launch.warps (l : Launch) : Nat := l.nc + l.nm + l.nv
def Launch.groups (l : Launch) : Nat := l.gx * l.gy * l.gz
def Launch.gangs (l : Launch) : Nat := l.groups / l.gang

/-- A launch record and its kernel descriptor as fields. -/
def Launch.parse (b k : List Byte) : Launch where
  gx := fieldOf b 56 2
  gy := fieldOf b 58 2
  gz := fieldOf b 60 2
  shapeX := fieldOf b 64 2
  shapeY := fieldOf b 66 2
  shapeZ := fieldOf b 68 2
  nc := fieldOf b 70 1
  nm := fieldOf b 71 1
  nv := fieldOf b 72 1
  budc := fieldOf b 73 1
  budm := fieldOf b 74 1
  budv := fieldOf b 75 1
  gang := fieldOf b 76 1
  cls := fieldOf b 77 1
  scratch := fieldOf b 80 4
  lanePriv := fieldOf b 84 4
  args := (List.range 8).map (fun i => BitVec.ofNat 32 (fieldOf b (96 + 4 * i) 4))
  novl := fieldOf k 10 1
  handler := fieldOf k 9 1
  ovltab := fieldOf k 32 8
  entryC := fieldOf k 20 2
  entryM := fieldOf k 22 2
  entryV := fieldOf k 24 2
  inits := []

/-- R183 and R351 for a launch, from its record and descriptor. -/
def launchBad (b k : List Byte) : Bool :=
  let l := Launch.parse b k
  let role (n bud min' entry : Nat) : Bool := n != 0 && (bud = 0 || 16 < bud || bud < min' || entry = 0xFFFF)
  fieldOf b 62 2 != 0 || fieldOf b 78 2 != 0 || fieldOf b 88 8 != 0 || l.gx = 0 || l.gy = 0 || l.gz = 0 || l.warps = 0
    || 32 < l.warps || l.shapeX * l.shapeY * l.shapeZ != 32 * l.warps || l.gang = 0 || 8 < l.gang
    || l.groups % l.gang != 0 || 3 ≤ l.cls || l.cls != fieldOf k 5 1 || l.scratch % 256 != 0 || 524288 < l.scratch
    || l.lanePriv % 16 != 0 || 4096 < l.lanePriv || l.scratch < fieldOf k 12 4 || l.lanePriv < fieldOf k 16 4
    || role l.nc l.budc (fieldOf k 6 1) l.entryC || role l.nm l.budm (fieldOf k 7 1) l.entryM
    || role l.nv l.budv (fieldOf k 8 1) l.entryV

/-- Read the launch part of a record in its context. -/
def State.readLaunch (s : State) (who ctx : Nat) (b : List Byte) : Rd Launch × State :=
  let kva := fieldOf b 48 8
  if kva % 64 ≠ 0 || 2 ^ 48 ≤ kva then (.bad, s)
  else s.rdThen who ctx kva 128 fun k s =>
    if kdescBad k || launchBad b k then (.bad, s)
    else s.rdThen who ctx (fieldOf k 32 8) (8 * fieldOf k 10 1) fun tab s =>
      match s.readInits who ctx (fieldOf k 10 1) tab (kdescInits k) [] with
      | (.ok is, s) => (.ok { Launch.parse b k with inits := is }, s)
      | (.wait, s) => (.wait, s)
      | (.park c v p, s) => (.park c v p, s)
      | (.bad, s) => (.bad, s)
      | (.lost, s) => (.lost, s)

/-! ## The common part and the other kinds (Tables 6-2, 6-4) -/

def otherBad (kind : Nat) (r : List Byte) : Bool :=
  if kind = 2 || kind = 3 then fieldOf r 16 64 != 0 || 2 ^ 48 ≤ fieldOf r 0 8 || 2 ^ 48 ≤ fieldOf r 8 8 || fieldOf r 8 8 % 4 != 0
  else if kind = 4 then
    2 < fieldOf r 0 1 || fieldOf r 1 1 < 2 || 5 < fieldOf r 1 1 || 1 < fieldOf r 2 1 || fieldOf r 3 5 != 0
      || fieldOf r 8 8 % 8 != 0 || 2 ^ 48 ≤ fieldOf r 8 8 || fieldOf r 24 56 != 0
  else 0xFEFF < fieldOf r 0 2 || fieldOf r 2 6 != 0 || fieldOf r 40 40 != 0

/-- A nonzero reserved field, or a field outside its range, of the common part. -/
def commonBad (b : List Byte) (first : Bool) : Bool :=
  fieldOf b 0 1 = 0 || 5 < fieldOf b 0 1 || 4 ≤ fieldOf b 2 1 || (if first then 4 ≤ fieldOf b 3 1 else fieldOf b 3 1 != 0)
    || 64 < fieldOf b 24 2 || 16 < fieldOf b 26 1 || 16 < fieldOf b 27 1 || fieldOf b 28 4 != 0 || fieldOf b 40 8 != 0

/-- An operand entry (R182). With SHADOW = 1 its VA and length are ignored. -/
def Operand.parse (b : List Byte) : Operand where
  va := fieldOf b 0 8
  len := fieldOf b 8 4
  sbid := fieldOf b 12 2
  shadow := bitOf (fieldOf b 14 1) 0

def operandBad (b : List Byte) : Bool :=
  (fieldOf b 14 1 = 0 && (2 ^ 48 ≤ fieldOf b 0 8 || fieldOf b 8 4 = 0)) || 4096 ≤ fieldOf b 12 2 || 2 ≤ fieldOf b 14 1 || fieldOf b 15 1 != 0

/-- Who submits a record. -/
structure Source where
  ctx : Nat
  fn : Nat
  qctx : Option Nat
  seq : Nat
  defPrio : Nat
  logDone : Bool
  parent : Option Nat
  parentLaunch : Nat
  /-- The unit that reads the record. -/
  who : Nat
  deriving DecidableEq, Repr

/-- Read one node record with its successor array, operand entries and launch part. -/
def State.readNode (s : State) (src : Source) (va index : Nat) (first : Bool) : Rd (Node × Nat) × State :=
  s.rdThen src.who src.ctx va 128 fun b s =>
    let kind := fieldOf b 0 1
    let nr := fieldOf b 26 1
    let nw := fieldOf b 27 1
    let rest := b.drop 48
    if commonBad b first || (kind != 1 && otherBad kind rest) then (.bad, s)
    else s.rdThen src.who src.ctx (fieldOf b 16 8) (2 * fieldOf b 24 2) fun sb s =>
      s.rdThen src.who src.ctx (fieldOf b 32 8) (16 * (nr + nw)) fun ob s =>
        let ops := piecesOf 16 (nr + nw) ob
        let reads := (ops.take nr).map Operand.parse
        let writes := (ops.drop nr).map Operand.parse
        let restart := bitOf (fieldOf b 2 1) 0
        let pub := (writes.filter (fun w => w.shadow)).map (fun w => w.sbid)
        if ops.any operandBad || (restart && (writes.any (fun w => !w.shadow) || reads.any (fun r => r.shadow && pub.contains r.sbid))) then
          (.bad, s)
        else
          let n : Node :=
            { id := 0, ctx := src.ctx, fn := src.fn, glade := s.ctxGlade src.ctx, qctx := src.qctx, recVa := va, index := index,
              nkind := kind, prio := if bitOf (fieldOf b 2 1) 1 && src.parent.isNone then src.defPrio else fieldOf b 1 1,
              restart := restart, launchId := fieldOf b 4 4, graphId := fieldOf b 8 2, phaseId := fieldOf b 10 2,
              jobId := fieldOf b 12 2, succs := (piecesOf 2 (fieldOf b 24 2) sb).map ofBytes, reads := reads, writes := writes,
              seq := src.seq, logDone := src.logDone, parent := src.parent, parentLaunch := src.parentLaunch, rest := if kind = 1 then [] else rest,
              preds := fieldOf b 14 2 }
          let close := fieldOf b 3 1
          if kind = 1 then
            match s.readLaunch src.who src.ctx b with
            | (.ok l, s) => (.ok ({ n with launch := some l }, close), s)
            | (.wait, s) => (.wait, s)
            | (.park c v p, s) => (.park c v p, s)
            | (.bad, s) => (.bad, s)
            | (.lost, s) => (.lost, s)
          else (.ok (n, close), s)

/-- Read COUNT records at 128-byte strides: the nodes, and the CLOSE bits of node 0. -/
def State.readGraph (s : State) (src : Source) (va : Nat) : Nat → Nat → List Node → Nat → Rd (List Node × Nat) × State
  | 0, _, acc, close => (.ok (acc, close), s)
  | k + 1, i, acc, close =>
    match s.readNode src (va + 128 * i) i (i == 0) with
    | (.ok (n, c), s) => s.readGraph src va k (i + 1) (acc ++ [n]) (if i = 0 then c else close)
    | (.park c v p, s) => (.park c v p, s)
    | (.bad, s) => (.bad, s)
    | (.lost, s) => (.lost, s)
    | (.wait, s) => (.wait, s)

/-! ## Checks over a whole graph (R183) -/

def sameUnits (a b : Node) : Bool := a.graphId == b.graphId && a.phaseId == b.phaseId && a.jobId == b.jobId

/-- How many successor entries name an index. -/
def namedBy (ns : List Node) (i : Nat) : Nat := ns.foldl (fun k n => k + (n.succs.filter (fun j => j == i)).length) 0

/-- Launch identifiers used twice in a graph. -/
def twiceLaunched : List Node → Bool
  | [] => false
  | n :: t => (n.nkind == 1 && t.any (fun m => m.nkind == 1 && m.launchId == n.launchId)) || twiceLaunched t

def State.graphBad (s : State) (ns : List Node) : Bool :=
  match ns with
  | [] => true
  | a :: _ =>
    ns.any (fun n => !sameUnits a n || n.succs.any (fun i => ns.length ≤ i) || n.preds != namedBy ns n.index
      || (n.nkind == 1 && (s.counter n.ctx 0 n.launchId).isSome))
    || twiceLaunched ns || (s.counter a.ctx 1 a.graphId).isSome
    || (match s.counter a.ctx 2 a.phaseId with
        | none => false
        | some c => c.job != a.jobId || c.closed)

/-! ## Acceptance (R177 to R179, R185) -/

/-- Room for nodes on chip and in the spill area, and for new counters (R177, R186); `ready` of the nodes cannot be spilled. -/
def State.roomFor (s : State) (nodes ready counters : Nat) : Bool :=
  let area := if s.graph.nspEn then 2 ^ s.graph.nspLog else 0
  let fixed := (s.graph.nodes.filter (fun n => n.st != .waiting || (n.spill.isNone && n.preds == 0))).length
  s.graph.nodes.length + nodes ≤ 65536 + area && fixed + ready ≤ 65536
    && s.graph.counters.length + counters ≤ 16384

/-- Put a node in the engine: READY with no predecessor, else WAITING; a launch has its counter from here on. Without room on
chip a WAITING node is spilled, the new one if it is WAITING itself (R186). -/
def State.addNode (s : State) (n : Node) : State :=
  let s := if n.preds = 0 then s.makeRoom.getD s else s
  let out := if n.preds != 0 && 65536 ≤ s.onChip then s.spillPlace else none
  let g := s.graph
  let n := { n with id := g.nextNode, st := if n.preds = 0 then .ready else .waiting, readyAt := s.now }
  let s : State := { s with graph := { g with nodes := g.nodes ++ [n], nextNode := g.nextNode + 1 } }
  let s := match out with
    | some k => s.spillNode n.id k
    | none => s
  if n.nkind = 1 then s.addCounter { ctx := n.ctx, level := 0, ident := n.launchId } else s

/-- Add 1 to a phase or job, which is created open if it is not live. -/
def State.openUnit (s : State) (ctx level ident job : Nat) : State :=
  match s.counter ctx level ident with
  | some c => s.setCounter { c with count := c.count + 1 }
  | none => s.addCounter { ctx := ctx, level := level, ident := ident, count := 2, job := job }

/-- Close a phase or job (R179): its count falls by 1. -/
def State.closeUnit (s : State) (ctx level ident : Nat) : State :=
  match s.counter ctx level ident with
  | none => s
  | some c =>
    if c.closed then s
    else (s.setCounter { c with closed := true, count := c.count - 1 }).completeUp ctx ((List.range 4).drop level) ident

/-- Accept a graph: its nodes and counters (Table 6-1), and what node 0 closes. -/
def State.acceptGraph (s : State) (ns : List Node) (close : Nat) (log : Option (Nat × Nat)) : State :=
  match ns with
  | [] => s
  | a :: _ =>
    let newPhase := (s.counter a.ctx 2 a.phaseId).isNone
    let s := if newPhase then s.openUnit a.ctx 3 a.jobId 0 else s
    let s := s.openUnit a.ctx 2 a.phaseId a.jobId
    let s := s.addCounter { ctx := a.ctx, level := 1, ident := a.graphId, count := ns.length, phase := a.phaseId, job := a.jobId, log := log }
    let s := ns.foldl (fun s n => s.addNode n) s
    let s := if bitOf close 0 then s.closeUnit a.ctx 2 a.phaseId else s
    if bitOf close 1 then s.closeUnit a.ctx 3 a.jobId else s

/-- The units a graph would create. -/
def State.newUnits (s : State) (ns : List Node) : Nat :=
  match ns with
  | [] => 0
  | a :: _ => 1 + (if (s.counter a.ctx 2 a.phaseId).isNone then 1 else 0) + (if (s.counter a.ctx 3 a.jobId).isNone then 1 else 0)
      + (ns.filter (fun n => n.nkind == 1)).length

end Sys2Proof.Machine
end

