-- ==== Sys2Proof/Machine/Place.lean ====
section
/-!
DEFINITION. Capacity, admission and placement (06 R191 to R197), the start of a group (R196), and save and restore
(07 R223 to R226).
-/
namespace Sys2Proof.Machine

/-! ## Capacity (R195) -/

/-- What a group takes of a core: scratchpad, lane-private bytes, and warps and register rows of each sub-core. -/
abbrev Use := List Nat

def coreLimits : Use := [524288, 131072, 16, 16, 16, 16, 512, 512, 512, 512]

/-- The role, budget and sub-core of a warp. -/
def Launch.roleOf (l : Launch) (w : Nat) : Role := if w < l.nc then .c else if w < l.nc + l.nm then .m else .v
def Launch.budgetOf (l : Launch) (w : Nat) : Nat :=
  match l.roleOf w with
  | .c => l.budc
  | .m => l.budm
  | .v => l.budv
def Launch.subOf (l : Launch) (w : Nat) : Nat := if l.roleOf w = .m then (w - l.nc) % 4 else w % 4

def Launch.use (l : Launch) : Use :=
  let on (k : Nat) : List Nat := (List.range l.warps).filter (fun w => l.subOf w == k)
  [l.scratch, 32 * l.warps * l.lanePriv] ++ (List.range 4).map (fun k => (on k).length)
    ++ (List.range 4).map (fun k => (on k).foldl (fun n w => n + 8 * l.budgetOf w + 8) 0)

def addUse (a b : Use) : Use := List.zipWith (fun x y => x + y) a b

/-- Further groups with use `u` that a core with use `c` accepts. -/
def roomIn (c u : Use) : Nat :=
  (List.zip coreLimits (List.zip c u)).foldl (fun n x =>
    if x.2.2 = 0 then n else min n ((x.1 - x.2.1) / x.2.2)) 1000

def State.launchOf (s : State) (node : Nat) : Option Launch := (s.node node).bind (fun n => n.launch)

/-- What the groups on a core take. -/
def State.coreUse (s : State) (core : Nat) : Use :=
  s.groups.foldl (fun u g =>
    if g.2.place == .core core then
      match s.launchOf g.2.node with
      | some l => addUse u l.use
      | none => u
    else u) (List.replicate 10 0)

/-- The graph engine places no M warp on an OFFLINE quadrant (R465). -/
def State.quadsOk (s : State) (l : Launch) (core : Nat) : Bool :=
  (List.range (min 4 l.nm)).all (fun k => !(s.quadAt (quadKey core k)).offline)

/-- The cores of groves with their use; `empty` counts them as if empty. -/
def State.cores (s : State) (l : Launch) (groves : List Nat) (empty : Bool) : List (Nat × Use) :=
  groves.flatMap (fun v => ((List.range 8).map (fun i => 8 * v + i)).filterMap (fun c =>
    if s.quadsOk l c then some (c, if empty then List.replicate 10 0 else s.coreUse c) else none))

/-! ## Placing one gang (R194) -/

/-- Insert a core by descending room, then ascending number. -/
def insertRoom (x : Nat × Nat) : List (Nat × Nat) → List (Nat × Nat)
  | [] => [x]
  | y :: t => if y.2 < x.2 || (y.2 = x.2 && x.1 < y.1) then x :: y :: t else y :: insertRoom x t

/-- The cores of a grove that can take a group, with their room. -/
def roomsOf (cs : List (Nat × Use)) (grove : Nat) (u : Use) : List (Nat × Nat) :=
  cs.filterMap (fun c => if c.1 / 8 = grove && 1 ≤ roomIn c.2 u then some (c.1, roomIn c.2 u) else none)

/-- The grove of greatest free capacity that can hold a gang whole. -/
def bestGrove (cs : List (Nat × Use)) (groves : List Nat) (gang : Nat) (u : Use) : Option Nat :=
  (groves.foldl (fun (b : Option (Nat × Nat)) v =>
    let rs := roomsOf cs v u
    let total := rs.foldl (fun n r => n + r.2) 0
    if rs.length < gang then b
    else
      match b with
      | none => some (v, total)
      | some x => if x.2 < total || (x.2 = total && v < x.1) then some (v, total) else b) none).map (fun x => x.1)

/-- The cores a gang takes, in ascending COREID. -/
def gangCores (cs : List (Nat × Use)) (groves : List Nat) (gang : Nat) (u : Use) : Option (List Nat) :=
  (bestGrove cs groves gang u).map (fun v =>
    let best := ((roomsOf cs v u).foldl (fun l r => insertRoom r l) []).take gang
    (best.map (fun r => r.1)).foldl (fun l c => insertNat c l) [])

def takeCores (cs : List (Nat × Use)) (taken : List Nat) (u : Use) : List (Nat × Use) :=
  cs.map (fun c => if taken.contains c.1 then (c.1, addUse c.2 u) else c)

/-- Place n gangs greedily: what is left, if all of them fit. -/
def fitGangs (groves : List Nat) (gang : Nat) (u : Use) : Nat → List (Nat × Use) → Option (List (Nat × Use))
  | 0, cs => some cs
  | n + 1, cs =>
    match gangCores cs groves gang u with
    | none => none
    | some taken => fitGangs groves gang u n (takeCores cs taken u)

/-! ## Which groves may take a gang (R193, R203, R237) -/

/-- Whether a grove drains: it was told to, and groups still stand on it (R226, R237; DEDUCED, log 67). -/
def State.drains (s : State) (g v : Nat) : Bool :=
  ((s.gladeAt g).draining.contains v || (s.gladeAt g).undated.contains v) &&
    s.groups.any (fun p =>
      match p.2.place with
      | .core c => c / 8 == v
      | _ => false)

/-- A placement on a grove that has drained empty ends its drain. -/
def State.undrain (s : State) (g : Nat) (cores : List Nat) : State :=
  let x := s.gladeAt g
  let here (v : Nat) : Bool := cores.any (fun c => c / 8 == v)
  if x.draining.any here || x.undated.any here then
    s.setGlade g { x with draining := x.draining.filter (fun v => !here v), undated := x.undated.filter (fun v => !here v) }
  else s

/-- `waiting`: the gang is the one a clearing was declared for. -/
def State.openGroves (s : State) (g : Nat) (l : Launch) (waiting : Bool) : List Nat :=
  let x := s.gladeAt g
  (s.livePlots g).filter (fun v => !s.drains g v && (waiting ||
    (match x.clearing with
     | some (c, node, _) => (s.node node).isNone || c != v || (1 < l.gang && !x.clearMoving)
     | none => true)))

/-! ## Priority (R191, R201) -/

/-- Ticks of REFCNT in a microsecond (R165). -/
def ticksPerUs : Nat := 400

/-- The base priority, raised by waiters on a unit of the node while it is READY. -/
def State.basePrio (s : State) (n : Node) : Nat :=
  if n.st != .ready then n.prio
  else s.ops.foldl (fun p o =>
    match o.body, o.owner with
    | .cntWait b, .warp g _ =>
      if b.answer.isNone && (s.groupAt g).ctx == n.ctx && n.inUnit n.ctx b.level b.ident then
        max p (((s.node (s.groupAt g).node).map (fun m => m.prio)).getD 0)
      else p
    | _, _ => p) n.prio

/-- Effective priority. -/
def State.eff (s : State) (n : Node) : Nat :=
  let w := if n.st == .ready then s.now - n.readyAt else n.waited
  min 255 (s.basePrio n + w / (ticksPerUs * max 1 s.graph.agestep))

/-- Nodes by descending effective priority, then earlier READY time, then slot. -/
def State.before (s : State) (a b : Node) : Bool :=
  s.eff b < s.eff a || (s.eff a = s.eff b && (a.readyAt < b.readyAt || (a.readyAt = b.readyAt && a.id < b.id)))

def State.insertPrio (s : State) (x : Node) : List Node → List Node
  | [] => [x]
  | y :: t => if s.before x y then x :: y :: t else y :: s.insertPrio x t

def State.byPrio (s : State) (ns : List Node) : List Node := ns.foldl (fun l n => s.insertPrio n l) []

/-! ## What goes before a placement (R193, R203, R222, R236) -/

/-- The reservation holder's effective priority. -/
def State.holderEff (s : State) (g : Nat) : Option (Nat × Nat) :=
  ((s.gladeAt g).holder.bind s.node).map (fun n => (n.id, s.eff n))

/-- Whether R193 holds a launch back. -/
def State.heldBack (s : State) (n : Node) : Bool :=
  (s.holderEff n.glade).any (fun h => h.1 != n.id && s.eff n ≤ h.2)

/-- A glade whose evacuated concurrent groups are still to be restored places nothing else (R222); a paused function's groups
wait for its end (R238). -/
def State.evacFirst (s : State) (g : Nat) : Bool :=
  s.groups.any (fun x => x.2.glade == g && x.2.place == .saved && x.2.saveCause == .evacuate && x.2.cls == 0 && !(s.fn x.2.fn).pause)

/-- The groups of a saved gang, by rank. -/
def State.gangSaved (s : State) (node gang : Nat) : List Nat :=
  (s.groups.filter (fun g => g.2.node == node && g.2.gang == gang && g.2.place == .saved)).map (fun g => g.1)

/-- The gangs of a launch that have saved groups. -/
def State.savedGangs (s : State) (node : Nat) : List Nat :=
  (s.groups.filter (fun g => g.2.node == node && g.2.place == .saved)).foldl (fun l g => insertNat g.2.gang l) []

/-- The class of a node's launch. -/
def State.clsOf (s : State) (node : Nat) : Nat := ((s.launchOf node).map (fun l => l.cls)).getD 2

/-- Groups that are saved and restored together: those of a gang, or of a concurrent launch (R236). -/
def Group.sameUnit (x y : Group) : Bool := x.node == y.node && (x.cls == 0 || x.gang == y.gang)

/-- Whether a saved gang may be restored now: all that is saved with it has left its cores, its function runs, and neither an
evacuated concurrent launch nor a reservation goes before it (R193, R222, R238). -/
def State.mayRestore (s : State) (node gang : Nat) : Bool :=
  (s.gangSaved node gang).all (fun g =>
    let x := s.groupAt g
    let first := x.cls == 0 && x.saveCause == .evacuate
    x.saveCause != .starvation && !(s.fn x.fn).pause && (x.cls == 0 || !s.evacFirst x.glade)
      && (first || !(s.node node).any s.heldBack)
      && s.groups.all (fun y => y.2.place == .saved || !x.sameUnit y.2))

/-- Saved gangs that may come back go before the unplaced gangs of their launch (R203, R222; DEDUCED, log 67). -/
def State.savedAhead (s : State) (n : Node) : Bool := (s.savedGangs n.id).any (s.mayRestore n.id)

/-! ## The start of a group (R196, R352) -/

def Launch.startWarp (l : Launch) (w : Nat) : Warp :=
  let entry := match l.roleOf w with
    | .c => l.entryC
    | .m => l.entryM
    | .v => l.entryV
  { role := l.roleOf w, budget := l.budgetOf w, subcore := l.subOf w, live := BitVec.allOnes 32,
    s := Map.setMany 0 [] 0 l.args, frontier := [{ pc := BitVec.ofNat 16 entry, mask := BitVec.allOnes 32 }] }

/-- A group starts with no older copy in its core's read cache (R276, R282, R292). -/
def State.startGroup (s : State) (n : Node) (l : Launch) (gang rank core : Nat) : State :=
  let s := s.dropCache core
  let id := s.graph.nextGroup
  let g := gang * l.gang + rank
  let grp : Group :=
    { node := n.id, ctx := n.ctx, fn := n.fn, glade := n.glade, place := .core core, gang := gang, rank := rank,
      gangSize := l.gang, idx := (g % l.gx, g / l.gx % l.gy, g / (l.gx * l.gy)), dim := (l.shapeX, l.shapeY, l.shapeZ),
      launchId := n.launchId, graphId := n.graphId, phaseId := n.phaseId, jobId := n.jobId, nodeId := n.index, cls := l.cls,
      scratch := l.scratch, lanePriv := l.lanePriv, nwarps := l.warps, nc := l.nc, nm := l.nm, novl := l.novl,
      handler := l.handler, ovltab := l.ovltab, placedAt := s.now,
      slots := l.inits.foldl (fun m i => Map.set none m i.1 (some ⟨i.2.1, i.2.2.1, i.2.2.2⟩)) [] }
  let s : State := { s with graph := { s.graph with nextGroup := id + 1 } }
  let s := l.inits.foldl (fun s i => s.unfill n.ctx i.2.2.1) s
  (List.range l.warps).foldl (fun s w => s.putWarp id w (l.startWarp w)) (s.putGroup id grp)

/-- Place a gang on cores, in ascending rank; at a launch's first placement its counter takes all its groups (Table 6-1). -/
def State.placeGang (s : State) (node gang : Nat) (l : Launch) (cores : List Nat) : State :=
  match s.node node with
  | none => s
  | some n =>
    let s := ((List.range cores.length).zip cores).foldl (fun s rc => s.startGroup n l gang rc.1 rc.2) s
    let s := if n.placedOnce then s
      else
        match s.counter n.ctx 0 n.launchId with
        | some c => s.setCounter { c with count := c.count + l.groups }
        | none => s
    let s := s.undrain n.glade cores
    let x := s.gladeAt n.glade
    let s := if x.clearing.any (fun c => c.2 == (node, gang)) then s.setGlade n.glade { x with clearing := none, clearMoving := false } else s
    s.setNode { n with unplaced := n.unplaced.filter (fun j => j != gang), placedOnce := true,
                       groupsLeft := if n.placedOnce then n.groupsLeft else l.groups }

/-- Whether the clearing of a glade was declared for a gang. -/
def State.clearsFor (s : State) (n : Node) (gang : Nat) : Bool :=
  (s.gladeAt n.glade).clearing.any (fun c => c.2 == (n.id, gang))

/-- Place one gang, if it fits. -/
def State.tryGang (s : State) (n : Node) (l : Launch) (gang : Nat) : Option State :=
  let groves := s.openGroves n.glade l (s.clearsFor n gang)
  if !s.clearsFor n gang && s.savedAhead n then none
  else (gangCores (s.cores l groves false) groves l.gang l.use).map (s.placeGang n.id gang l)

/-- Place the first unplaced gang of a running launch, if it fits, or else the one that a clearing was declared for (R203):
where the first fits nowhere, the others, of one size with it, do not either. -/
def State.placeNext (s : State) (id : Nat) : Option State :=
  match s.node id with
  | none => none
  | some n =>
    match n.launch with
    | none => none
    | some l => (n.unplaced.take 1 ++ n.unplaced.filter (s.clearsFor n)).findSome? (s.tryGang n l)

/-- Place gangs of a launch in ascending gang number until one does not fit. -/
def State.placeAll (s : State) (id : Nat) : Nat → State
  | 0 => s
  | k + 1 =>
    match s.placeNext id with
    | none => s
    | some s => s.placeAll id k

/-! ## Admission (R197) -/

inductive Admit where
  | accept | refuse | wait
  deriving DecidableEq, Repr

def State.admission (s : State) (n : Node) (l : Launch) : Admit :=
  let groves := s.openGroves n.glade l false
  let all := s.livePlots n.glade
  let need := if l.cls = 0 then l.gangs else 1
  let empty := (fitGangs all l.gang l.use need (s.cores l all true)).isSome
  if !empty then .refuse
  else if l.cls = 2 then .accept
  else if (fitGangs groves l.gang l.use need (s.cores l groves false)).isSome then .accept else .wait

/-- Admit a launch: it runs, and what its class promises is placed at once, so that its place is held (DEDUCED, log 28). -/
def State.admitNode (s : State) (n : Node) (l : Launch) : State :=
  let x := s.gladeAt n.glade
  let s := if x.holder = some n.id then s.setGlade n.glade { x with holder := none } else s
  let s := s.setNode { n with st := .running, waited := s.now - n.readyAt, unplaced := List.range l.gangs }
  if l.cls = 0 then s.placeAll n.id l.gangs else if l.cls = 1 then (s.placeNext n.id).getD s else s

/-! ## Dispatch (R192, R193) -/

def State.dispatchNode (s : State) (id : Nat) : State :=
  match s.node id with
  | none => s
  | some n =>
    if n.st != .ready then s
    else
      match n.launch with
      | none => s.setNode { n with st := .running, waited := s.now - n.readyAt }
      | some l =>
        match s.admission n l with
        | .refuse => (s.setNode { n with st := .failed, cause := 0x13, causeStatus := false }).endNode id 2
        | .wait => s
        | .accept => if l.cls != 2 && (s.heldBack n || s.evacFirst n.glade) then s else s.admitNode n l

def State.readyNodes (s : State) (g : Nat) : List Node :=
  s.graph.nodes.filter (fun n => n.st == .ready && n.glade == g && !(s.fn n.fn).pause)

def State.dispatch (s : State) (g : Nat) : State :=
  let s := (s.byPrio (s.readyNodes g)).foldl (fun s n => s.dispatchNode n.id) s
  if s.evacFirst g then s
  else
    let run := s.graph.nodes.filter (fun n => n.st == .running && n.glade == g && n.nkind == 1 && !(s.fn n.fn).pause)
    (s.byPrio (run.map (fun n => { n with readyAt := 0 }))).foldl (fun s n => if s.heldBack n then s else s.placeAll n.id n.unplaced.length) s

/-- DISPATCH; a glade that owns no plot dispatches nothing (R213). -/
def execDispatch (s : State) : Out :=
  match s.arg with
  | .unit g => .next (if (s.gladePlots g).isEmpty then s else s.dispatch g)
  | _ => .next s

/-! ## Save (R224, R225, R226) -/

/-- The groups of a gang that are on cores. -/
def State.gangOn (s : State) (node gang : Nat) : List Nat :=
  (s.groups.filter (fun g => g.2.node == node && g.2.gang == gang &&
    (match g.2.place with
     | .core _ => true
     | _ => false))).map (fun g => g.1)

/-- Ask for a gang to be saved; an evacuation stays one, whatever else asks for it (R222, R238). -/
def State.saveGang (s : State) (node gang : Nat) (cause : SaveCause) : State :=
  (s.gangOn node gang).foldl (fun s g =>
    let x := s.groupAt g
    s.putGroup g { x with saving := true, saveCause := if x.saving && x.saveCause == .evacuate then .evacuate else cause }) s

/-- An access that must complete before the image is taken: it lies in C, V, K or L space. -/
def Op.mustEnd (o : Op) : Bool :=
  match o.body with
  | .access b => b.space != 0
  | _ => false

/-- A save can be taken: every warp stands at a clause boundary, or stalls on a quadrant that it has not acquired (R464), and
the group's own memories have no access left. -/
def State.savable (s : State) (g : Nat) : Bool :=
  s.warps.all (fun w => w.1 / 64 != g || !w.2.clause.active || w.2.stall == .quad) && s.ops.all (fun o => !(o.ofGroup g && o.mustEnd))

/-- The next part of a suspended copy is read again after the restore. -/
def Part.suspend (p : Part) : Part := if p.state == .waiting then { p with state := .queued 0 } else p

/-- A parked access leaves its entry, to be issued again on restore. -/
def Part.unpark (p : Part) : Part :=
  match p.state with
  | .parked _ => { p with state := .queued 0 }
  | .queued _ => { p with state := .queued 0 }
  | _ => p

def Op.unpark (o : Op) : Op :=
  { o with park := none, queuedCode := if o.park.isSome || o.queuedCode.isSome then some 0 else none, parts := o.parts.map Part.unpark,
           body := match o.body with
             | .cpa b => .cpa { b with lanes := b.lanes.map (fun l => { l with src := l.src.unpark.suspend }) }
             | .waitmem b => .waitmem { b with part := b.part.unpark }
             | b => b }

/-- The image's length (R226). -/
def Launch.imageBytes (l : Launch) : Nat :=
  let rows := (List.range l.warps).foldl (fun n w => n + 8 * l.budgetOf w + 8) 0
  (l.scratch + 32 * l.warps * l.lanePriv + 128 * rows + 4096 + 73728 * l.nm + 65535) / 65536 * 65536

/-- Whether the images of a group, and of all that is saved with it, fit in the glade's save area (DEDUCED, log 67). -/
def State.imageFits (s : State) (g : Group) : Bool :=
  let size (x : Group) : Nat := ((s.launchOf x.node).map Launch.imageBytes).getD 0
  let held (x : Group) : Bool := x.place == .saved || g.sameUnit x || s.groups.any (fun y => y.2.place == .saved && y.2.sameUnit x)
  let used := s.groups.foldl (fun n x => if x.2.glade == g.glade && held x.2 then n + size x.2 else n) 0
  let log := (s.gladeAt g.glade).saveLog
  log != 0 && used ≤ 2 ^ log * 2 ^ 20

/-- A waiter of a saved group leaves the count of its barrier. On restore it looks at the phase again, and ends or joins the count
(R287, R431). -/
def State.countWaiters (s : State) (g : Nat) (leave : Bool) : State :=
  s.ops.foldl (fun s o =>
    match o.body, o.owner with
    | .barWait b, .warp g' _ =>
      if g' = g && b.answer.isNone then
        let l := s.barLoc g b.space b.addr
        let x := s.bar l
        if leave then s.setBar l { x with w := x.w - 1 }
        else if x.st = 2 || (x.st = 1 && x.ph != b.parity) then
          { s with ops := s.ops.map (fun y => if y.id = o.id then { y with body := .barWait { b with answer := some (x.st == 1) } } else y) }
        else s.setBar l { x with w := min 255 (x.w + 1) }
      else s
    | _, _ => s) s

def Entry.saved (e : Entry) : Entry := { e with sleep := 0, spin := {} }

/-- The warp in its image: a word that stalls on a quadrant stalls again after the restore. -/
def Warp.saved (w : Warp) : Warp :=
  let stalled := w.clause.active && w.stall == .quad
  { w with frontier := w.frontier.map Entry.saved, hfront := w.hfront.map Entry.saved,
           clause := if stalled then { w.clause with spin := {} } else {}, stall := if stalled then .quad else .none,
           wordTag := none, yieldOn := [], boosted := false }

/-- An image is stored in the save area. Neither where it lies there nor what its sealed bytes are is architectural: every byte
of the area is free from then on (DESIGN CHOICE, log 77). -/
def State.writeImage (s : State) (g : Nat) : State :=
  let x := s.gladeAt g
  let n := if x.saveLog = 0 then 0 else 2 ^ x.saveLog * 2 ^ 20
  { s with mem := Map.setMany 0 s.mem x.saveBase ((List.range n).map (fun i => Config.freeByte (s.tick + i))), tick := s.tick + n }

/-- Take the image: the group leaves its core with all its state. -/
def State.saveGroup (s : State) (g : Nat) : State :=
  let x := s.groupAt g
  let core := x.coreId
  let s := s.countWaiters g true
  let held := (s.quadsOf g).map (fun k => (k % 4, s.quadAt k))
  let s := (s.freeQuads g).writeImage x.glade
  let s : State := { s with ops := s.ops.map (fun o => if o.ofGroup g then o.unpark else o),
                            warps := s.warps.map (fun w => if w.1 / 64 == g then (w.1, w.2.saved) else w) }
  (s.putGroup g { x with place := .saved, saving := false, quads := held,
                         cmem := (s.groupAt g).cmem, clockAdd := x.clockAdd + (Map.get 0 s.clocks core : Nat) }).sweepPend

/-- GROUP_SAVE (R224, R226): when an image does not fit, SVFULL is set; an evacuation waits, and a pre-emption by slice or
pause drains the groves without a deadline. -/
def execGroupSave (s : State) : Out :=
  match s.arg with
  | .unit g =>
    let x := s.groupAt g
    if !x.saving || !s.savable g then .next s
    else if s.imageFits x then .next (s.saveGroup g)
    else
      let s := s.setGlade x.glade { s.gladeAt x.glade with svfull := true }
      if x.saveCause == .evacuate then .next s
      else
        let unit := (s.groups.filter (fun y => y.2.saving && x.sameUnit y.2)).map (fun y => y.1)
        let d := s.gladeAt x.glade
        let groves := unit.foldl (fun l k => insertNat ((s.groupAt k).coreId / 8) l) d.undated
        let s := if x.saveCause == .preempt || x.saveCause == .pause then s.setGlade x.glade { d with undated := groves } else s
        .next (unit.foldl (fun s k => s.putGroup k { s.groupAt k with saving := false, saveCause := .none }) s)
  | _ => .next s

/-! ## Restore (R225, R447) -/

def AccessKind.acc : AccessKind → AccKind
  | .load => .read
  | .store => .write
  | .atomic _ => .atomic

/-- Agent (Table 4-9), kind and size of an operation's parts. -/
def Op.accKind (o : Op) : Nat × AccKind × Nat :=
  match o.body, o.owner with
  | .access b, .node _ => (6, b.kind.acc, b.bytes)
  | .access b, _ => (0, b.kind.acc, b.bytes)
  | .cpa b, _ => (1, .engRead, b.bytes)
  | .mq _, _ => (0, .atomic, 16)
  | _, _ => (0, .read, 8)

/-- The space that TINFO names for an operation. -/
def Op.space (o : Op) : Nat :=
  match o.body with
  | .access b => b.space
  | .waitmem b => b.space
  | _ => 0

/-- The lanes of the access that a part belongs to: its own, or those of the entry of a uniform word (Table 8-5). -/
def Op.reportMask (o : Op) (p : Part) : Mask :=
  match o.body with
  | .access b => if b.uniform then o.emask else 1#32 <<< p.lane
  | _ => o.emask

/-- Join a failed part to the report of its operation: its lanes in TMASK, and TADDR that of the lowest lane (Table 8-5). -/
def joinReport (r : Report) (lane : Nat) : List Report → List Report
  | [] => [r]
  | x :: t =>
    if x.order = r.order && x.cause = r.cause then
      let m := x.mask.getD 0
      let first := m == 0 || lane < lowestLane m
      { x with mask := some (m ||| r.mask.getD 0), addr := if first then r.addr else x.addr, tier := x.tier || r.tier } :: t
    else x :: joinReport r lane t

/-- Report a part of a warp's operation that cannot be performed; an engine command has a status instead. -/
def State.reportPart (s : State) (o : Op) (p : Part) (cause : Nat) (tier : Bool) : State :=
  match o.body, o.owner with
  | .cpa _, _ => s
  | _, .warp g w =>
    let acc := match o.accKind.2.1 with
      | .read => 0
      | .write => 1
      | .atomic => 2
      | _ => 3
    let r : Report := { order := o.id, flag := o.flag, cause := cause, mask := some (o.reportMask p), addr := p.addr,
                        info := BitVec.ofNat 32 (o.space + 16 * acc), tier := tier }
    let x := s.warpAt g w
    s.putWarp g w { x with reports := joinReport r p.lane x.reports }
  | _, _ => s

/-- A part to be issued again is translated afresh; the cause of a failure that does not park is reported. -/
def State.reissuePart (s : State) (ctx : Nat) (o : Op) (p : Part) : Part × State :=
  let (agent, k, n) := o.accKind
  match s.translate ctx p.addr k n (k == .atomic) with
  | (.ok pl ord ha tlb, s) => ({ p with place := pl, ord := ord, ha := ha, tlb := tlb, state := .waiting }, s)
  | (.park code ppa, s) =>
    let (t, s) := s.park ctx p.addr code ppa k agent
    ({ p with ord := s.ordAt ctx p.addr, state := parkState t code }, s)
  | (x, s) => ({ p with state := .failed }, s.reportPart o p (if x == .permission then cPermission else if x == .misaligned then cMisaligned else cFatalFault) false)

/-- Issue again those parts of an operation that are in the state `sel`. -/
def State.reissue (s : State) (ctx : Nat) (o : Op) (sel : PartState → Bool) : Op × State :=
  let one (s : State) (p : Part) : Part × State := if sel p.state then s.reissuePart ctx o p else (p, s)
  let (parts, s) := o.parts.foldl (fun r p => let (p, s) := one r.2 p; (r.1 ++ [p], s)) (([] : List Part), s)
  match o.body with
  | .cpa b =>
    let (ls, s) := b.lanes.foldl (fun r l =>
      let (p, s) := one r.2 l.src
      (r.1 ++ [{ l with src := p, failed := l.failed || p.state == .failed }], s)) (([] : List CpaLane), s)
    ({ o with parts := parts, body := .cpa { b with lanes := ls } }, s)
  | .waitmem b =>
    let (p, s) := one s b.part
    ({ o with parts := parts, body := .waitmem { b with part := p } }, s)
  | _ => ({ o with parts := parts }, s)

/-- Put an operation back in its place. -/
def State.setOp (s : State) (o : Op) : State := { s with ops := s.ops.map (fun x => if x.id = o.id then o else x) }

/-- An image on a quadrant, which keeps its own rows. -/
def Quad.takeImage (q img : Quad) : Quad := { img with spares := q.spares, offline := q.offline }

/-- A group comes back onto a core. -/
def State.restoreGroup (s : State) (g core : Nat) : State :=
  let x := s.groupAt g
  let s := s.putGroup g { x with place := .core core, saveCause := .none, quads := [], placedAt := s.now,
                                 clockAdd := x.clockAdd - (Map.get 0 s.clocks core : Nat) }
  let s := x.quads.foldl (fun s q => s.setQuad (quadKey core q.1) ((s.quadAt (quadKey core q.1)).takeImage q.2)) s
  let s := (s.countWaiters g false).dropCache core
  (s.ops.filter (fun o => o.ofGroup g)).foldl (fun s o =>
    let (o, s) := s.reissue x.ctx o (fun p => p == .queued 0)
    s.setOp (if o.queuedCode = some 0 then { o with queuedCode := none } else o)) s

/-- Cores for a saved gang: on each, the quadrants that its images hold must be free. -/
def State.restoreCores (s : State) (n : Node) (l : Launch) (gs : List Nat) (clearing : Bool) : Option (List Nat) :=
  let subs := gs.flatMap (fun g => (s.groupAt g).quads.map (fun q => q.1))
  let groves := (s.openGroves n.glade l false).filter (fun v =>
    !(clearing && (s.gladeAt n.glade).clearing.any (fun c => c.1 == v)))
  let cs := (s.cores l groves false).filter (fun c => subs.all (fun k => (s.quadAt (quadKey c.1 k)).holder.isNone))
  gangCores cs groves gs.length l.use

def State.restoreGang (s : State) (node gang : Nat) : Option State :=
  match s.node node with
  | none => none
  | some n =>
    match n.launch with
    | none => none
    | some l =>
      let gs := s.gangSaved node gang
      let clearing := gs.any (fun g => (s.groupAt g).saveCause == .clearing)
      if gs.isEmpty then none
      else (s.restoreCores n l gs clearing).map (fun cores => (gs.zip cores).foldl (fun s gc => s.restoreGroup gc.1 gc.2) (s.undrain n.glade cores))

/-- What is restored with a gang: itself, or all the saved gangs of its concurrent launch (R236). -/
def State.unitGangs (s : State) (node gang : Nat) : List Nat := if s.clsOf node = 0 then s.savedGangs node else [gang]

/-- Restore several gangs together, or none (R236). -/
def State.restoreAll (s : State) (node : Nat) : List Nat → Option State
  | [] => some s
  | g :: t =>
    match s.restoreGang node g with
    | none => none
    | some s => s.restoreAll node t

/-- Restore a gang, with what is restored with it, if all of it may be restored and fits. -/
def State.restoreUnit (s : State) (node gang : Nat) : Option State :=
  let gs := s.unitGangs node gang
  if gs.all (s.mayRestore node) then s.restoreAll node gs else none

/-- A resident gang to save so that a concurrent group fits (R222): weakly parallel first, then parallel gangs other than
the one placed first, gang 0 (R197), in ascending effective priority. -/
def State.victim (s : State) (g : Nat) : Option (Nat × Nat) :=
  let run := (s.byPrio (s.graph.nodes.filter (fun n => n.st == .running && n.glade == g && n.nkind == 1))).reverse
  let gangs (n : Node) : List Nat :=
    ((List.range ((n.launch.map Launch.gangs).getD 0)).filter (fun j => !(s.gangOn n.id j).isEmpty))
  let cls (n : Node) : Nat := (n.launch.map (fun l => l.cls)).getD 0
  let weak := run.findSome? (fun n => if cls n = 2 then (gangs n).head?.map (fun j => (n.id, j)) else none)
  weak.or (run.findSome? (fun n => if cls n = 1 then ((gangs n).filter (fun j => j != 0)).head?.map (fun j => (n.id, j)) else none))

/-- Whether a launch is concurrent and has been evacuated. -/
def State.evacuated (s : State) (node : Nat) : Bool :=
  s.groups.any (fun x => x.2.node == node && x.2.place == .saved && x.2.saveCause == .evacuate && x.2.cls == 0)

/-- GROUP_RESTORE: a saved gang, or all the saved gangs of a concurrent launch, come back; an evacuated concurrent launch
that does not fit has room made for it (R222). -/
def execGroupRestore (s : State) : Out :=
  match s.arg with
  | .pair node gang =>
    match s.restoreUnit node gang with
    | some s' => .next s'
    | none =>
      if s.evacuated node && (s.unitGangs node gang).all (s.mayRestore node) then
        match s.victim (((s.node node).map (fun n => n.glade)).getD 0) with
        | some (n, j) => .next (s.saveGang n j .evacuate)
        | none => .next s
      else .next s
  | _ => .next s

end Sys2Proof.Machine
end

