-- ==== Sys2Proof/Machine/GraphNodes.lean ====
section
/-!
DEFINITION. The graph engine's events: taking submissions (05 R151, R152), `LAUNCH` (12 R375), the ends of groups and
nodes (06 R180, R189, R190), and the nodes of other kinds (R192).
-/
namespace Sys2Proof.Machine

/-! ## Functions and queue contexts (R148, R155, R156) -/

def State.fnEn (s : State) (f : Nat) : Bool := f == 0 || (s.fn f).en

/-- The enabled virtual functions. -/
def State.enabledVfs (s : State) : List Nat := ((List.range 65).drop 1).filter (fun f => (s.fn f).en)

/-- Whether a glade belongs to a function; one that no enabled VF holds is the PF's. -/
def State.fnHasGlade (s : State) (f g : Nat) : Bool :=
  if f = 0 then !s.enabledVfs.any (fun v => bitOf (s.fn v).glades g) else bitOf (s.fn f).glades g

def State.qctxAt (s : State) (q : Nat) : Nat := s.host.qctxBase + 64 * q
def State.qctxFn (s : State) (q : Nat) : Nat := (s.readB (s.qctxAt q + 1)).toNat
def State.qctxCtx (s : State) (q : Nat) : Nat := ofBytes (s.readN (s.qctxAt q + 2) 2) % 4096
def State.qctxPrio (s : State) (q : Nat) : Nat := (s.readB (s.qctxAt q + 4)).toNat

/-- SPLOG; 0 for no spill ring. -/
def State.splog (s : State) (q : Nat) : Nat :=
  let x := (s.readB (s.qctxAt q + 5)).toNat
  if 4 ≤ x && x ≤ 16 then x else 0
def State.spRing (s : State) (q : Nat) : Nat := s.read64 (s.qctxAt q + 8) % 2 ^ 60 / 4096 * 4096

/-- What the device keeps of a queue context; the entry's bytes 24 to 43 are a copy for software, and never read (R148). -/
def State.qcount (s : State) (q : Nat) : QCount := Map.get {} s.host.counts q
def State.setQcount (s : State) (q : Nat) (c : QCount) : State :=
  let s : State := { s with host := { s.host with counts := Map.set {} s.host.counts q c } }
  s.store (s.qctxAt q + 24) (bytesOf 8 c.accepted ++ bytesOf 4 c.dropped ++ bytesOf 4 c.head ++ bytesOf 4 c.tail)

/-- Records in the spill ring. -/
def State.spilled (s : State) (q : Nat) : Nat := ((s.qcount q).tail + 2 ^ 32 - (s.qcount q).head) % 2 ^ 32

/-- The records of a queue context in the intake. -/
def State.intakeOf (s : State) (q : Nat) : List (List Byte) := (s.host.intake.filter (fun r => r.1 == q)).map (fun r => r.2)

/-- Refill the intake from a context's spill ring (R151). -/
def State.refill (s : State) (q : Nat) : Nat → State
  | 0 => s
  | k + 1 =>
    if s.splog q = 0 || s.spilled q = 0 || 16 ≤ (s.intakeOf q).length || 8192 ≤ s.host.intake.length then s
    else
      let c := s.qcount q
      let b := s.readN (s.spRing q + 64 * (c.head % 2 ^ s.splog q)) 64
      let s : State := { s with host := { s.host with intake := s.host.intake ++ [(q, b)] } }
      (s.setQcount q { c with head := (c.head + 1) % 2 ^ 32 }).refill q k

/-- Take out the first record of a context. -/
def dropFirst (q : Nat) : List (Nat × List Byte) → List (Nat × List Byte)
  | [] => []
  | r :: t => if r.1 = q then t else r :: dropFirst q t

/-- A context's first record is done with. -/
def State.dropRec (s : State) (q : Nat) : State :=
  let s := s.endFetches (whoQctx q)
  let s : State := { s with host := { s.host with intake := dropFirst q s.host.intake },
                            recFailed := s.recFailed.filter (fun x => x != q), recPark := s.recPark.filter (fun r => r.1 != q) }
  s.refill q 16

/-! ## Submissions (Table 5-5a) -/

def subKind (b : List Byte) : Nat := fieldOf b 0 1
def subSeq (b : List Byte) : Nat := fieldOf b 4 4
def subLog (b : List Byte) : Bool := bitOf (fieldOf b 21 1) 0

def subBad (b : List Byte) : Bool :=
  let k := subKind b
  k = 0 || 3 < k || fieldOf b 1 3 != 0 || 2 ≤ fieldOf b 21 1 || fieldOf b 22 42 != 0
    || (k != 3 && (fieldOf b 8 8 % 64 != 0 || 2 ^ 48 ≤ fieldOf b 8 8)) || (k = 3 && 3 < fieldOf b 20 1)
    || (k = 2 && (fieldOf b 16 4 = 0 || 65536 < fieldOf b 16 4))

/-- R152, R156: the detail with which a record is rejected before anything is read. -/
def State.subReject (s : State) (q : Nat) (b : List Byte) : Option Nat :=
  let f := s.qctxFn q
  let c := s.qctxCtx q
  if subBad b then some 4 else if !s.fnHasGlade f (s.ctxGlade c) || s.ctxFn c != f then some 5 else none

/-- Reject a context's first record: a QUEUE entry, and nothing else. -/
def State.reject (s : State) (q : Nat) (b : List Byte) (detail : Nat) : State :=
  (s.dropRec q).post (s.qctxFn q) 2 detail q (subSeq b)

/-- Take a node or graph record: its nodes are read and accepted whole, rejected whole, or wait. -/
def State.takeGraph (s : State) (q : Nat) (b : List Byte) (single : Bool) : State :=
  if s.recFailed.contains q then s.reject q b 4
  else if s.recPark.any (fun r => r.1 == q) then s
  else
    let src : Source := { ctx := s.qctxCtx q, fn := s.qctxFn q, qctx := some q, seq := subSeq b, defPrio := s.qctxPrio q,
                          logDone := single && subLog b, parent := none, parentLaunch := 0, who := whoQctx q }
    match s.readGraph src (fieldOf b 8 8) (if single then 1 else fieldOf b 16 4) 0 [] 0 with
    | (.ok (ns, close), s) =>
      if (single && ns.any (fun n => n.preds != 0 || n.succs != [])) || s.graphBad ns then s.reject q b 4
      else if !s.roomFor ns.length (ns.filter (fun n => n.preds == 0)).length (s.newUnits ns) then s
      else (s.acceptGraph ns close (if !single && subLog b then some (q, subSeq b) else none)).dropRec q
    | (.park code va ppa, s) =>
      let (t, s) := s.park (s.qctxCtx q) va code ppa .engRead 6
      { s with recPark := s.recPark ++ (t.map (fun t => (q, t))).toList }
    | (.wait, s) => s
    | (_, s) => s.reject q b 4

/-- Host writes that came before a record are visible to the reads it causes (R153). -/
def State.behindWrites (s : State) (q : Nat) : Bool := s.host.windows.any (fun w => w.kind == 1 && w.id < (s.qcount q).behind)

/-- Take a cancel record (R152, R204). -/
def State.takeCancel (s : State) (q : Nat) (b : List Byte) : State :=
  let c := s.qctxCtx q
  let level := fieldOf b 20 1
  let ident := fieldOf b 16 4
  let (s, hit) := if level ≠ 0 && 65536 ≤ ident then (s, false) else s.cancelUnit c level ident
  let s := s.dropRec q
  if subLog b then s.postCompletion c q (subSeq b) 0 (if hit then 1 else 0) else s

/-- Take the first record of a context as a record of kind `k`; one of no kind fails its check under `NODE_RECORD`. A context
whose records have all been spilled is refilled first (R151). -/
def State.takeRecord (s : State) (q k : Nat) : State :=
  match (s.intakeOf q).head? with
  | none => s.refill q 16
  | some b =>
    let kind := if subKind b = 2 || subKind b = 3 then subKind b else 1
    if kind ≠ k then s
    else
      match s.subReject q b with
      | some d => s.reject q b d
      | none => if s.behindWrites q then s else if k = 3 then s.takeCancel q b else s.takeGraph q b (k == 1)

def execNodeRecord (s : State) : Out :=
  match s.arg with
  | .unit q => .next (s.takeRecord q 1)
  | _ => .next s

def execGraphRecord (s : State) : Out :=
  match s.arg with
  | .unit q => .next (s.takeRecord q 2)
  | _ => .next s

def execCancelRecord (s : State) : Out :=
  match s.arg with
  | .unit q => .next (s.takeRecord q 3)
  | _ => .next s

/-! ## LAUNCH (R375) -/

def State.op (s : State) (id : Nat) : Option Op := s.ops.find? (fun o => o.id == id)

/-- A warp's operation ends with a status, which is due in an s register (R252). -/
def State.endWith (s : State) (o : Op) (dreg res : Nat) : State :=
  let s := s.endFetches (whoOp o.id 0)
  match o.owner with
  | .warp _ _ => s.results o.id [(sKey dreg, BitVec.ofNat 32 res)]
  | .node _ => s.endOp o.id

/-- Accept a node into the issuer's units. -/
def State.adoptNode (s : State) (p n : Node) : State :=
  let s := match s.counter p.ctx 0 p.launchId with
    | some c => s.setCounter { c with count := c.count + 1 }
    | none => s
  let s := match s.counter p.ctx 1 p.graphId with
    | some c => s.setCounter { c with count := c.count + 1 }
    | none => s
  s.addNode { n with graphId := p.graphId, phaseId := p.phaseId, jobId := p.jobId }

/-- What a node record must not name when `LAUNCH` submits it. -/
def Node.notChild (n : Node) (close : Nat) : Bool :=
  n.preds != 0 || n.succs != [] || close != 0 || n.graphId != 0 || n.phaseId != 0 || n.jobId != 0

/-- One attempt to answer a `LAUNCH`. -/
def State.acceptLaunch (s : State) (o : Op) (b : LaunchBody) (p : Node) : State :=
  let src : Source := { ctx := p.ctx, fn := p.fn, qctx := none, seq := 0, defPrio := 0, logDone := false, parent := some p.id,
                        parentLaunch := p.launchId, who := whoOp o.id 0 }
  match s.readNode src b.va 0 true with
  | (.ok (n, close), s) =>
    let live := n.nkind == 1 && (s.counter n.ctx 0 n.launchId).isSome
    if n.notChild close || live then s.endWith o b.dreg 1
    else if !s.roomFor 1 1 (if n.nkind = 1 then 1 else 0) then s
    else (s.adoptNode p n).endWith o b.dreg 0
  | (.park code va ppa, s) =>
    let (t, s) := s.park p.ctx va code ppa .engRead 6
    s.setOp { o with park := t }
  | (.wait, s) => s
  | (.bad, s) => s.endWith o b.dreg 1
  | (.lost, s) => s.endWith o b.dreg 2

/-- LAUNCH_ACCEPT; a cancelled `LAUNCH` creates no node and ends with 1. -/
def execLaunchAccept (s : State) : Out :=
  match s.arg with
  | .unit id =>
    match s.op id with
    | none => .next s
    | some o =>
      match o.body, o.owner with
      | .launch b, .warp g w =>
        if o.cancelled then .next (s.endWith o b.dreg 1)
        else if o.failed then .next (s.endWith o b.dreg 2)
        else if o.park.isSome || o.queuedCode.isSome || s.coveredBefore g w id then .next s
        else
          match s.node (s.groupAt g).node with
          | none => .next s
          | some p => .next (s.acceptLaunch o b p)
      | _, _ => .next s
  | _ => .next s

/-! ## The end of a group (R180) -/

/-- The warps of a group. -/
def State.warpsOf (s : State) (g : Nat) : List Warp := (s.warps.filter (fun w => w.1 / 64 == g)).map (fun w => w.2)

/-- Whether a group can complete: every warp has ended, and nothing it issued is outstanding. -/
def State.groupOver (s : State) (g : Nat) : Bool :=
  (s.groupAt g).place != .none && (s.warpsOf g).all (fun w => w.live == 0) && s.ops.all (fun o => !o.ofGroup g)

/-- Drains end on groves that hold no group any more (R237). -/
def State.endDrains (s : State) (gl : Nat) : State :=
  let d := s.gladeAt gl
  let busy (v : Nat) : Bool := s.groups.any (fun g =>
    match g.2.place with
    | .core c => c / 8 == v
    | _ => false)
  let units := d.drainUnits.filter (fun u => s.groups.any (fun g => g.2.node == u.2 &&
    (match g.2.place with
     | .core _ => true
     | _ => false)))
  let open' (v : Nat) : Bool := busy v || units.any (fun u => u.1 == v)
  s.setGlade gl { d with draining := d.draining.filter open', undated := d.undated.filter busy,
                         drainUnits := units.filter (fun u => d.draining.contains u.1) }

/-- GROUP_COMPLETE. A report of a failed access that no clause waited for fails the launch (R207). -/
def execGroupComplete (s : State) : Out :=
  match s.arg with
  | .unit g =>
    if !s.groupOver g then .next s
    else
      let x := s.groupAt g
      match ((s.warpsOf g).flatMap (fun w => w.reports)).head? with
      | some r => .next (s.failNode x.node r.cause false r.tier)
      | none => .next ((s.groupEnded g).endDrains x.glade)
  | _ => .next s

/-! ## Publishing (R189, R190) -/

/-- The context of an operation. -/
def State.opCtx (s : State) (o : Op) : Nat :=
  match o.owner with
  | .warp g _ => (s.groupAt g).ctx
  | .node id => ((s.node id).map (fun n => n.ctx)).getD 0

/-- Whether a virtual address lies in the back view of a shadow buffer, as the tables stand. -/
def State.backView (s : State) (ctx va sbid : Nat) : Bool :=
  match s.walk ctx va with
  | .leaf _ log e => !leafBad e log && leafSv e == 2 && leafSbid e == sbid
  | _ => false

/-- A part of a store or atomic still to be performed through a back view; one that is parked goes by its address. -/
def State.partBack (s : State) (ctx sbid : Nat) (p : Part) : Bool :=
  match p.state, p.place with
  | .performed, _ => false
  | .failed, _ => false
  | .parked _, _ => s.backView ctx p.addr sbid
  | .queued _, _ => s.backView ctx p.addr sbid
  | _, .shadow back b _ _ => back && b == sbid
  | _, _ => false

/-- The pages that a collective still writes at this package. -/
def Coll.dstPages (c : Coll) : List Nat :=
  (c.toGet ++ c.toOwn ++ c.step2).flatMap (fun i => (List.range (c.chunk / 4096 + 2)).map (fun k => c.dst + i * c.chunk + 4096 * k))

/-- Writes of an operation through the back view of a shadow buffer that have not been performed. -/
def State.opBack (s : State) (sbid : Nat) (o : Op) : Bool :=
  let ctx := s.opCtx o
  match o.body with
  | .access b => b.kind != .load && b.space == 0 && o.parts.any (s.partBack ctx sbid)
  | .txf b =>
    b.stage = 0 && !o.cancelled &&
      (if b.shape.kind = 3 then (s.pod.colls.filter (fun c => c.id == b.coll)).any (fun c => c.dstPages.any (fun va => s.backView ctx va sbid))
       else b.shape.dspace = 0 && (b.shape.pieces.filter (fun e => !b.written.contains e.1)).any (fun e =>
         s.backView ctx (b.shape.dstOf e.1).toNat sbid))
  | _ => false

/-- Writes through the back view of a shadow buffer that have not been performed (R291): those of operations older than
`before`. -/
def State.backWrites (s : State) (sbid before : Nat) : Bool := s.ops.any (fun o => o.id < before && s.opBack sbid o)

/-- Flip a shadow buffer's version bit (R290). -/
def State.flip (s : State) (sbid : Nat) : State :=
  { s with xlat := { s.xlat with version := Map.set false s.xlat.version sbid (!s.version sbid) } }

/-- A far node (R188). -/
def Node.far (n : Node) : Bool := n.nkind == 3 || (n.nkind == 4 && 4 ≤ fieldOf n.rest 1 1)

/-- Whether the deferred flush is due when a node ends (R189). -/
def State.needsFlush (s : State) (n : Node) : Bool :=
  n.logDone || (s.counter n.ctx 1 n.graphId).any (fun c => c.log.isSome)
    || s.graph.nodes.any (fun m => n.succs.contains m.index && m.ctx == n.ctx && m.graphId == n.graphId && m.qctx == n.qctx && m.far)

/-- The key under which the host pages that a node has written are noted. -/
def nodeKey (id : Nat) : Nat := 2 ^ 40 + id

/-- A node of another kind has done its work. -/
def State.publishNode (s : State) (id : Nat) : State :=
  match s.node id with
  | none => s
  | some n =>
    s.setNode { n with st := .publishing,
                       pubs := (List.range n.writes.length).filter (fun i => (n.writes[i]?.map (fun w => w.shadow)).getD false) }

/-- The host pages that the ranges of a node's write set with SHADOW = 0 lie in, as the tables stand (R187). -/
def State.declaredPages (s : State) (n : Node) : List Nat :=
  ((n.writes.filter (fun w => !w.shadow)).flatMap (fun w => pagesOf w.va w.len)).filterMap (fun va =>
    match s.walk n.ctx va with
    | .leaf _ log e =>
      if leafSv e = 0 && ppaKind (leafPpa e) = 2 then some ((leafPpa e + va % 2 ^ log) % 2 ^ 57 / 4096) else none
    | _ => none)

/-- The deferred flush of a node: its declared ranges, and nothing else (R189). Its other memory writes have been performed at
their homes when its operations ended. -/
def State.flushNode (s : State) (n : Node) : State :=
  let pages := s.declaredPages n
  ({ s with hostDirty := s.hostDirty.filter (fun h => h.1 != nodeKey n.id || pages.contains h.2) } : State).sendFlush (nodeKey n.id)

/-- NODE_DONE: the flush, then the `PUB`s one by one, then the end. A far successor's `PUB`s are at its scope, so they come after
the flush (R190, R290). -/
def execNodeDone (s : State) : Out :=
  match s.arg with
  | .unit id =>
    match s.node id with
    | none => .next s
    | some n =>
      if n.st != .publishing then .next s
      else
        if n.flushOwed && s.needsFlush n then .next ((s.flushNode n).setNode { n with flushOwed := false })
        else if s.flushing (nodeKey id) then .next s
        else match n.pubs with
        | i :: t =>
          let sb := (n.writes[i]?.map (fun w => w.sbid)).getD 0
          if s.backWrites sb s.nextOp then .next s
          else
            let s := s.setNode { n with pubs := t }
            .next (if s.sbValid sb then s.flip sb else s)
        | [] => .next (({ s with hostDirty := s.hostDirty.filter (fun h => h.1 != nodeKey id) } : State).endNode id 0)
  | _ => .next s

/-! ## Nodes of the other kinds (R192) -/

/-- A running node of a kind whose work has not been started. -/
def State.idleNode (s : State) (id kind : Nat) : Option Node :=
  match s.node id with
  | none => none
  | some n =>
    if n.st == .running && n.nkind == kind && n.park.isNone && (s.nodeOps id).isEmpty && !s.graph.watches.contains id
        && !s.host.tags.any (fun t => t.2 == .service id) then some n else none

/-- Add an operation of a node. -/
def State.addNodeOp (s : State) (id ord scope : Nat) (parts : List Part) (body : OpBody) : State :=
  { s with ops := s.ops ++ [{ id := s.nextOp, owner := .node id, flag := 15, ord := ord, scope := scope, parts := parts, body := body }],
           nextOp := s.nextOp + 1 }

/-- A node ends with a status of failure (R207). -/
def State.failStatus (s : State) (id code : Nat) : State := s.failNode id code true false

def Node.eventOp (n : Node) : Nat := fieldOf n.rest 0 1
def Node.eventScope (n : Node) : Nat := fieldOf n.rest 1 1
def Node.eventVa (n : Node) : Nat := fieldOf n.rest 8 8
def Node.eventValue (n : Node) : Nat := fieldOf n.rest 16 8

/-- Start the store or atomic of an event node. -/
def State.startSignal (s : State) (n : Node) (kind : AccessKind) : State :=
  let k := kind.acc
  let base : Part := { addr := n.eventVa, len := 8, data := bytesOf 8 n.eventValue, x := n.eventValue }
  let body : AccessBody := { kind := kind, uniform := true, space := 0, bytes := 8, sx := false, policy := 0, dst := 0 }
  match s.translate n.ctx n.eventVa k 8 (k == .atomic) with
  | (.ok pl ord ha tlb, s) =>
    s.addNodeOp n.id 2 n.eventScope [{ base with place := pl, ord := ord, ha := ha, tlb := tlb }] (.access body)
  | (.park code ppa, s) =>
    let (t, s) := s.park n.ctx n.eventVa code ppa (if k == .atomic then .atomic else .engWrite) 6
    s.addNodeOp n.id 2 n.eventScope [{ base with state := parkState t code }] (.access body)
  | (_, s) => s.failStatus n.id 0x10

def execEventSignal (s : State) : Out :=
  match s.arg with
  | .unit id =>
    match s.idleNode id 4 with
    | some n => .next (if n.eventOp = 0 then s.startSignal n .store else s)
    | none => .next s
  | _ => .next s

def execEventSignalAdd (s : State) : Out :=
  match s.arg with
  | .unit id =>
    match s.idleNode id 4 with
    | some n => .next (if n.eventOp = 1 then s.startSignal n (.atomic 0) else s)
    | none => .next s
  | _ => .next s

def execEventWait (s : State) : Out :=
  match s.arg with
  | .unit id =>
    match s.idleNode id 4 with
    | some n =>
      .next (if n.eventOp = 2 then { s with graph := { s.graph with watches := s.graph.watches ++ [id] } } else s)
    | none => .next s
  | _ => .next s

/-- Whether an event word meets a node's condition. -/
def Node.eventMet (n : Node) (x : Nat) : Bool := if fieldOf n.rest 2 1 = 0 then x == n.eventValue else n.eventValue ≤ x

def execEventWaitRecheck (s : State) : Out :=
  match s.arg with
  | .unit id =>
    match s.node id with
    | none => .next s
    | some n =>
      if n.st != .running || !s.graph.watches.contains id || n.park.isSome then .next s
      else
        match s.engRead (whoNode id) n.ctx n.eventVa 8 with
        | (.wait, s) => .next s
        | (.ok bs, s) =>
          let s := s.endFetches (whoNode id)
          if n.eventMet (ofBytes bs) then
            .next (({ s with graph := { s.graph with watches := s.graph.watches.filter (fun w => w != id) } } : State).publishNode id)
          else .next s
        | (.park code va ppa, s) =>
          let (t, s) := s.park n.ctx va code ppa .engRead 6
          .next (s.setNode { n with park := t })
        | (.failed, s) => .next (s.failStatus id 0x10)
  | _ => .next s

/-- A service-function node posts its record and waits for the reply. -/
def execServiceFunction (s : State) : Out :=
  match s.arg with
  | .unit id =>
    match s.idleNode id 5 with
    | some n =>
      let args := (List.range 8).map (fun i => BitVec.ofNat 32 (fieldOf n.rest (8 + 4 * i) 4))
      .next ((s.takeTag (.service id) (fieldOf n.rest 0 2) n.ctx 0xFF 0xFF args).getD s)
    | none => .next s
  | _ => .next s

/-! ## Tile transfers and collectives as nodes -/

/-- Read for a node through the transfer unit: a fault parks the node, a failure ends it with FAULT. -/
def State.nodeRead (s : State) (n : Node) (va len : Nat) (k : List Byte → State → State) : State :=
  match s.engRead (whoNode n.id) n.ctx va len with
  | (.ok b, s) => k b s
  | (.wait, s) => s
  | (.failed, s) => s.failStatus n.id 0x10
  | (.park code a ppa, s) =>
    let (t, s) := s.park n.ctx a code ppa .engRead 2
    s.setNode { n with park := t }

/-- The transfer command of a node. -/
def State.startTransfer (s : State) (n : Node) (va : Nat) (h : Shape) (coll : Nat) : State :=
  let s := s.endFetches (whoNode n.id)
  s.addNodeOp n.id 0 h.scope [] (.txf { shape := h, va := va, dreg := 0, gen := s.shapeBars noGroup h, written := [],
                                        coll := coll, nodeStat := fieldOf n.rest 8 8 })

/-- Read a collective record for a node and start it; a malformed one ends with FAULT. -/
def State.startNodeColl (s : State) (n : Node) (va cva : Nat) (h : Shape) : State :=
  if cva % 64 ≠ 0 then s.failStatus n.id 0x10
  else s.nodeRead n cva 128 fun cb s =>
    s.nodeRead n (fieldOf cb 48 8) (4 * fieldOf cb 28 4) fun lb s =>
      let list := (piecesOf 4 (fieldOf cb 28 4) lb).map ofBytes
      if collBad cb s.pod.pkg s.podSize list then s.failStatus n.id 0x10
      else if 256 ≤ s.pod.colls.length then s
      else
        let (k, s) := s.startColl { Coll.parse cb s.nextOp n.ctx with list := list }
        s.startTransfer n va h k

/-- The shape of a collective node: pod scope, and nothing else (R192). -/
def collShape (cva : Nat) : Shape :=
  { Shape.parse [] with kind := 3, scope := 4, saddr := cva }

def execTileTransferNode (s : State) : Out :=
  match s.arg with
  | .unit id =>
    match s.idleNode id 2 with
    | some n =>
      let va := fieldOf n.rest 0 8
      .next (if va % 64 ≠ 0 then s.failStatus id 0x10
        else s.nodeRead n va 64 fun b s =>
          let h := Shape.parse b
          if shapeBad b 1 then s.failStatus id 0x10
          else if h.kind = 3 then s.startNodeColl n va h.saddr h
          else s.startTransfer n va h 0)
    | none => .next s
  | _ => .next s

def execCollectiveNode (s : State) : Out :=
  match s.arg with
  | .unit id =>
    match s.idleNode id 3 with
    | some n => .next (s.startNodeColl n 0 (fieldOf n.rest 0 8) (collShape (fieldOf n.rest 0 8)))
    | none => .next s
  | _ => .next s

end Sys2Proof.Machine
end

