-- ==== Sys2Proof/Machine/GraphSched.lean ====
section
/-!
DEFINITION. Reservations, starvation, clearings and pre-emption (06 R193, R197, R202, R203; 07 R234 to R237; 15 R447).
-/
namespace Sys2Proof.Machine

/-! ## Reservations (R197) -/

/-- The launches of a glade that wait in READY. -/
def State.waitingLaunches (s : State) (g : Nat) : List Node := (s.readyNodes g).filter (fun n => n.nkind == 1)

/-- Whether the glade's reservation is free: nobody holds it, or its holder has left READY. -/
def State.holderFree (s : State) (g : Nat) : Bool :=
  match (s.gladeAt g).holder.bind s.node with
  | some n => n.st != .ready
  | none => true

def execReservationTake (s : State) : Out :=
  match s.arg with
  | .unit g =>
    match s.byPrio (s.waitingLaunches g) with
    | n :: _ =>
      if s.holderFree g && ticksPerUs * s.graph.reswait < s.now - n.readyAt then
        .next (s.setGlade g { s.gladeAt g with holder := some n.id })
      else .next s
    | [] => .next s
  | _ => .next s

/-! ## Pre-emption of gangs -/

/-- The gangs of a node on the cores of a grove. -/
def State.gangsIn (s : State) (grove : Nat) : List (Nat × Nat) :=
  s.groups.foldl (fun (l : List (Nat × Nat)) g =>
    match g.2.place with
    | .core c => if c / 8 = grove && !l.contains (g.2.node, g.2.gang) then l ++ [(g.2.node, g.2.gang)] else l
    | _ => l) []

/-- All placed gangs of a node. -/
def State.placedGangs (s : State) (node : Nat) : List Nat :=
  s.groups.foldl (fun (l : List Nat) g =>
    match g.2.place with
    | .core _ => if g.2.node = node then insertNat g.2.gang l else l
    | _ => l) []

/-- A gang that is pre-empted, with the rest of its launch if that is concurrent (R236). -/
def State.withLaunch (s : State) (g : Nat × Nat) : List (Nat × Nat) :=
  if s.clsOf g.1 = 0 then (s.placedGangs g.1).map (fun j => (g.1, j)) else [g]

/-- Save every gang of a list, whole. -/
def State.saveGangs (s : State) (cause : SaveCause) (gs : List (Nat × Nat)) : State :=
  gs.foldl (fun s g => (s.withLaunch g).foldl (fun s x => s.saveGang x.1 x.2 cause) s) s

/-- Discard a gang: it returns to its launch's unplaced set (R206). -/
def State.discardGang (s : State) (g : Nat × Nat) : State :=
  let s := (s.gangOn g.1 g.2).foldl (fun s k => s.dropGroup k) s
  match s.node g.1 with
  | none => s
  | some n => s.setNode { n with unplaced := insertNat g.2 n.unplaced }

/-! ## The choice of a mode (R237) -/

def State.elapsedOf (s : State) (x : Group) : Nat := s.now - x.placedAt

/-- est, in ticks of REFCNT; none if no group of the launch has completed. -/
def State.est (s : State) (x : Group) : Option Int :=
  match s.node x.node with
  | none => none
  | some n => if n.groupsDone = 0 then none else some ((n.doneTime / n.groupsDone : Nat) - (s.elapsedOf x : Int))

/-- cost, in ns. -/
def State.cost (s : State) (x : Group) : Nat :=
  2 * (((s.launchOf x.node).map Launch.imageBytes).getD 0 / 65536) * s.savens

/-- Whether a gang may be discarded. -/
def State.discardable (s : State) (g : Nat × Nat) : Bool :=
  let gs := (s.gangOn g.1 g.2).map s.groupAt
  ((s.node g.1).map (fun n => n.restart)).getD false && gs.all (fun x => s.elapsedOf x * 5 < s.cost x * 2)
    && gs.all (fun x => gs.length == x.gangSize)

/-- The groups on a grove that a trigger acts on: those of one function, or all. -/
def State.victimGroups (s : State) (grove : Nat) (fn : Option Nat) : List Group :=
  (s.groups.filter (fun g =>
    (match g.2.place with
     | .core c => c / 8 == grove
     | _ => false) && (fn.map (fun f => g.2.fn == f)).getD true)).map (fun g => g.2)

/-- Pre-empt a grove: drain it, or discard and save its gangs. `discard`: the trigger permits it. -/
def State.preempt (s : State) (gl grove : Nat) (cause : SaveCause) (discard : Bool) (fn : Option Nat) : State :=
  let gs := s.victimGroups grove fn
  let limit : Int := (ticksPerUs * (s.gladeAt gl).deadline : Nat)
  let drains := !gs.isEmpty && gs.all (fun x => (s.est x).any (fun e => e ≤ limit))
  if drains then
    let d := s.gladeAt gl
    let units := ((gs.filter (fun x => x.cls == 0)).map (fun x => (grove, x.node))).eraseDups
    s.setGlade gl { d with draining := insertNat grove d.draining,
                           drainUnits := d.drainUnits.filter (fun u => !units.contains u) ++ units }
  else
    let gangs := (s.gangsIn grove).filter (fun g => gs.any (fun x => x.node == g.1 && x.gang == g.2))
    gangs.foldl (fun s g =>
      let all := s.withLaunch g
      if discard && all.all s.discardable then all.foldl (fun s x => s.discardGang x) s
      else all.foldl (fun s x => s.saveGang x.1 x.2 cause) s) s

/-! ## Slice end (R235) -/

/-- The highest effective priority on a grove. -/
def State.groveEff (s : State) (grove : Nat) : Nat :=
  (s.gangsIn grove).foldl (fun p g => max p (((s.node g.1).map s.eff).getD 0)) 0

/-- Insert a victim grove: ascending effective priority, ties to the higher grove. -/
def insertVictim (x : Nat × Nat) : List (Nat × Nat) → List (Nat × Nat)
  | [] => [x]
  | y :: t => if x.2 < y.2 || (x.2 = y.2 && y.1 < x.1) then x :: y :: t else y :: insertVictim x t

/-- The shortest prefix of the victims that makes room for a launch; a victim that drains already counts as freed. -/
def State.victimsFor (s : State) (n : Node) (l : Launch) (vs : List Nat) : Option (List Nat) :=
  let need := if l.cls = 0 then l.gangs else 1
  (List.range (vs.length + 1)).findSome? (fun k =>
    let out := vs.take k
    let groves := { s with groups := s.groups.filter (fun p => !out.contains (p.2.coreId / 8)) }.openGroves n.glade l false
    let cs := (s.cores l groves false).map (fun c => if out.contains (c.1 / 8) then (c.1, List.replicate 10 0) else c)
    if (fitGangs groves l.gang l.use need cs).isSome then some out else none)

def State.sliceEnd (s : State) (g : Nat) : State :=
  let want := (s.byPrio (s.waitingLaunches g)).find? (fun n => (n.launch.map (fun l => s.admission n l)) == some .wait)
  match want with
  | none => s
  | some w =>
    match w.launch with
    | none => s
    | some l =>
      let cand := (s.livePlots g).filter (fun v => !(s.gangsIn v).isEmpty && s.groveEff v < s.eff w)
      let vs := (cand.foldl (fun l v => insertVictim (v, s.groveEff v) l) []).map (fun v => v.1)
      match s.victimsFor w l vs with
      | none => s
      | some out =>
        let s := out.foldl (fun s v => s.preempt g v .preempt true none) s
        s.setGlade g { s.gladeAt g with holder := some w.id }

/-- SLICE_END; a SLICE of 0 disables it. -/
def execSliceEnd (s : State) : Out :=
  match s.arg with
  | .unit g => .next (if (s.gladeAt g).slice = 0 then s else s.sliceEnd g)
  | _ => .next s

/-- DRAIN_DEADLINE: what still runs on a draining grove is saved, and what is left elsewhere of the concurrent launches that drain
with it (R236); a grove of a LEAVING plot was evacuated. -/
def execDrainDeadline (s : State) : Out :=
  match s.arg with
  | .pair g grove =>
    let d := s.gladeAt g
    if d.draining.contains grove then
      let units := (d.drainUnits.filter (fun u => u.1 == grove)).flatMap (fun u => (s.placedGangs u.2).map (fun j => (u.2, j)))
      let s := s.setGlade g { d with draining := d.draining.filter (fun v => v != grove),
                                     drainUnits := d.drainUnits.filter (fun u => u.1 != grove) }
      .next (if (s.gladePlots g).contains grove then
        s.saveGangs (if (s.plot grove).st == .leaving then .evacuate else .preempt) (s.gangsIn grove ++ units) else s)
    else .next s
  | _ => .next s

/-! ## Starvation (R202) -/

/-- A blocking wait that still waits, with the group that waits. -/
def State.starving (_ : State) (o : Op) : Option Nat :=
  match o.body, o.owner with
  | .barWait b, .warp g _ => if b.answer.isNone then some g else none
  | .cntWait b, .warp g _ => if b.answer.isNone then some g else none
  | .waitmem _, .warp g _ => some g
  | _, _ => none

/-- Whether saving the waiter could help what it waits for. -/
def State.remedyHelps (s : State) (o : Op) (g : Nat) : Bool :=
  let x := s.groupAt g
  match o.body with
  | .cntWait b => s.graph.nodes.any (fun n => n.nkind == 1 && n.st == .ready && n.inUnit x.ctx b.level b.ident)
  | .waitmem _ => x.cls == 1 && ((s.node x.node).map (fun n => !n.unplaced.isEmpty)).getD false
  | .barWait _ => 2 ≤ o.scope && x.cls == 1 && ((s.node x.node).map (fun n => !n.unplaced.isEmpty)).getD false
  | _ => false

def execStarvationRemedy (s : State) : Out :=
  match s.arg with
  | .unit id =>
    match s.op id with
    | none => .next s
    | some o =>
      match s.starving o with
      | none => .next s
      | some g => .next (if s.remedyHelps o g then s.saveGangs .starvation [((s.groupAt g).node, (s.groupAt g).gang)] else s)
  | _ => .next s

/-- STARVATION_RESTORE: what was saved with the gang may come back, and does where it fits. -/
def execStarvationRestore (s : State) : Out :=
  match s.arg with
  | .pair node gang =>
    let gs := ((s.unitGangs node gang).flatMap (s.gangSaved node)).filter (fun g => (s.groupAt g).saveCause == .starvation)
    let s := gs.foldl (fun s g => s.putGroup g { s.groupAt g with saveCause := .preempt }) s
    .next (if gs.isEmpty then s else (s.restoreUnit node gang).getD s)
  | _ => .next s

/-- The wait of an operation ends without a result. -/
def State.dropWait (s : State) (g : Nat) (o : Op) : State :=
  let s := match o.body with
    | .barWait b =>
      let l := s.barLoc g b.space b.addr
      let x := s.bar l
      s.setBar l { x with w := x.w - 1 }
    | _ => s
  s.endOp o.id

/-- STARVATION_LIMIT: ILLEGAL_WAIT with TINFO [0] = 1, taken at the first clause that waits on the flag (DEDUCED, log 29). -/
def execStarvationLimit (s : State) : Out :=
  match s.arg with
  | .unit id =>
    match s.op id with
    | none => .next s
    | some o =>
      match s.starving o, o.owner with
      | some g, .warp _ w =>
        if s.graph.limit = 0 || (s.groupAt g).place == .saved then .next s
        else .next ((s.addReport g w { order := o.id, flag := o.flag, cause := cIllegalWait, mask := none, addr := 0, info := 1 }).dropWait g o).sweepPend
      | _, _ => .next s
  | _ => .next s

/-! ## Clearings (R203) -/

/-- The grove of greatest free capacity for a launch, ties to the lower. -/
def State.roomiest (s : State) (n : Node) (l : Launch) : Option Nat :=
  let cs := s.cores l (s.livePlots n.glade) false
  let free (v : Nat) : Nat := (roomsOf cs v l.use).foldl (fun k r => k + r.2) 0
  (s.livePlots n.glade).foldl (fun (b : Option Nat) v =>
    match b with
    | none => some v
    | some u => if free u < free v then some v else some u) none

/-- CLEARING_DECLARE for a gang that has waited long for its place. -/
def execClearingDeclare (s : State) : Out :=
  match s.arg with
  | .pair node gang =>
    match s.node node with
    | none => .next s
    | some n =>
      match n.launch with
      | none => .next s
      | some l =>
        let x := s.gladeAt n.glade
        if n.st != .running || !n.unplaced.contains gang || x.clearing.any (fun c => (s.node c.2.1).isSome) then .next s
        else
          match s.roomiest n l with
          | none => .next s
          | some v => .next (s.setGlade n.glade { x with clearing := some (v, node, gang), clearMoving := false })
  | _ => .next s

/-- CLEARING_MIGRATE: the groups on the clearing are saved, to be restored elsewhere. -/
def execClearingMigrate (s : State) : Out :=
  match s.arg with
  | .unit g =>
    let x := s.gladeAt g
    match x.clearing with
    | none => .next s
    | some (v, _, _) =>
      let s := s.setGlade g { x with clearMoving := true }
      .next (s.saveGangs .clearing (s.gangsIn v))
  | _ => .next s

/-! ## Quadrants held by another group (R447) -/

/-- QUADRANT_STALL_SAVE for a warp that has stalled on a held quadrant: the holding gang is saved. -/
def execQuadrantStallSave (s : State) : Out :=
  match s.arg with
  | .pair g w =>
    let x := s.warpAt g w
    if x.stall != .quad then .next s
    else
      let k := quadKey (s.groupAt g).coreId x.subcore
      let holders := [k, partner k].filterMap (fun q => (s.quadAt q).holder)
      match holders.find? (fun h => h != g) with
      | none => .next s
      | some h => .next (s.saveGangs .quadrant [((s.groupAt h).node, (s.groupAt h).gang)])
  | _ => .next s

end Sys2Proof.Machine
end

