-- ==== Sys2Proof/Machine/Glades.lean ====
section
/-!
DEFINITION. The glade manager (07 R218 to R233): commands, the resize states, the rehash, COMMIT, the scrub and the reset.
-/
namespace Sys2Proof.Machine

/-! ## States -/

/-- A change of a glade's STATE to IDLE, with its RESULT (R218). -/
def State.gladeIdle (s : State) (g result : Nat) : State :=
  (s.setGlade g { s.gladeAt g with st := .idle, result := result, committing := false, copies := [] }).raiseIrq irqMigration

def State.gladeResult (s : State) (g result : Nat) : State := s.setGlade g { s.gladeAt g with result := result }

/-- Set the state of each plot of a list. -/
def State.setPlots (s : State) (ks : List Nat) (st : PlotSt) : State :=
  ks.foldl (fun s k => s.setPlot k { s.plot k with st := st }) s

def State.plotsIn (s : State) (g : Nat) (st : PlotSt) : List Nat := (s.gladePlots g).filter (fun k => (s.plot k).st == st)

/-- The groups on cores of a set of plots. -/
def State.groupsOn (s : State) (plots : List Nat) : List Nat :=
  (s.groups.filter (fun g =>
    match g.2.place with
    | .core c => plots.contains (c / 8)
    | _ => false)).map (fun g => g.1)

/-- EVAC (Table 7-4). -/
def State.evac (s : State) (g : Nat) : Nat := (s.groupsOn (s.plotsIn g .leaving)).length

/-! ## Clearing a grove (R231) -/

def State.clearGrove (s : State) (k : Nat) : State :=
  let s : State := { s with rcache := s.rcache.filter (fun x => x.core / 8 != k), imem := s.imem.filter (fun x => x.core / 8 != k) }
  ((List.range 32).map (fun i => 32 * k + i)).foldl (fun s q => s.setQuad q (s.quadAt q).cleared) s

/-- A scrub has tested the arrays of a plot (R465). -/
def State.freshQuads (s : State) (k : Nat) : State := { s with quads := Map.clear s.quads (32 * k) 32 }

/-- Write back and drop the lines of the slices of a plot. -/
def State.dropSlices (s : State) (plots : List Nat) : State :=
  (s.l2.filter (fun x => plots.contains (x.slice / 8))).foldl (fun s x => s.evictLine x) s

/-! ## What a SHRINK must not take (R220) -/

/-- The plots that a range of local HBM touches. -/
def plotsOf (base size : Nat) : List Nat :=
  if size = 0 then [] else (List.range 32).filter (fun k => hbmPlot base ≤ k && k * 2 ^ 34 ≤ base % 2 ^ 57 + size - 1)

def State.heldPlots (s : State) : List Nat :=
  let x := s.xlat
  let h := s.host
  plotsOf x.ctxtBase 262144 ++ plotsOf x.sbtBase 131072 ++ plotsOf h.qctxBase 262144
    ++ (if x.fqEn then plotsOf x.fqBase (2 ^ x.fqLogcap * 32) else [])
    ++ (if x.dirtyEn then plotsOf x.dirtyA 16777216 ++ plotsOf x.dirtyB 16777216 else [])
    ++ (if s.pod.spillLog = 0 then [] else plotsOf s.pod.spillBase (2 ^ s.pod.spillLog * 32))
    ++ (if h.svcEn then plotsOf h.svcBase (2 ^ h.svcLog * 64) else [])
    ++ (if s.graph.nspEn then plotsOf s.graph.nspBase (2 ^ s.graph.nspLog * 256) else [])
    ++ (List.range 32).flatMap (fun g =>
      if (s.gladeAt g).saveLog = 0 then [] else plotsOf (s.gladeAt g).saveBase (2 ^ (s.gladeAt g).saveLog * 2 ^ 20))

/-! ## The progress test (R221) -/

/-- Place what admitted launches were promised, launch by launch, on groves as if empty. -/
def State.fitLaunches (s : State) (groves : List Nat) : List Launch → List (Nat × Use) → Bool
  | [], _ => true
  | l :: t, cs =>
    match fitGangs groves l.gang l.use (if l.cls = 0 then l.gangs else 1) (cs.filter (fun c => s.quadsOk l c.1)) with
    | none => false
    | some used => s.fitLaunches groves t (cs.map (fun c => (used.find? (fun u => u.1 == c.1)).getD c))

def State.progressOk (s : State) (g : Nat) : Bool :=
  let run := s.graph.nodes.filter (fun n => n.st == .running && n.glade == g && n.nkind == 1)
  let ls := (s.byPrio run).filterMap (fun n => n.launch.bind (fun l => if l.cls = 2 then none else some l))
  let groves := s.livePlots g
  s.fitLaunches groves ls (groves.flatMap (fun v => (List.range 8).map (fun i => (8 * v + i, List.replicate 10 0))))

/-! ## Commands (R219, R220) -/

def State.growGlade (s : State) (g mask : Nat) : State :=
  let ks := (List.range 32).filter (bitOf mask)
  if (s.gladeAt g).st != .idle then s.gladeResult g 1
  else if ks.isEmpty || ks.any (fun k => (s.plot k).st != .free) then s.gladeResult g 2
  else
    let c := (s.gladePlots g).length
    let s := ((List.range ks.length).zip ks).foldl (fun s ik => s.setPlot ik.2 { st := .joining, glade := g, seg := c + ik.1 }) s
    s.setGlade g { s.gladeAt g with st := .rehash, grow := true, result := 0 }

def State.shrinkGlade (s : State) (g mask : Nat) : State :=
  let ks := (List.range 32).filter (bitOf mask)
  let own := s.plotsIn g .owned
  if (s.gladeAt g).st != .idle then s.gladeResult g 1
  else if ks.isEmpty || ks.any (fun k => !own.contains k) then s.gladeResult g 2
  else if ks.length = own.length then s.gladeResult g 3
  else if ks.any s.heldPlots.contains then s.gladeResult g 5
  else
    let s := (s.setPlots ks .leaving).setGlade g { s.gladeAt g with st := .check, grow := false, result := 0 }
    if s.progressOk g then
      let s := s.setGlade g { s.gladeAt g with st := .evacuate }
      ks.foldl (fun s v => s.preempt g v .evacuate true none) s
    else (s.setPlots ks .owned).gladeIdle g 4

/-- The pairs of step 1 of COMMIT (R230): leaving plots that hold low segments, ascending, with remaining plots that hold
high ones, descending. -/
def State.commitPairs (s : State) (g : Nat) : List CanopyCopy :=
  let live := s.livePlots g
  let c := live.length
  let bySeg (ks : List Nat) (segs : List Nat) : List (Nat × Nat) :=
    segs.filterMap (fun j => (ks.find? (fun k => (s.plot k).seg == j)).map (fun k => (k, j)))
  let low := bySeg (s.plotsIn g .leaving) (List.range c)
  let high := bySeg live (((List.range 32).filter (fun j => c ≤ j)).reverse)
  List.zipWith (fun x y => ⟨x.1, y.1, x.2, y.2⟩) low high

/-- A COMMIT is under way. -/
def Glade.underCommit (x : Glade) : Bool := x.committing || !x.copies.isEmpty

def State.commitGlade (s : State) (g : Nat) : State :=
  let x := s.gladeAt g
  if x.st != .relocate || x.underCommit then s.gladeResult g 1
  else
    let ps := s.commitPairs g
    s.setGlade g { x with copies := ps, committing := ps.isEmpty, result := 0 }

/-- Undo a shrink: nothing leaves the LEAVING groves any more. -/
def State.undoGlade (s : State) (g : Nat) : State :=
  let leaving (v : Nat) : Bool := (s.plot v).st == .leaving
  let x := s.gladeAt g
  let leaves (y : Group) : Bool := y.glade == g && y.saving && y.saveCause == .evacuate &&
    (match y.place with
     | .core c => leaving (c / 8)
     | _ => false)
  let s := s.setGlade g { x with st := .undo, result := 0, draining := x.draining.filter (fun v => !leaving v),
                                 drainUnits := x.drainUnits.filter (fun u => !leaving u.1) }
  { s with groups := s.groups.map (fun y => if leaves y.2 then (y.1, { y.2 with saving := false, saveCause := .none }) else y) }

def State.abortGlade (s : State) (g : Nat) : State :=
  let x := s.gladeAt g
  if x.st != .relocate || x.underCommit then s.gladeResult g 1 else s.undoGlade g

/-- The reset itself, once no resize is left (R233). -/
def State.resetGladeNow (s : State) (g : Nat) : State :=
  let run := (s.graph.nodes.filter (fun n => n.glade == g && n.st == .running)).map (fun n => n.id)
  let s := run.foldl (fun s id => s.failNode id 0x17 true false) s
  let rest := (s.graph.nodes.filter (fun n => n.glade == g && n.st == .cancelled && !(s.groupsOf n.id).isEmpty)).map (fun n => n.id)
  let s := rest.foldl (fun s id => (s.discardNode id).endNode id 1) s
  let s := s.dropSlices (s.gladePlots g)
  let s := (s.gladePlots g).foldl (fun s k => s.clearGrove k) s
  (s.setGlade g { s.gladeAt g with resetDue := false }).gladeIdle g 6

/-- A glade that enters IDLE carries out a reset that waits. -/
def State.idleThen (s : State) (g result : Nat) : State :=
  let s := s.gladeIdle g result
  if (s.gladeAt g).resetDue then s.resetGladeNow g else s

def State.resetGlade (s : State) (g : Nat) : State :=
  let x := s.gladeAt g
  let s := s.setGlade g { x with resetDue := true }
  match x.st with
  | .idle => s.resetGladeNow g
  | .rehash => if x.grow then s else s.undoGlade g
  | .undo => s
  | .relocate => if x.underCommit then s else s.undoGlade g
  | .check => s.undoGlade g
  | .evacuate => s.undoGlade g

/-- One command of GLCMD (Table 7-3). -/
def State.gladeCommand (s : State) (g v : Nat) : State :=
  let op := v % 16
  let mask := bitsOf v 63 32
  if op = 1 then s.growGlade g mask else if op = 2 then s.shrinkGlade g mask else if op = 3 then s.commitGlade g
  else if op = 4 then s.abortGlade g else if op = 5 then s.resetGlade g else s

/-- The glade and the value of an 8-byte write to a GLCMD through the PF window. -/
def glcmdOf (fn off : Nat) (data : List Byte) : Option (Nat × Nat) :=
  if fn = 0 && 0x3000 ≤ off && off < 0x3400 && off % 0x20 = 8 && data.length = 8 then
    some ((off - 0x3000) / 0x20, ofBytes data) else none

/-- Run the write of an event if it is a command of one kind. -/
def State.glcmd (s : State) (op : Nat) : State :=
  match s.arg with
  | .write fn off data =>
    match glcmdOf fn off data with
    | some (g, v) => if !s.halted && v % 16 = op then s.gladeCommand g v else s
    | none => s
  | _ => s

def execGladeGrow (s : State) : Out := .next (s.glcmd 1)
def execGladeShrink (s : State) : Out := .next (s.glcmd 2)
def execGladeCommit (s : State) : Out := .next (s.glcmd 3)
def execGladeAbort (s : State) : Out := .next (s.glcmd 4)
def execGladeReset (s : State) : Out := .next (s.glcmd 5)

/-! ## The rehash (R227) -/

/-- Module lines of a glade that lie outside their slice of the new hash. -/
def State.strayLines (s : State) (g : Nat) : List L2Line :=
  s.l2.filter (fun x => (s.gladePlots g).contains (x.slice / 8) && ppaKind (64 * x.line) == 1
    && x.slice != s.sliceFor g (64 * x.line))

/-- REHASH_SWEEP: one line moves; or an evacuation with nothing left to move out becomes a rehash (Table 7-8). -/
def execRehashSweep (s : State) : Out :=
  match s.arg with
  | .unit g =>
    match (s.gladeAt g).st with
    | .evacuate => .next (if s.evac g = 0 then s.setGlade g { s.gladeAt g with st := .rehash } else s)
    | .rehash | .undo =>
      match s.strayLines g with
      | x :: _ => .next (s.l2Insert { x with slice := s.sliceFor g (64 * x.line) })
      | [] => .next s
    | _ => .next s
  | _ => .next s

def execRehashDone (s : State) : Out :=
  match s.arg with
  | .unit g =>
    let x := s.gladeAt g
    if x.st != .rehash || !(s.strayLines g).isEmpty then .next s
    else if x.grow then .next ((s.setPlots (s.plotsIn g .joining) .owned).idleThen g 0)
    else .next (s.setGlade g { x with st := .relocate })
  | _ => .next s

def execUndoDone (s : State) : Out :=
  match s.arg with
  | .unit g =>
    if (s.gladeAt g).st != .undo || !(s.strayLines g).isEmpty then .next s
    else .next ((s.setPlots (s.plotsIn g .leaving) .owned).idleThen g 7)
  | _ => .next s

/-! ## COMMIT (R230) -/

/-- Some access that has been translated but not performed satisfies a test on its place. -/
def State.inFlight (s : State) (f : Place → Bool) : Bool :=
  s.ops.any (fun o => o.parts.any (fun p => p.state == .waiting && f p.place) ||
    (match o.body with
     | .cpa b => b.lanes.any (fun l => !l.done && !l.failed && l.src.state == .waiting && f l.src.place)
     | _ => false))

/-- Copy whole lines from one physical range to another; poison, and an error that the copy finds, go with the data
(R138). -/
def State.copyBytes (s : State) (src dst n : Nat) : State :=
  let inside (a l : Nat) : Bool := a / 64 ≤ l && l < a / 64 + n / 64
  let bad := ((s.poison ++ s.latent).filter (inside src)).map (fun l => l - src / 64 + dst / 64)
  let s : State := { s with mem := Map.copy s.mem src dst n, poison := s.poison.filter (fun l => !inside dst l),
                            latent := s.latent.filter (fun l => !inside dst l) }
  s.poisonLines bad

/-- CANOPY_COPY_DONE of one segment; after the last copy the LEAVING plots are cut off (steps 1 to 3). -/
def execCanopyCopyDone (s : State) : Out :=
  match s.arg with
  | .pair g j =>
    let x := s.gladeAt g
    match x.copies.find? (fun c => c.j == j) with
    | none => .next s
    | some c =>
      let here (p : Part) : Bool := p.state == .waiting &&
        (match p.place with
         | .kspace g' off => g' == g && off / 2 ^ 21 == c.i
         | _ => false)
      let reads (o : Op) : Bool :=
        match o.body with
        | .access b => b.kind == .load && o.parts.any here
        | .cpa b => b.lanes.any (fun l => !l.done && !l.failed && here l.src)
        | _ => false
      if s.ops.any reads then .next s
      else
        let s := s.copyBytes (canopyPpa c.k 0) (canopyPpa c.m 0) (2 ^ 21)
        let s := s.setPlot c.m { s.plot c.m with seg := j }
        let left := x.copies.filter (fun d => d.j != j)
        .next (s.setGlade g { x with copies := left, committing := left.isEmpty })
  | _ => .next s

/-- Whether a place lies on one of a set of plots. -/
def State.placeIn (s : State) (plots : List Nat) (p : Place) : Bool :=
  match s.placePpa p with
  | some a => (ppaKind a == 0 && plots.contains (hbmPlot a)) || (ppaKind a == 3 && plots.contains (canopyPlot a))
  | none => false

/-- COMMIT_DRAIN_DONE (steps 4 and 5). -/
def execCommitDrainDone (s : State) : Out :=
  match s.arg with
  | .unit g =>
    let x := s.gladeAt g
    let out := s.plotsIn g .leaving
    if !x.committing || s.inFlight (s.placeIn out) then .next s
    else
      let s := s.dropSlices out
      let cut (e : TlbEntry) : Bool :=
        leafSv e.leaf.toNat == 0 && s.placeIn out (.phys (leafPpa e.leaf.toNat))
      let s : State := { s with xlat := { s.xlat with tlb := s.xlat.tlb.filter (fun e => !cut e) } }
      let s := out.foldl (fun s k => s.setPlot k { st := .firebreak }) s
      .next (s.idleThen g 0)
  | _ => .next s

/-- SCRUB_DONE of a plot (R231): `ok` 0 is a fault that the scrub cannot clear. -/
def execScrubDone (s : State) : Out :=
  match s.arg with
  | .pair k ok =>
    if (s.plot k).st != .firebreak then .next s
    else
      let hbm := k * 2 ^ 34
      let can := canopyPpa k 0
      let keep (l : Nat) : Bool := !(hbm ≤ 64 * l && 64 * l < hbm + 2 ^ 34) && !(can ≤ 64 * l && 64 * l < can + 2 ^ 21)
      let s : State := { s with mem := Map.clear (Map.clear s.mem hbm (2 ^ 34)) can (2 ^ 21),
                                poison := s.poison.filter keep, latent := s.latent.filter keep,
                                l2 := s.l2.filter (fun x => x.slice / 8 != k) }
      let s := (s.clearGrove k).freshQuads k
      .next ((s.setPlot k { st := if ok = 0 then .failed else .free }).raiseIrq irqMigration)
  | _ => .next s

end Sys2Proof.Machine
end

