-- ==== Sys2Proof/Machine/Window.lean ====
section
/-!
DEFINITION. Host accesses through the device memory windows (05 R144 to R147).
-/
namespace Sys2Proof.Machine

def State.putWin (s : State) (w : WinAcc) : State :=
  { s with host := { s.host with windows := s.host.windows.map (fun x => if x.id = w.id then w else x) } }

def State.dropWin (s : State) (id : Nat) : State :=
  let s := s.forget (fun k =>
    match k with
    | .window i _ => i == id
    | _ => false)
  { s with host := { s.host with windows := s.host.windows.filter (fun x => x.id != id) } }

/-- The virtual address of a window offset. -/
def State.winVa (s : State) (w : WinAcc) : Nat := (s.fn w.fn).winbase + w.off

/-- A completion with a status: 0 Successful Completion, 1 Unsupported Request, 2 Completer Abort; `ep` is the
poisoned-data bit. A write has none. -/
def State.complete (s : State) (w : WinAcc) (status : Nat) (ep : Bool) (data : List Byte) : State :=
  if w.kind = 1 then s else s.send .completion [w.fn, w.req, status, if ep then 1 else 0] data

/-- The access ends without being performed (Table 5-3): its WINDOW entry has a DETAIL. -/
def State.failWin (s : State) (w : WinAcc) (status detail : Nat) : State :=
  ((s.dropWin w.id).complete w status false []).post w.fn 4 detail (s.fn w.fn).wctx w.off

/-- The pieces of an access within lines: (offset, length). -/
def WinAcc.pieces (w : WinAcc) (va : Nat) : List (Nat × Nat) := (linePieces va w.len).map (fun p => (p.1 - va, p.2))

def WinAcc.acc (w : WinAcc) : AccKind := if w.kind = 0 then .read else if w.kind = 1 then .write else .atomic

/-- A place within a page, further on. -/
def Place.plus (p : Place) (n : Nat) : Place :=
  match p with
  | .phys a => .phys (a + n)
  | .shadow b i pg off => .shadow b i pg (off + n)
  | p => p

/-- Every line of an access has been performed: it ends. -/
def State.finishWin (s : State) (w : WinAcc) (va : Nat) : State :=
  if (w.pieces va).all (fun p => w.got.any (fun g => g.1 == p.1)) then
    let data := (w.pieces va).flatMap (fun p => ((w.got.find? (fun g => g.1 == p.1)).map (fun g => g.2)).getD [])
    let s := (s.dropWin w.id).complete w 0 w.bad data
    if w.bad then s.post w.fn 4 0x10 (s.fn w.fn).wctx w.off else s
  else s.putWin w

/-- Perform the lines of an access that are left, on the page it was translated to. -/
def State.winLines (s : State) (w : WinAcc) (va : Nat) (pl : Place) (tlb : Nat) : List (Nat × Nat) → State
  | [] => s.finishWin w va
  | (off, n) :: t =>
    if w.got.any (fun g => g.1 == off) || w.sent.contains off then s.winLines w va pl tlb t
    else
      let kind := if w.kind = 0 then PKind.read else if w.kind = 1 then .write ((w.data.drop off).take n) else .atomic w.aop w.x w.cmp
      match s.perform { ctx := (s.fn w.fn).wctx, place := pl.plus off, len := n, kind := kind, ext := .window w.id off, tlb := tlb } with
      | (.done data bad, s) => s.winLines { w with got := w.got ++ [(off, data)], bad := w.bad || bad } va pl tlb t
      | (.sent _, s) => s.winLines { w with sent := off :: w.sent } va pl tlb t
      | (.blocked, s) => s.winLines w va pl tlb t
      | (.park code _, s) => s.failWin w 1 code
      | (_, s) => s.failWin w 1 0x09

/-- A write of a requester, numbered below `id`, has not been performed (R147). -/
def State.postedBefore (s : State) (req id : Nat) : Bool := s.host.windows.any (fun x => x.id < id && x.req == req && x.kind == 1)

def State.winBehind (s : State) (w : WinAcc) : Bool := s.postedBefore w.req w.id

/-- One attempt at an access: it is translated like a warp access of the window's context, or ends (R145). -/
def State.tryWin (s : State) (id : Nat) : State :=
  match s.host.windows.find? (fun w => w.id == id) with
  | none => s
  | some w =>
    if w.tag.isSome || s.winBehind w then s
    else
      let va := s.winVa w
      let ctx := (s.fn w.fn).wctx
      if !s.ctxValid ctx then s.failWin w 1 0x08
      else if s.ctxFn ctx != w.fn then s.failWin w 1 0x09
      else
        match s.translate ctx va w.acc w.len (w.kind == 2) with
        | (.ok pl _ _ tlb, s) =>
          match pl with
          | .mmio _ => s.failWin w 1 0x09
          | .phys a => if ppaKind a = 2 then s.failWin w 1 0x09 else s.winLines w va pl tlb (w.pieces va)
          | _ => s.winLines w va pl tlb (w.pieces va)
        | (.malformed, s) => s.failWin w 1 0x08
        | (.permission, s) => s.failWin w 1 0x09
        | (.misaligned, s) => s.failWin w 1 0x09
        | (.park code ppa, s) =>
          if code = 0x23 || code = 0x25 then
            let (t, s) := s.park ctx va code ppa w.acc 5
            s.putWin { w with tag := t }
          else s.failWin w 1 (if code = 0x24 then 0x09 else code)

/-! ## The windows of a function (Table 5-2) -/

inductive WinKind where
  | control | submission | memory
  deriving DecidableEq, Repr

/-- The lower BAR of the pair, and whether the window is prefetchable. -/
def WinKind.bar : WinKind → Nat × Bool
  | .control => (0, false)
  | .submission => (2, true)
  | .memory => (4, true)

def WinKind.size (k : WinKind) (fn : Nat) : Nat :=
  match k with
  | .control => if fn = 0 then 524288 else 131072
  | .submission => if fn = 0 then 262144 else 16384
  | .memory => if fn = 0 then 2 ^ 40 else 2 ^ 36

/-- Whether a transaction of the link reaches a window: it lies in it, and is no longer than Table 5-1 lets it be. -/
def WinKind.reached (k : WinKind) (fn off n : Nat) (write : Bool) : Bool :=
  fn ≤ 64 && n != 0 && off + n ≤ k.size fn && n ≤ if write then 512 else 4096

/-- A new access: while its function's reset is in progress a write is dropped and a read is unsupported (R157). -/
def State.newWin (s : State) (w : WinAcc) : State :=
  if !WinKind.memory.reached w.fn w.off w.len (w.kind == 1) then s
  else if (s.fn w.fn).resetting then s.complete w 1 false []
  else
    let id := s.host.nextWin
    let s : State := { s with host := { s.host with windows := s.host.windows ++ [{ w with id := id }], nextWin := id + 1 } }
    s.tryWin id

/-- An access to start, or the number of one to try again. -/
def execHostWindowRead (s : State) : Out :=
  match s.arg with
  | .window fn req off len _ => .next (s.newWin { id := 0, fn := fn, req := req, off := off, len := len, kind := 0 })
  | .unit id => .next (s.tryWin id)
  | _ => .next s

def execHostWindowWrite (s : State) : Out :=
  match s.arg with
  | .window fn req off _ data => .next (s.newWin { id := 0, fn := fn, req := req, off := off, len := data.length, kind := 1, data := data })
  | .unit id => .next (s.tryWin id)
  | _ => .next s

/-- The AtomicOps of PCIe: FetchAdd and Swap of 4 or 8 bytes, CAS of 4, 8 or 16. -/
def pcieAtomic (aop len : Nat) : Bool := ((aop == 0 || aop == 8 || aop == 9) && (len == 4 || len == 8)) || (aop == 9 && len == 16)

/-- A misaligned AtomicOp is a malformed TLP, which PCIe discards (R146). -/
def execHostWindowAtomic (s : State) : Out :=
  match s.arg with
  | .windowAtomic fn req off len aop x cmp =>
    .next (if !pcieAtomic aop len || off % len ≠ 0 then s
      else s.newWin { id := 0, fn := fn, req := req, off := off, len := len, kind := 2, aop := aop, x := x, cmp := cmp })
  | .unit id => .next (s.tryWin id)
  | _ => .next s

/-- A parked access ends without being performed: a read or AtomicOp with Completer Abort, a write dropped (R145). -/
def State.abortWin (s : State) (w : WinAcc) : State :=
  let code := ((w.tag.bind (fun t => s.xlat.pend.find? (fun p => p.tag == t))).map (fun p => p.code)).getD 0x23
  (s.failWin w 2 code).sweepPend

def execWindowParkTimeout (s : State) : Out :=
  match s.arg with
  | .unit id =>
    match s.host.windows.find? (fun w => w.id == id) with
    | some w => .next (if w.tag.isSome then s.abortWin w else s)
    | none => .next s
  | _ => .next s

end Sys2Proof.Machine
end

