-- ==== Sys2Proof/Machine/Hart.lean ====
section
/-!
DEFINITION. The harts of the service cluster (05 R170 to R172): their registers and privilege levels, the translation of
their addresses and their exceptions. The spec names the RISC-V architecture and does not repeat it: numbers of registers,
page-table layouts and causes are that architecture's (PRESUMED, log 80).
-/
namespace Sys2Proof.Machine

/-! ## Registers -/

def State.hart (s : State) (h : Nat) : Hart := Map.get {} s.host.harts h
def State.setHart (s : State) (h : Nat) (x : Hart) : State := { s with host := { s.host with harts := Map.set {} s.host.harts h x } }

def Hart.reg (x : Hart) (c : Nat) : Nat := Map.get 0 x.csr c
def Hart.setReg (x : Hart) (c v : Nat) : Hart := { x with csr := Map.set 0 x.csr c (v % 2 ^ 64) }

def HartMode.virtual : HartMode → Bool
  | .vs => true
  | .vu => true
  | _ => false

/-- The nominal level: 0 U, 1 S, 3 M. -/
def HartMode.level : HartMode → Nat
  | .m => 3
  | .hs => 1
  | .vs => 1
  | .u => 0
  | .vu => 0

/-- Write a register: x0 stays 0; registers 32 to 63 are the floating-point ones. -/
def Hart.write (x : Hart) (rd : Nat) (v : Nat) : Hart :=
  if rd = 0 then x else if rd < 32 then { x with x := Map.set 0 x.x rd (BitVec.ofNat 64 v) }
  else { x with f := Map.set 0 x.f (rd - 32) (BitVec.ofNat 64 v) }

/-! ## Exceptions -/

/-- CSRs of the three levels that take exceptions: (tvec, epc, cause, tval, status). -/
def trapCsrs (lvl : HartMode) : Nat × Nat × Nat × Nat × Nat :=
  match lvl with
  | .m => (0x305, 0x341, 0x342, 0x343, 0x300)
  | .vs => (0x205, 0x241, 0x242, 0x243, 0x200)
  | _ => (0x105, 0x141, 0x142, 0x143, 0x300)

/-- A bit of a word set to a value. -/
def setBitTo (v i : Nat) (b : Bool) : Nat := v / 2 ^ (i + 1) * 2 ^ (i + 1) + (if b then 2 ^ i else 0) + v % 2 ^ i

/-- The level that takes a cause: M, unless medeleg gives it away, and then HS, or VS for a guest's by hedeleg. -/
def Hart.trapTo (x : Hart) (cause : Nat) : HartMode :=
  if x.mode == .m || !bitOf (x.reg 0x302) cause then .m
  else if x.mode.virtual && bitOf (x.reg 0x602) cause then .vs else .hs

/-- A hart takes an exception at an instruction: where it stood, the cause and the address are saved, with the level it came
from, and it goes on at the handler. -/
def Hart.take (x : Hart) (pc cause va gpa : Nat) : Hart :=
  let lvl := x.trapTo cause
  let (tvec, epc, cs, tval, st) := trapCsrs lvl
  let v := x.reg st
  let v := match lvl with
    | .m => setBitTo (setBitTo (setBitTo (setBitTo (setBitTo (setBitTo v 7 (bitOf v 3)) 3 false) 11 (bitOf x.mode.level 0)) 12
        (bitOf x.mode.level 1)) 39 x.mode.virtual) 38 x.mode.virtual
    | _ => setBitTo (setBitTo (setBitTo v 5 (bitOf v 1)) 1 false) 8 (x.mode.level == 1)
  let x := (((x.setReg epc pc).setReg cs cause).setReg tval va).setReg st v
  let x := match lvl with
    | .m => x.setReg 0x34B (gpa / 4)
    | .hs =>
      let hs := x.reg 0x600
      let hs := setBitTo (setBitTo hs 7 x.mode.virtual) 6 x.mode.virtual
      (x.setReg 0x600 (if x.mode.virtual then setBitTo hs 8 (x.mode.level == 1) else hs)).setReg 0x643 (gpa / 4)
    | _ => x
  { x with mode := lvl, pc := BitVec.ofNat 64 (x.reg tvec / 4 * 4) }

/-! ## Addresses (Table 5-10) -/

/-- Where a hart's physical address leads. -/
inductive HartTarget where
  | local
  | phys (a : Nat)
  | ctl (off : Nat)
  | fault
  deriving DecidableEq, Repr

def hartTarget (a : Nat) : HartTarget :=
  let k := a / 2 ^ 52
  if k = 0 then .local else if k = 1 then .phys (a % 2 ^ 39) else if k = 2 then .phys (3 * 2 ^ 57 + a % 2 ^ 26)
  else if k = 3 then .ctl (a % 2 ^ 32) else if k = 4 then .phys (modPpa (bitsOf a 51 45) (a % 2 ^ 45))
  else if k = 5 then .phys (2 ^ 58 + a % 2 ^ 52) else .fault

/-- A place that no access reaches: a hole, or a plot being scrubbed (R104, R231). -/
def State.hartHole (s : State) (a : Nat) : Bool :=
  ppaBad a || (ppaKind a == 0 && (s.plot (hbmPlot a)).st == .firebreak) || (ppaKind a == 3 && (s.plot (canopyPlot a)).st == .firebreak)

/-! ## Translation: Sv48, and Sv48x4 for a guest -/

inductive HartXlat where
  | ok (a : Nat)
  | fault (cause gpa : Nat)
  deriving DecidableEq, Repr

/-- A table entry in the package's memory or in a module's; any other place is an access fault. -/
def State.hartEntry (s : State) (bad : HartXlat) (a : Nat) : HartXlat :=
  match hartTarget a with
  | .phys p =>
    if s.hartHole p || ppaKind p = 2 then bad
    else
      let (b, e) := s.readPhys 0 p 8
      if e then bad else .ok (ofBytes b)
  | _ => bad

/-- A walk: `read` gives a table entry, `good` says whether a leaf allows the access, `page` is the fault of a leaf that does
not; the index of the top level is `wide` bits wider. -/
def ptWalk (read : Nat → HartXlat) (good : Nat → Bool) (page : HartXlat) (va wide : Nat) : Nat → Nat → HartXlat
  | 0, _ => page
  | l + 1, base =>
    match read (base + 8 * (va / 2 ^ (12 + 9 * l) % 2 ^ (if l = 3 then 9 + wide else 9))) with
    | .fault c g => .fault c g
    | .ok e =>
      let ppn := bitsOf e 53 10
      if !bitOf e 0 || (!bitOf e 1 && bitOf e 2) || bitsOf e 63 54 != 0 then page
      else if bitOf e 1 || bitOf e 3 then
        if good e && bitOf e 6 && ppn % 2 ^ (9 * l) = 0 then .ok (ppn * 4096 + va % 2 ^ (12 + 9 * l)) else page
      else ptWalk read good page va wide l (ppn * 4096)

/-- Whether a leaf allows a read or a write: for a write, W and D. -/
def leafAllows (e : Nat) (w mxr : Bool) : Bool := if w then bitOf e 2 && bitOf e 7 else bitOf e 1 || (mxr && bitOf e 3)

/-- The hart physical address of an access. -/
def State.hartXlat (s : State) (x : Hart) (va : Nat) (w : Bool) : HartXlat :=
  let bad : HartXlat := .fault (if w then 7 else 5) 0
  let page : HartXlat := .fault (if w then 15 else 13) 0
  let virt := x.mode.virtual
  let st := x.reg (if virt then 0x200 else 0x300)
  let mxr := bitOf (x.reg 0x300) 19 || (virt && bitOf (x.reg 0x200) 19)
  let atp := x.reg (if virt then 0x280 else 0x180)
  let guest (w : Bool) (g : Nat) : HartXlat :=
    let gf : HartXlat := .fault (if bad == .fault 7 0 then 23 else 21) g
    if !virt || x.reg 0x680 / 2 ^ 60 ≠ 9 then .ok g
    else if 2 ^ 50 ≤ g then gf
    else ptWalk (s.hartEntry bad) (fun e => bitOf e 4 && leafAllows e w mxr) gf g 2 4 (x.reg 0x680 % 2 ^ 44 * 4096)
  let read (g : Nat) : HartXlat :=
    match guest false g with
    | .ok a => s.hartEntry bad a
    | f => f
  let first : HartXlat :=
    if x.mode == .m || atp / 2 ^ 60 ≠ 9 then .ok va
    else if bitsOf va 63 47 ≠ 0 && bitsOf va 63 47 ≠ 2 ^ 17 - 1 then page
    else ptWalk read (fun e => leafAllows e w mxr && (if bitOf e 4 then x.mode.level = 0 || bitOf st 18 else x.mode.level = 1)) page va 0 4
      (atp % 2 ^ 44 * 4096)
  match first with
  | .ok g => guest w g
  | f => f

/-! ## The end of an access -/

/-- What a load or an AMO leaves in its register: n bytes extended; a 4-byte floating-point value is boxed. -/
def hartValue (rd n kind v : Nat) : Nat :=
  if 32 ≤ rd then (if n = 8 then v else 2 ^ 64 - 2 ^ (8 * n) + v)
  else if kind = 4 || !bitOf v (8 * n - 1) then v else 2 ^ 64 - 2 ^ (8 * n) + v

/-- The oldest access of a hart has been performed: the result is in its register, and the hart goes on. -/
def State.hartDone (s : State) (h : Nat) (data : List Byte) : State :=
  let x := s.hart h
  match x.busy with
  | .hart _ pc ilen _ rd len kind _ _ :: t =>
    let x := if kind = 1 || kind = 3 then x else x.write rd (hartValue rd len kind (ofBytes (data.take len)))
    s.setHart h { x with pc := BitVec.ofNat 64 (pc + ilen), busy := t }
  | _ => s

/-- It takes an exception, and writes no register (R171, R172). -/
def State.hartFault (s : State) (h cause gpa : Nat) : State :=
  let x := s.hart h
  match x.busy with
  | .hart _ pc _ va _ _ _ _ _ :: t => s.setHart h { x.take pc cause va gpa with busy := t }
  | _ => s

/-- An access fault. -/
def State.hartBad (s : State) (h : Nat) : State :=
  match (s.hart h).busy with
  | .hart _ _ _ _ _ _ kind _ _ :: _ => s.hartFault h (if kind = 1 || kind = 2 then 7 else 5) 0
  | _ => s

end Sys2Proof.Machine
end

