-- ==== Sys2Proof/Machine/Replay.lean ====
section
/-!
DEFINITION. The pending-fault table at work (04 R131 to R135), TLB invalidation (R118), dirty bitmaps (R136, R137), the
remap table's register (R513), heat scans and the migration engine (R123 to R128).
-/
namespace Sys2Proof.Machine

def State.dropPend (s : State) (t : Nat) : State :=
  { s with xlat := { s.xlat with pend := s.xlat.pend.filter (fun p => p.tag != t) } }

/-! ## Replay (R134) -/

/-- A node's access has failed: it ends with FAULT. -/
def State.nodeFault (s : State) (o : Op) : State :=
  match o.owner with
  | .node id => if o.parts.any (fun p => p.state == .failed) then s.failStatus id 0x10 else s
  | .warp _ _ => s

/-- Every access of an operation that an entry holds is translated afresh. -/
def State.replayOp (s : State) (t : Nat) (o : Op) : State :=
  let (o, s) := s.reissue (s.opCtx o) o (fun p => p.holds t)
  (s.setOp (if o.park = some t then { o with park := none } else o)).nodeFault o

/-- Replay an entry: reads of records, words and window accesses are simply tried again. -/
def State.replayTag (s : State) (t : Nat) : State :=
  let s := s.dropPend t
  let s := (s.ops.filter (fun o => o.park == some t || o.parts.any (fun p => p.state.holds t) ||
    (match o.body with
     | .cpa b => b.lanes.any (fun l => l.src.state.holds t)
     | .waitmem b => b.part.state.holds t
     | _ => false))).foldl (fun s o => s.replayOp t o) s
  { s with warps := s.warps.map (fun w => if w.2.wordTag == some t then (w.1, { w.2 with wordTag := none, stall := .none }) else w),
           recPark := s.recPark.filter (fun r => r.2 != t),
           host := { s.host with windows := s.host.windows.map (fun w => if w.tag == some t then { w with tag := none } else w) },
           graph := { s.graph with nodes := s.graph.nodes.map (fun n => if n.park == some t then { n with park := none } else n) } }

/-! ## Failure of an entry (R134) -/

def Part.failIf (t : Nat) (p : Part) : Part := if p.state.holds t then { p with state := .failed } else p

/-- The accesses of an operation that an entry holds are completed unperformed. -/
def State.failOp (s : State) (t : Nat) (tier : Bool) (o : Op) : State :=
  let o' : Op := { o with park := if o.park == some t then none else o.park, failed := o.failed || o.park == some t,
                          queuedCode := if o.park == some t && tier then some 0x22 else o.queuedCode,
                          parts := o.parts.map (Part.failIf t),
                          body := match o.body with
                            | .cpa b => .cpa { b with lanes := b.lanes.map (fun l =>
                                { l with src := l.src.failIf t, failed := l.failed || l.src.state.holds t }) }
                            | .waitmem b => .waitmem { b with part := b.part.failIf t }
                            | b => b }
  let s := s.setOp o'
  let held := (o.parts ++ (match o.body with
    | .waitmem b => [b.part]
    | _ => [])).filter (fun p => p.state.holds t)
  (held.foldl (fun s p => s.reportPart o p cFatalFault tier) s).nodeFault o'

def State.failTag (s : State) (e : Pend) : State :=
  let t := e.tag
  let s := s.ops.foldl (fun s o => s.failOp t (e.code == 0x22) o) s
  let recs := (s.recPark.filter (fun r => r.2 == t)).map (fun r => r.1)
  let s : State := { s with warps := s.warps.map (fun w =>
                              if w.2.wordTag == some t then (w.1, { w.2 with wordTag := none, wordFailed := some e.code, stall := .none }) else w),
                            recPark := s.recPark.filter (fun r => r.2 != t), recFailed := s.recFailed ++ recs }
  let s := (s.host.windows.filter (fun w => w.tag == some t)).foldl (fun s w => s.failWin w 2 e.code) s
  let s := (s.graph.nodes.filter (fun n => n.park == some t)).foldl (fun s n =>
    (s.setNode { n with park := none }).failStatus n.id 0x10) s
  s.dropPend t

/-- The entry that an FQREPLAY write names with an action. -/
def State.fqreplay (s : State) (v : Nat) : State :=
  match s.xlat.pend.find? (fun p => p.tag == v % 1024) with
  | none => s
  | some e => if bitsOf v 31 30 = 0 then s.replayTag e.tag else if bitsOf v 31 30 = 1 then s.failTag e else s

/-- The value of a write to a PF register by an event. -/
def State.writeOf (s : State) (off n : Nat) : Option Nat :=
  match s.arg with
  | .write 0 o data => if o = off && data.length = n && !s.halted then some (ofBytes data) else none
  | _ => none

def execFqreplayReplay (s : State) : Out :=
  match s.writeOf 0x234 4 with
  | some v => .next (if bitsOf v 31 30 = 0 then s.fqreplay v else s)
  | none => .next s

def execFqreplayFail (s : State) : Out :=
  match s.writeOf 0x234 4 with
  | some v => .next (if bitsOf v 31 30 = 1 then s.fqreplay v else s)
  | none => .next s

/-! ## Posting and admission (R131, R133) -/

/-- Whether the fault-queue ring can take an entry. -/
def State.fqRoom (s : State) : Bool :=
  s.xlat.fqEn && (s.xlat.fqTail - s.xlat.fqHead).toNat != 2 ^ s.xlat.fqLogcap

/-- The next entry to post; MIGRATING faults are never posted (R126). -/
def State.nextPost (s : State) : Option Pend := s.xlat.pend.find? (fun p => !p.posted && p.code != 0x25)

def execFaultQueuePost (s : State) : Out :=
  match s.nextPost with
  | none => .next s
  | some e =>
    if !s.fqRoom then .next s
    else
      let (_, s) := s.nextSeq
      let (ts, s) := s.tstamp (s.ctxFn e.ctx)
      let bs := bytesOf 1 e.code ++ bytesOf 1 e.access ++ bytesOf 2 e.tag ++ bytesOf 2 e.ctx ++ bytesOf 1 e.glade ++ bytesOf 1 e.agent
        ++ bytesOf 8 e.va ++ bytesOf 8 (if 0x22 ≤ e.code && e.code ≤ 0x24 then e.ppa else 0) ++ bytesOf 8 ts
      let s := s.store (s.xlat.fqBase + 32 * (s.xlat.fqTail.toNat % 2 ^ s.xlat.fqLogcap)) bs
      let s : State := { s with xlat := { s.xlat with fqTail := s.xlat.fqTail + 1, pend := s.xlat.pend.map (fun p =>
                                            if p.tag = e.tag then { p with posted := true } else p) } }
      .next (s.raiseIrq irqFault)

/-- An access that waits for a free entry. -/
def PartState.waitsEntry (p : PartState) : Bool :=
  match p with
  | .queued c => c != 0
  | _ => false

/-- PARKED_ACCESS_ADMIT of an operation: its accesses that found the table full try again. -/
def execParkedAccessAdmit (s : State) : Out :=
  match s.arg with
  | .unit id =>
    match s.op id with
    | none => .next s
    | some o =>
      if 1024 ≤ s.xlat.pend.length then .next s
      else
        let (o, s) := s.reissue (s.opCtx o) o PartState.waitsEntry
        .next ((s.setOp o).nodeFault o)
  | _ => .next s

/-! ## TLBINV (R118) -/

/-- Entries that the invalidation covers start to be dropped. -/
def State.startInval (s : State) (cov : TlbEntry → Bool) : State :=
  { s with xlat := { s.xlat with tlb := s.xlat.tlb.map (fun e => if cov e then { e with dying := true } else e) } }

def TlbEntry.covered (scope ctx vpn : Nat) (e : TlbEntry) : Bool :=
  scope = 0 || (e.ctx == ctx && (scope = 1 || (e.base ≤ 4096 * vpn && 4096 * vpn < e.base + 2 ^ e.log)))

/-- A 64-bit write to TLBINV. -/
def State.tlbinv (s : State) (v : Nat) : State :=
  let x := s.xlat
  let scope := bitsOf v 11 10
  if x.invBusy || scope = 3 then s
  else
    let s : State := { s with xlat := { x with invVpn := bitsOf v 63 28, invCtx := bitsOf v 27 16, invScope := scope, invBusy := true } }
    s.startInval (TlbEntry.covered scope (bitsOf v 27 16) (bitsOf v 63 28))

def execTlbinvStart (s : State) : Out :=
  match s.writeOf 0x240 8 with
  | some v => .next (s.tlbinv v)
  | none => .next s

/-- Whether a part is still to be performed through one of a set of TLB entries. -/
def Part.uses (ids : List Nat) (p : Part) : Bool := p.tlb != 0 && ids.contains (p.tlb - 1) && p.state == .waiting

/-- Whether an access that was translated through one of a set of TLB entries is still to be performed: a part of an operation, or
any request, whoever made it, that is outstanding outside. Every reading of a `WAITMEM`, and every other access of a unit, is
translated when it is made. -/
def State.tlbUsed (s : State) (ids : List Nat) : Bool :=
  s.pod.ext.any (fun e => e.tlb != 0 && ids.contains (e.tlb - 1)) ||
  s.ops.any (fun o => o.parts.any (Part.uses ids) ||
    (match o.body with
     | .cpa b => b.lanes.any (fun l => !l.done && l.src.uses ids)
     | _ => false))

def State.dyingIds (s : State) : List Nat := (s.xlat.tlb.filter (fun e => e.dying)).map (fun e => e.id)

/-- Drop the entries that are being dropped. -/
def State.dropDying (s : State) : State := { s with xlat := { s.xlat with tlb := s.xlat.tlb.filter (fun e => !e.dying) } }

def execTlbinvDone (s : State) : Out :=
  if !s.xlat.invBusy || s.tlbUsed s.dyingIds then .next s
  else
    let s := s.dropDying
    .next { s with xlat := { s.xlat with invBusy := false } }

/-! ## Dirty bitmaps (R136, R137) and SBRMCTL (R513) -/

/-- A write to DIRTYCTL. -/
def State.dirtyctl (s : State) (v : Nat) : State :=
  let x := s.xlat
  let x := { x with dirtyEn := bitOf v 2 }
  if x.dirtyDrain || x.dirtySel == bitOf v 1 then { s with xlat := x }
  else { s with xlat := { x with dirtySel := bitOf v 1, dirtyDrain := true } }

def execDirtySwitch (s : State) : Out :=
  match s.writeOf 0x238 4 with
  | some v => .next (s.dirtyctl v)
  | none => .next s

/-- Every write sets its bit when it is performed, so nothing is left to drain. -/
def execDirtyDrainDone (s : State) : Out := .next { s with xlat := { s.xlat with dirtyDrain := false } }

/-- A write to SBRMCTL. -/
def State.sbrmctl (s : State) (v : Nat) : State :=
  if bitOf v 15 then { s with xlat := { s.xlat with remap := s.xlat.remap.filter (fun r => r.sbid != v % 4096 || r.park) } } else s

def execSbrmctlClr (s : State) : Out :=
  match s.writeOf 0x248 4 with
  | some v => .next (s.sbrmctl v)
  | none => .next s

/-! ## Leaves -/

/-- Valid leaves under a table, ascending by VA: (where it lies, VA, log2 of its size, value). One with V = 1 that is malformed
under R115 is passed over (DESIGN CHOICE, log 78). -/
def State.leavesUnder (s : State) : List Nat → Nat → Nat → List (Nat × Nat × Nat × Nat)
  | [], _, _ => []
  | lo :: t, table, va =>
    (List.range 512).flatMap (fun i =>
      let at' := table + 8 * i
      let e := s.read64 at'
      if !bitOf e 0 then []
      else if bitOf e 1 then (if lo = 39 || leafBad e lo then [] else [(at', va + i * 2 ^ lo, lo, e)])
      else if tableOk e then s.leavesUnder t (e / 4096 * 4096) (va + i * 2 ^ lo) else [])

def State.leavesOf (s : State) (ctx : Nat) : List (Nat × Nat × Nat × Nat) :=
  let root := s.read64 (s.ctxEntry ctx)
  if bitOf root 0 && hbmOk (root / 4096 * 4096) then s.leavesUnder [39, 30, 21, 12] (root / 4096 * 4096) 0 else []

/-! ## Heat scan (R124) -/

def leafHeat (e : Nat) : Nat := bitsOf e 11 9
def scanned (e : Nat) : Nat :=
  let h := leafHeat e / 2 + (if bitOf e 8 then 4 else 0)
  e - bitsOf e 11 8 * 256 + h * 512

def execHeatScan (s : State) : Out :=
  if !s.xlat.migEn then .next s
  else
    let ctxs := (List.range 4096).filter (fun c => s.ctxValid c && s.ctxFlag c 2)
    .next (ctxs.foldl (fun s c =>
      (s.leavesOf c).foldl (fun s l =>
        let s' := s.atomic64 l.1 (scanned l.2.2.2)
        let s := if s.poisoned l.1 8 then s else s'
        if !s.poisoned l.1 8 && bitOf l.2.2.2 8 then s.startInval (TlbEntry.covered 2 c (l.2.1 / 4096)) else s) s) s)

/-! ## The migration engine (R125 to R127) -/

/-- A migration command of 64 bytes (Table 4-8). -/
def MigCmd.parse (b : List Byte) : MigCmd :=
  { op := fieldOf b 0 1, ctx := fieldOf b 2 2 % 4096, sbid := fieldOf b 4 2 % 4096, side := fieldOf b 6 1 % 2, glade := fieldOf b 7 1,
    va := fieldOf b 8 8, dst := fieldOf b 16 8, count := fieldOf b 24 4, completion := fieldOf b 32 8 }

/-- Write a command's status word and raise its interrupt. The count of pages is free where it does not fit its field (DESIGN
CHOICE, log 1). -/
def State.migStatus (s : State) (c : MigCmd) (code n : Nat) : State :=
  let (k, s) := if n < 2 ^ 24 then (n, s) else (s.freeWord.1.toNat % 2 ^ 24, s.freeWord.2)
  (s.store32 c.completion (code * 2 ^ 24 + k)).raiseIrq irqMigration

/-- The command at the head ends. -/
def State.migEnd (s : State) (c : MigCmd) (code : Nat) : State :=
  ({ s with xlat := { s.xlat with mig := s.xlat.mig.drop 1 } } : State).migStatus c code c.moved

def State.putMig (s : State) (c : MigCmd) : State := { s with xlat := { s.xlat with mig := c :: s.xlat.mig.drop 1 } }

/-- Storage of a plot in FIREBREAK, which no agent but the scrubber reaches (R231). -/
def State.firebreak (s : State) (a : Nat) : Bool :=
  (ppaKind a == 0 && (s.plot (hbmPlot a)).st == .firebreak) || (ppaKind a == 3 && (s.plot (canopyPlot a)).st == .firebreak)

/-- Step 0 of R126. A plot in FIREBREAK is no destination (DEDUCED from R231, log 78). -/
def State.migDest (s : State) (a log : Nat) : Bool :=
  let k := ppaKind a
  !ppaBad a && !s.firebreak a && a % 2 ^ log = 0 && (k = 0 || k = 3 || (k = 1 && controlArea ≤ modOff a && (!s.pod.en || modIndex a < s.podSize)))

def setPark (e p : Nat) : Nat := e - leafPark e * 2 ^ 60 + p * 2 ^ 60

/-- Park a leaf and begin to move its page: the leaf's address, VA, size and value, its context and the destination. The engine's
own invalidation does not show in TLBINV.BUSY (DESIGN CHOICE, log 78). -/
def State.migBegin (s : State) (c : MigCmd) (at' va log e ctx dest : Nat) : State :=
  let s := s.atomic64 at' (setPark e 1)
  let s := s.startInval (TlbEntry.covered 2 ctx (va / 4096))
  s.putMig { c with stage := .drain, leafAt := at', log := log, src := leafPpa e, dest := dest, curCtx := ctx, curVa := va / 2 ^ log * 2 ^ log, pos := 0 }

def State.startMove (s : State) (c : MigCmd) : State :=
  if !s.ctxValid c.ctx || 2 ^ 48 ≤ c.va then s.migEnd c 0x10
  else
    match s.walk c.ctx c.va with
    | .leaf at' log e =>
      if s.poisoned at' 8 || leafBad e log || leafSv e != 0 || leafPark e != 0 || s.firebreak (leafPpa e) || !s.migDest c.dst log then
        s.migEnd c 0x10
      else s.migBegin c at' c.va log e c.ctx c.dst
    | _ => s.migEnd c 0x10

def State.startMovesb (s : State) (c : MigCmd) : State :=
  let page := c.va
  let r := s.remapOf c.sbid c.side page
  if !s.migDest c.dst 12 || s.poisoned (s.sbt c.sbid) 32 || !s.sbValid c.sbid || s.sbPages c.sbid ≤ page || r.any (fun r => r.park)
      || (r.isNone && 4096 ≤ s.xlat.remap.length) then s.migEnd c 0x10
  else
    let home := s.read64 (s.sbt c.sbid + 8 * c.side) % 2 ^ 60 / 4096 * 4096 + page * 4096
    let src := (r.map (fun r => r.ppa)).getD home
    let rest := s.xlat.remap.filter (fun x => !(x.sbid == c.sbid && x.side == c.side && x.page == page))
    let s : State := { s with xlat := { s.xlat with remap := rest ++ [⟨c.sbid, c.side, page, src, true⟩] } }
    s.putMig { c with stage := .drain, src := src, dest := c.dst, log := 12, pos := 0 }

/-- The coldest page that EVICT may move: (HEAT, context, where the leaf lies, VA, value). -/
def State.coldest (s : State) (g : Nat) : Option (Nat × Nat × Nat × Nat × Nat) :=
  let ctxs := (List.range 4096).filter (fun c => s.ctxValid c && s.ctxGlade c == g && !s.ctxFlag c 1)
  ctxs.foldl (fun (b : Option (Nat × Nat × Nat × Nat × Nat)) c =>
    (s.leavesOf c).foldl (fun b l =>
      let e := l.2.2.2
      if l.2.2.1 = 12 && bitOf e 6 && !bitOf e 7 && leafSv e = 0 && leafPark e = 0 && leafTier e = 0 then
        match b with
        | some x => if leafHeat e < x.1 then some (leafHeat e, c, l.1, l.2.1, e) else b
        | none => some (leafHeat e, c, l.1, l.2.1, e)
      else b) b) none

def State.startEvict (s : State) (c : MigCmd) : State :=
  if !hbmOk c.dst || c.dst % 8 ≠ 0 then s.migEnd c 0x10
  else if c.count ≤ c.moved then s.migEnd c 0
  else
    match s.coldest c.glade with
    | none => s.migEnd c 0
    | some (_, ctx, at', va, e) =>
      let dest := s.read64 (c.dst + 8 * c.moved)
      if s.poisoned (c.dst + 8 * c.moved) 8 || s.poisoned at' 8 || s.firebreak (leafPpa e) || !s.migDest dest 12 then s.migEnd c 0x10 else s.migBegin c at' va 12 e ctx dest

/-- Start the command at the head, if it stands at its start. -/
def State.migStart (s : State) : State :=
  match s.xlat.mig with
  | [] => s
  | c :: _ =>
    if c.stage != .start then s
    else if c.op = 1 then s.startMove c
    else if c.op = 2 then s.startMovesb c
    else if c.op = 3 then s.startEvict c else s.migEnd c 0x10

/-- A 64-byte write to MIGCMD. -/
def State.migWrite (s : State) (b : List Byte) : State :=
  let c := MigCmd.parse b
  if !hbmOk c.completion || c.completion % 8 ≠ 0 then s
  else if 64 ≤ s.xlat.mig.length then s.migStatus c 0x10 0
  else
    let s : State := { s with xlat := { s.xlat with mig := s.xlat.mig ++ [c] } }
    if s.xlat.mig.length = 1 then s.migStart else s

/-- A command given by a write, or the head's next start. -/
def State.migEvent (s : State) (mine : Nat → Bool) : State :=
  match s.arg with
  | .write 0 0x280 data => if !s.halted && data.length = 64 && mine (fieldOf data 0 1) then s.migWrite data else s
  | .none => if s.xlat.mig.head?.any (fun c => mine c.op) then s.migStart else s
  | _ => s

/-- MOVE; a command of an unknown OP ends with FAULT. -/
def execMove (s : State) : Out := .next (s.migEvent (fun op => op != 2 && op != 3))
def execMovesb (s : State) : Out := .next (s.migEvent (fun op => op == 2))
def execEvict (s : State) : Out := .next (s.migEvent (fun op => op == 3))

/-- Accesses already resolved to the source have been performed or parked. A shadow page is resolved when an access is performed
(R121), so only requests outside are left to wait for. -/
def State.migDrained (s : State) (c : MigCmd) : Bool :=
  if c.op = 2 then !s.pod.ext.any (fun e => !e.host && e.tlb != 0 && c.src ≤ e.ppa && e.ppa < c.src + 4096)
  else !s.tlbUsed ((s.xlat.tlb.filter (fun e => e.dying && e.ctx == c.curCtx && e.base ≤ c.curVa && c.curVa < e.base + 2 ^ e.log)).map (fun e => e.id))

def execMigrationDrainDone (s : State) : Out :=
  match s.xlat.mig with
  | c :: _ => .next (if c.stage == .drain && s.migDrained c then s.putMig { c with stage := .copy } else s)
  | [] => .next s

/-- Replay what parked with MIGRATING on the page that has moved. -/
def State.migReplay (s : State) (c : MigCmd) : State :=
  let mine (p : Pend) : Bool := p.code == 0x25 &&
    (if c.op = 2 then
      (match s.walk p.ctx p.va with
       | .leaf _ log e => leafSv e != 0 && leafSbid e == c.sbid && leafPidx e + (if log ≤ 12 then 0 else bitsOf p.va (log - 1) 12) == c.va
       | _ => false)
     else p.ctx == c.curCtx && c.curVa ≤ p.va && p.va < c.curVa + 2 ^ c.log)
  ((s.xlat.pend.filter mine).map (fun p => p.tag)).foldl (fun s t => s.replayTag t) s

/-- The migration engine as a unit. -/
def whoMig : Nat := 2 ^ 53

/-- The context that a line of a page is copied for: the page's own; for a backing, one that holds the key under which its source
lines are sealed, or context 0 (DEDUCED, log 78). -/
def State.migCtx (s : State) (c : MigCmd) (a : Nat) : Nat :=
  if c.op ≠ 2 then c.curCtx
  else
    match (s.sealOf (lineOf a)).kid with
    | some k => ((List.range 4096).find? (fun x => s.ctxValid x && s.ctxKey x == k)).getD 0
    | none => 0

/-- The next line of a page goes through the homes of its source and its destination, with its poison (R138); none while it waits. -/
def State.migLine (s : State) (c : MigCmd) : Option State × State :=
  let a := c.src + 64 * c.pos
  let d := c.dest + 64 * c.pos
  let ctx := s.migCtx c a
  match s.engPiece whoMig 0 ctx a .rc 0 .read true a 64 with
  | (.done bs bad, s) =>
    (match s.engPiece whoMig 0 ctx (2 ^ 60 + d) .rc 0 (.write bs) true d 64 with
     | (.done _ _, s) =>
       let s := s.endFetches whoMig
       (some (if bad then s.poisonLines [lineOf d] else s), s)
     | (_, s) => (none, s))
  | (_, s) => (none, s)

/-- One move of the copy: a page within the package at once, another line by line. True once all is copied. -/
def State.migCopy (s : State) (c : MigCmd) : Bool × State :=
  let local' (a : Nat) : Bool := ppaKind a == 0 || ppaKind a == 3
  if local' c.src && local' c.dest then
    let s := s.copyBytes c.src c.dest (2 ^ c.log)
    (true, (pagesOf c.dest (2 ^ c.log)).foldl State.markDirty s)
  else if 2 ^ c.log ≤ 64 * c.pos then (true, s)
  else
    match s.migLine c with
    | (some s, _) => (false, s.putMig { c with pos := c.pos + 1 })
    | (none, s) => (false, s)

/-- Step 4 for a shadow backing. -/
def State.migRemap (s : State) (c : MigCmd) : State :=
  let mine (r : Remap) : Bool := r.sbid == c.sbid && r.side == c.side && r.page == c.va
  let rest := s.xlat.remap.filter (fun r => !mine r)
  let field := s.sbt c.sbid + 8 * c.side
  let home := s.read64 field % 2 ^ 60 / 4096 * 4096 + c.va * 4096
  if s.sbPages c.sbid = 1 then ({ s with xlat := { s.xlat with remap := rest } } : State).store64 field c.dest
  else if c.dest = home then { s with xlat := { s.xlat with remap := rest } }
  else { s with xlat := { s.xlat with remap := rest ++ [⟨c.sbid, c.side, c.va, c.dest, false⟩] } }

/-- Reads still go through the leaf with PARK = 1. -/
def State.migReads (s : State) (c : MigCmd) : List Nat :=
  (s.xlat.tlb.filter (fun e => e.ctx == c.curCtx && e.base ≤ c.curVa && c.curVa < e.base + 2 ^ e.log)).map (fun e => e.id)

/-- MIGRATION_COPY_DONE: steps 3 to 5; the second TLBINV has nothing left to wait for once those reads are performed. -/
def execMigrationCopyDone (s : State) : Out :=
  match s.xlat.mig with
  | [] => .next s
  | c :: _ =>
    if c.stage != .copy then .next s
    else
      let (done, s) := if c.op = 2 || !s.tlbUsed (s.migReads c) then s.migCopy c else (false, s)
      if !done then .next s
      else if c.op = 2 then .next (((s.migRemap c).migEnd { c with moved := 1 } 0).migReplay c)
      else if s.poisoned c.leafAt 8 then .next ((s.migEnd c 0x10).migReplay c)
      else
        let e := s.read64 c.leafAt
        let s := s.store64 c.leafAt ((setPark e 0) % 2 ^ 12 + (bitsOf e 63 62) * 2 ^ 62 + c.dest)
        let ids := s.migReads c
        let s : State := { s with xlat := { s.xlat with tlb := s.xlat.tlb.filter (fun t => !ids.contains t.id) } }
        let c := { c with moved := c.moved + 1 }
        let s := if c.op = 3 then s.putMig { c with stage := .start } else s.migEnd c 0
        .next (s.migReplay c)

end Sys2Proof.Machine
end

