-- ==== Sys2Proof/Machine/HostEvents.lean ====
section
/-!
DEFINITION. Submission windows (05 R149 to R154), functions and their reset and pause (R155 to R158, R166), MSI-X
(R161), the service queue and its replies (R174 to R176).
-/
namespace Sys2Proof.Machine

/-! ## Submission (R149 to R151) -/

/-- The queue context of a slot; none at or beyond NQ. -/
def State.slotQ (s : State) (fn j : Nat) : Option Nat :=
  if fn = 0 then (if j < 4096 then some j else none)
  else if j < (s.fn fn).nq then some ((s.fn fn).qbase + j) else none

/-- R149: the checks on the queue context of a slot. -/
def State.slotOk (s : State) (fn q : Nat) (pasid : Option Nat) : Bool :=
  let b0 := (s.readB (s.qctxAt q)).toNat
  q < 4096 && bitOf b0 0 && s.qctxFn q == fn && (!bitOf b0 1 || pasid == some (s.read32 (s.qctxAt q + 16) % 2 ^ 20))
    && (fn != 0 || s.enabledVfs.all (fun v => !((s.fn v).qbase ≤ q && q < (s.fn v).qbase + (s.fn v).nq)))

/-- Take an arriving record: intake, spill ring, or dropped (R151). -/
def State.arriveRec (s : State) (fn q : Nat) (b : List Byte) : State :=
  let c := s.qcount q
  let taken : QCount := { c with accepted := (c.accepted + 1) % 2 ^ 64, behind := s.host.nextWin }
  if s.spilled q = 0 && (s.intakeOf q).length < 16 && s.host.intake.length < 8192 then
    ({ s with host := { s.host with intake := s.host.intake ++ [(q, b)] } } : State).setQcount q taken
  else if s.splog q != 0 && s.spilled q < 2 ^ s.splog q then
    (s.store (s.spRing q + 64 * (c.tail % 2 ^ s.splog q)) b).setQcount q { taken with tail := (c.tail + 1) % 2 ^ 32 }
  else
    (s.setQcount q { c with dropped := (c.dropped + 1) % 2 ^ 32 }).post fn 2 1 q (subSeq b)

/-- SUBMISSION_WRITE; DATA of a bad write is 0 unless it is one whole record (DESIGN CHOICE, log 30). -/
def State.submit (s : State) (fn off : Nat) (pasid : Option Nat) (whole : Bool) (data : List Byte) : State :=
  if !s.fnEn fn || (s.fn fn).resetting || !WinKind.submission.reached fn off data.length true then s
  else
    let form := whole && data.length == 64 && off % 64 == 0
    match s.slotQ fn (off / 64) with
    | some q => if form && s.slotOk fn q pasid then s.arriveRec fn q data else s.post fn 2 2 q (if form then subSeq data else 0)
    | none => s.post fn 2 2 ((s.fn fn).qbase + off / 64) (if form then subSeq data else 0)

/-- A read of a submission window (R154). -/
def State.slotRead (s : State) (fn off n : Nat) : Nat :=
  match s.slotQ fn (off / 64) with
  | some q => if off % 64 = 0 && n = 8 then (s.qcount q).accepted % 2 ^ 32 + (s.qcount q).dropped * 2 ^ 32 else 0
  | none => 0

/-- A read waits until every earlier posted write of its requester has been performed (R147): it goes back to the inbox. -/
def State.afterPosted (s : State) (i : Instr) (req : Nat) (k : State → State) : State :=
  if s.postedBefore req s.host.nextWin then { s with inbox := s.inbox ++ [(i, s.arg)] } else k s

/-- A submission write; or a read, which is answered; during its function's reset with Unsupported Request (R157). -/
def execSubmissionWrite (s : State) : Out :=
  match s.arg with
  | .submit fn off pasid whole data => .next (s.submit fn off pasid whole data)
  | .read fn req off n =>
    .next (if !WinKind.submission.reached fn off n false then s
      else s.afterPosted .submissionWrite req fun s =>
        if (s.fn fn).resetting then s.send .completion [fn, req, 1, 0]
        else s.send .completion [fn, req, 0, 0] (bytesOf n (s.slotRead fn off n)))
  | _ => .next s

/-! ## The reset of a function (R157) -/

/-- A node is cancelled with all it runs, and nothing of it is published. -/
def State.killNode (s : State) (id : Nat) : State :=
  match s.node id with
  | none => s
  | some n =>
    if n.st == .publishing then s
    else
      let tagged := s.host.tags.any (fun t => t.2 == .reissue id)
      let s := s.discardNode id
      let s := s.setNode { n with st := .cancelled, unplaced := [], park := none }
      if tagged then s else s.endNode id 1

/-- The queue contexts of a function: a VF's range; for the PF, those of its own that no enabled VF has (R149). -/
def State.qctxsOf (s : State) (f : Nat) : List Nat :=
  if f = 0 then
    (List.range 4096).filter (fun q => s.qctxFn q == 0 && s.enabledVfs.all (fun v => !((s.fn v).qbase ≤ q && q < (s.fn v).qbase + (s.fn v).nq)))
  else (List.range (min (s.fn f).nq (4096 - (s.fn f).qbase))).map (fun j => (s.fn f).qbase + j)

/-- The start of a reset: a new generation, no records, no nodes. -/
def State.resetFn (s : State) (f : Nat) : State :=
  let x := s.fn f
  let s := s.setFn f { x with ilgen := (x.ilgen + 1) % 2 ^ 32, ilhead := 0, iltail := 0, illost := 0, resetting := true }
  let qs := s.qctxsOf f
  let s : State := { s with host := { s.host with intake := s.host.intake.filter (fun r => !qs.contains r.1) },
                            recPark := s.recPark.filter (fun r => !qs.contains r.1), recFailed := s.recFailed.filter (fun q => !qs.contains q) }
  let s := qs.foldl (fun s q =>
    let c := s.qcount q
    (if s.spilled q = 0 then s else s.setQcount q { c with head := c.tail }).endFetches (whoQctx q)) s
  let s := s.forget (fun k => k == .log f)
  let s : State := { s with host := { s.host with logs := s.host.logs.filter (fun e => e.1 != f),
                                                  logSent := s.host.logSent.filter (fun k => k != f) } }
  let ids := (s.graph.nodes.filter (fun n => n.fn == f)).map (fun n => n.id)
  (ids.foldl (fun s id => s.killNode id) s).sweepPend

def execFunctionLevelReset (s : State) : Out :=
  match s.arg with
  | .unit f => .next (if f ≤ 64 then s.resetFn f else s)
  | _ => .next s

/-- Everything that the reset of a function discards is gone. -/
def State.resetOver (s : State) (f : Nat) : Bool :=
  s.groups.all (fun g => g.2.fn != f) && s.graph.nodes.all (fun n => n.fn != f || n.st == .cancelled)

def execFlrComplete (s : State) : Out :=
  match s.arg with
  | .unit f =>
    if (s.fn f).resetting && s.resetOver f then .next ((s.setFn f { s.fn f with resetting := false }).post f 6 0 0 0)
    else .next s
  | _ => .next s

/-! ## FNCFG (Table 5-5) -/

def Func.cfg (x : Func) (f : Nat) : Nat :=
  x.nq + x.qbase * 2 ^ 16 + (if x.tsfrz then 2 ^ 29 else 0) + (if x.pause then 2 ^ 30 else 0)
    + (if x.en || f = 0 then 2 ^ 31 else 0) + x.glades * 2 ^ 32

/-- R156: what makes a write that enables a function ignored. -/
def State.cfgClash (s : State) (f v : Nat) : Bool :=
  let nq := bitsOf v 8 0
  let qb := bitsOf v 27 16
  256 < nq || 4096 < qb + nq || (s.enabledVfs.filter (fun g => g != f)).any (fun g =>
    let y := s.fn g
    (nq != 0 && y.nq != 0 && qb < y.qbase + y.nq && y.qbase < qb + nq) || y.glades &&& bitsOf v 63 32 != 0)

/-- Setting PAUSE (R158, R166): the timestamp is latched and the running work pre-empted. -/
def State.pauseFn (s : State) (f : Nat) : State :=
  let (t, s) := s.tstamp f
  let s := s.setFn f { s.fn f with pause := true, tspause := t }
  ((List.range 32).flatMap (fun g => (s.gladePlots g).map (fun k => (g, k)))).foldl (fun s gk =>
    if (s.victimGroups gk.2 (some f)).isEmpty then s else s.preempt gk.1 gk.2 .pause false (some f)) s

/-- Clearing PAUSE. -/
def State.unpauseFn (s : State) (f : Nat) : State :=
  let s := s.passTime
  let x := s.fn f
  let x := if x.tsfrz then { x with tsoff := (x.tsoff + 2 ^ 64 - (x.tsNow s.now + 2 ^ 64 - x.tspause) % 2 ^ 64) % 2 ^ 64 } else x
  let s := s.setFn f { x with pause := false }
  if x.iltail = x.ilhead then s else s.notify f

/-- Stage 2 has scrubbed the plots (R25). -/
def State.scrubbed (s : State) : Bool := s.boot.phase == .ready || s.boot.phase == .done

/-- A write after which FNCFG of a function would hold `v`; every one raises the interrupt (R173). -/
def State.fncfgWrite (s : State) (f v : Nat) : State :=
  let s := s.raiseIrq irqFncfg
  let x := s.fn f
  let en := bitOf v 31
  if f != 0 && !x.en && en && (s.cfgClash f v || !s.scrubbed) then s
  else
    let x := if f = 0 || x.en then x else { x with nq := bitsOf v 8 0, qbase := bitsOf v 27 16, glades := bitsOf v 63 32 }
    let s' := s.setFn f { x with en := en && f != 0, tsfrz := bitOf v 29 }
    let s' := if x.en && !en && f != 0 then s'.resetFn f else s'
    if x.pause == bitOf v 30 then s' else if x.pause then s'.unpauseFn f else s'.pauseFn f

/-- A write of 4 or 8 bytes over the 64-bit value a register holds. -/
def merge64 (old off : Nat) (data : List Byte) : Nat :=
  if data.length = 8 then ofBytes data
  else if off % 8 = 0 then old / 2 ^ 32 * 2 ^ 32 + ofBytes data else old % 2 ^ 32 + ofBytes data * 2 ^ 32

/-- The function whose FNCFG an offset names. -/
def fncfgAt (off : Nat) : Option Nat := if 0x2000 ≤ off && off < 0x2410 && off % 16 < 8 then some ((off - 0x2000) / 16) else none

/-- A write of FNCFG by an event, if it has the effect the event names. -/
def State.fncfgEvent (s : State) (want : Func → Nat → Bool) : State :=
  match s.arg with
  | .write 0 off data =>
    match fncfgAt off with
    | some f =>
      let v := merge64 ((s.fn f).cfg f) off data
      if (data.length = 4 || data.length = 8) && off % data.length = 0 && !s.halted && want (s.fn f) v then s.fncfgWrite f v else s
    | none => s
  | _ => s

def execFncfgEnable (s : State) : Out := .next (s.fncfgEvent (fun x v => !x.en && bitOf v 31))
def execFncfgDisable (s : State) : Out := .next (s.fncfgEvent (fun x v => x.en && !bitOf v 31))
def execFncfgPause (s : State) : Out := .next (s.fncfgEvent (fun x v => !x.pause && bitOf v 30))
def execFncfgUnpause (s : State) : Out := .next (s.fncfgEvent (fun x v => x.pause && !bitOf v 30))

/-! ## MSI-X (R161) -/

def execMsixModerationExpiry (s : State) : Out :=
  match s.arg with
  | .unit f =>
    let x := s.fn f
    let s := s.setFn f { x with modRunning := false, suppressed := false }
    .next (if x.suppressed && x.iltail != x.ilhead then s.notify f else s)
  | _ => .next s

/-- The vector of a function is unmasked; `.pair f 1` masks it. -/
def execMsixVectorUnmask (s : State) : Out :=
  match s.arg with
  | .unit f =>
    let x := s.fn f
    let s := s.setFn f { x with masked := false, pendingMsi := false }
    .next (if x.pendingMsi then s.notify f else s)
  | .pair f m => .next (s.setFn f { s.fn f with masked := m != 0 })
  | _ => .next s

/-! ## The service queue (R174, R175) -/

def State.svcRoom (s : State) : Bool :=
  s.host.svcEn && (s.host.svcTail + 2 ^ 32 - s.host.svcHead) % 2 ^ 32 != 2 ^ s.host.svcLog

def execServiceQueuePost (s : State) : Out :=
  match s.host.svcWait with
  | [] => .next s
  | b :: t =>
    if !s.svcRoom then .next s
    else
      let (_, s) := s.nextSeq
      let s := s.store (s.host.svcBase + 64 * (s.host.svcTail % 2 ^ s.host.svcLog)) b
      let s : State := { s with host := { s.host with svcWait := t, svcTail := (s.host.svcTail + 1) % 2 ^ 32 } }
      .next (s.raiseIrq irqService)

/-- Results and status go to the calling warp (R366). -/
def State.svcAnswer (s : State) (o : Op) (b : SvcBody) (st : Nat) (rs : List Word) : State :=
  match o.owner with
  | .warp _ _ => s.results o.id (((List.range 4).zip rs).map (fun r => (sKey (b.dreg + r.1), r.2)) ++ [(sKey b.sreg, BitVec.ofNat 32 st)])
  | .node _ => s.endOp o.id

/-- The runtime's answer to a REISSUE (R208); a node cancelled meanwhile ends. -/
def State.reissueAnswer (s : State) (id st : Nat) : State :=
  match s.node id with
  | none => s
  | some n =>
    if n.st == .cancelled then s.endNode id 1
    else if n.st != .reissue then s
    else if st = 0 then s.setNode { n with st := .ready, attempt := n.attempt + 1, readyAt := s.now }
    else (s.setNode { n with st := .failed }).endNode id 2

/-- Nodes in REISSUE whose record had no tag take one that has come free. -/
def State.lateReissue (s : State) : State :=
  match s.graph.nodes.find? (fun n => n.st == .reissue && !s.host.tags.any (fun t => t.2 == .reissue n.id)) with
  | none => s
  | some n => (s.reissueRecord n).getD s

/-- A 64-byte write to SVCREPLY. -/
def State.svcReply (s : State) (b : List Byte) : State :=
  let form := b.length == 64 && fieldOf b 3 13 == 0 && fieldOf b 32 32 == 0
  match s.host.tags.find? (fun t => t.1 == fieldOf b 0 2) with
  | none => s
  | some (t, owner) =>
    if !form then s
    else
      let st := fieldOf b 2 1
      let rs := (List.range 4).map (fun i => BitVec.ofNat 32 (fieldOf b (16 + 4 * i) 4))
      let s : State := { s with host := { s.host with tags := s.host.tags.filter (fun x => x.1 != t) } }
      let s := match owner with
        | .op id =>
          (match s.op id with
           | some o =>
             (match o.body with
              | .svc x => s.svcAnswer o x st rs
              | _ => s)
           | none => s)
        | .service id => if st = 0 then s.publishNode id else s.failStatus id 0x10
        | .reissue id => s.reissueAnswer id st
        | .dead => s
      s.lateReissue

def execSvcReply (s : State) : Out :=
  match s.arg with
  | .write 0 0x2C0 data => .next (if s.halted then s else s.svcReply data)
  | _ => .next s

end Sys2Proof.Machine
end

