-- ==== Sys2Proof/Machine/Fabric.lean ====
section
/-!
DEFINITION. The fabric ports (02 R36 to R40), losses (R62, R63), link protection (R66 to R72), snoops and the requests of
other heads at the homes of direct modules (R46 to R52).
-/
namespace Sys2Proof.Machine

/-! ## Records to the heads of a module (R63) -/

/-- Post a record to a head's event queue; one of this package's own raises POD_RECORD_ARRIVAL. -/
def State.postTo (s : State) (m head : Nat) (bs : List Byte) : State :=
  let s := s.postModule m head bs
  if s.myHead m = some head then { s with inbox := s.inbox ++ [(.podRecordArrival, .unit m)] } else s

/-- The heads of a module that carry pod traffic and are not lost. -/
def State.liveHeads (s : State) (m : Nat) : List Nat :=
  (List.range (podSet s.pod.order).length).filter (fun h => !(s.module m).lost.contains h)

def State.postAll (s : State) (m : Nat) (heads : List Nat) (bs : List Byte) : State :=
  heads.foldl (fun s h => s.postTo m h bs) s

/-! ## Slots that a lost head ends (R92) -/

/-- Where a slot's chunk ends and its trailer begins. -/
def RedSlot.outBytes (x : RedSlot) : Nat :=
  if x.isPart && identStep x.ident = 1 then x.elems * 48 else x.elems * wireBytesOf x.wire

def State.putSlot (s : State) (m : Nat) (x : RedSlot) : State :=
  let y := s.module m
  s.setModule m { y with slots := y.slots.map (fun z => if z.ident = x.ident then x else z) }

/-- The chunk identity of a slot's result: the slot's key, CONTRIB 0 and an ORIGIN that is open (DESIGN CHOICE, log 33). -/
def RedSlot.outIdent (x : RedSlot) : Nat := x.ident + Config.slotOrigin x.ident % 128 * 2 ^ 24

/-- The owner head is told that a slot has its result, with both words of the chunk (R77). -/
def State.notifySlot (s : State) (m : Nat) (x : RedSlot) (ck : Nat) : State :=
  if s.myHead m = some x.owner then { s with inbox := s.inbox ++ [(.slotNotification, .notice m x.landing x.outIdent ck)] }
  else s.send .slotNote [m, x.owner, x.landing, x.outIdent, ck]

/-- Contributors that have arrived, as a mask. -/
def RedSlot.arrived (x : RedSlot) : Nat := x.arrivals.foldl (fun n a => n ||| 2 ^ a.1) 0

/-- A slot stops with a status (R90, R92): state 2 CHECKSUM, 3 LINK_LOST. The spec gives its trailer no checksum word: it is 0
(DESIGN CHOICE, log 79). -/
def State.stopSlot (s : State) (m : Nat) (x : RedSlot) (state code : Nat) : State :=
  let s := s.poke (modPpa m (x.landing + x.outBytes)) (trailer x.outIdent 0 code x.arrived)
  (s.putSlot m { x with state := state }).notifySlot m x 0

/-- The heads through which relays write into a slot: those that have, and those of the trails that a collective of this package
which the slot belongs to names (R80, R92). -/
def State.slotRelays (s : State) (m : Nat) (x : RedSlot) : List Nat :=
  match s.pod.colls.find? (fun c => c.keyIs x.ident) with
  | none => x.via
  | some c =>
    let o := ((s.lineOfMod m)[x.owner]?).getD 128
    c.members.foldl (fun l p =>
      match s.step1Target c p o with
      | some (m', _, some r) => if p != o && m' = m then (s.headOf m r).elim l (fun h => insertNat h l) else l
      | _ => l) x.via

/-- Whether a running slot depends on a head. -/
def State.slotNeeds (s : State) (m : Nat) (x : RedSlot) (h : Nat) : Bool :=
  x.state = 0 && identStep x.ident = 1 && (bitOf x.mask h || (s.slotRelays m x).contains h)

def State.endSlots (s : State) (m h : Nat) : State :=
  ((s.module m).slots.filter (fun x => s.slotNeeds m x h)).foldl (fun s x => s.stopSlot m x 3 0x14) s

/-- SLOT_LINK_LOST: a module and the head lost. -/
def execSlotLinkLost (s : State) : Out :=
  match s.arg with
  | .pair m h => .next (s.endSlots m h)
  | _ => .next s

/-! ## A head is lost: its directory marks (R48) -/

/-- Whether a head held a line dirty: this package's by its L2; another's as the home knows, or a silent move from E to M
that the home cannot see. -/
def State.heldDirty (s : State) (m h line : Nat) (d : DirLine) : Bool × State :=
  if d.owner != some h then (false, s)
  else if s.myHead m = some h then ((s.l2Find (modPpa m (64 * line) / 64)).any (fun x => 3 ≤ x.st), s)
  else if d.dirty || d.shared then (true, s)
  else
    let (k, s) := s.pick 2
    (k = 1, s)

/-- Clear a head's marks on one line; a line that it held dirty is poisoned. -/
def State.unmark (s : State) (m h line : Nat) : State :=
  let d := s.dirAt m line
  let (bad, s) := s.heldDirty m h line d
  let s := if bad then s.poisonLines [modPpa m (64 * line) / 64] else s
  s.setDir m line (d.clear h)

def State.unmarkAll (s : State) (m h : Nat) : State :=
  (s.module m).dir.foldl (fun s l => s.unmark m h l.1) s

/-- SNOOP_TIMEOUT: module, line, head. The request that sent the snoop goes on. -/
def execSnoopTimeout (s : State) : Out :=
  match s.arg with
  | .triple m line h =>
    if (s.module m).snoops.any (fun q => q.line == line && q.head == h) then .next ((s.unmark m h line).snoopOver m line h false)
    else .next s
  | _ => .next s

/-- The head that a request at a home comes from. -/
def askingHead : EventArg → Option Nat
  | .home _ _ h _ => some h
  | .atomic _ _ h _ _ _ _ => some h
  | .queue _ _ h _ _ => some h
  | _ => none

/-- The requests of a lost head, and the snoops that it owed, are gone; so are this package's own where the head is its own. -/
def State.dropHead (s : State) (m h : Nat) : State :=
  let x := s.module m
  let s := (x.snoops.filter (fun q => q.head == h)).foldl (fun s q => s.snoopOver m q.line h false) s
  let y := s.module m
  s.setModule m { y with reqs := y.reqs.filter (fun r =>
    match r.who with
    | .event _ a => askingHead a != some h
    | _ => s.myHead m != some h) }

/-- A module loses a head. One that has lost them all is lost with its contents (R64, R65). -/
def State.headLoss (s : State) (m h : Nat) : State :=
  let s := (s.unmarkAll m h).dropHead m h
  let s := (s.setModule m { s.module m with lost := insertNat h (s.module m).lost }).endSlots m h
  if (podSet s.pod.order).isEmpty || !(s.liveHeads m).isEmpty then s else s.setModule m { s.module m with failed := true }

/-- MODULE_FAILURE: kind-2 records to every head it still reaches, then it stops. -/
def execModuleFailure (s : State) : Out :=
  match s.arg with
  | .unit m =>
    let s := s.postAll m (s.liveHeads m) (lossRecord 2 m 0xFF 0xFF 0)
    .next (s.setModule m { s.module m with failed := true })
  | _ => .next s

/-- POD_RECORD_ARRIVAL (R173). -/
def execPodRecordArrival (s : State) : Out := .next (s.raiseIrq irqPodRecord)

/-! ## What waits on a port that is lost (R62) -/

/-- A part parks with a fault that it met when it was performed. -/
def State.parkPart (s : State) (id i code ppa : Nat) : State :=
  match s.op id with
  | none => s
  | some o =>
    match o.partAt i with
    | none => s
    | some p =>
      let (agent, k, _) := o.accKind
      let (t, s) := s.park (s.opCtx o) p.addr code ppa k agent
      s.setOp (o.setPart i { p with state := parkState t code })

def State.coll (s : State) (id : Nat) : Option Coll := s.pod.colls.find? (fun c => c.id == id)
def State.setColl (s : State) (c : Coll) : State :=
  { s with pod := { s.pod with colls := s.pod.colls.map (fun x => if x.id = c.id then c else x) } }

/-- A contribution or a delivery (128 × chunk + member) is not waited for any more. -/
def Coll.unsend (c : Coll) (x : Nat) : Coll := { c with sent := c.sent.filter (fun y => y != x) }
def Coll.undeliver (c : Coll) (x : Nat) : Coll := { c with toRelay := c.toRelay.filter (fun y => y != (x / 128, x % 128)) }

def State.mapColl (s : State) (id : Nat) (f : Coll → Coll) : State :=
  match s.coll id with
  | none => s
  | some c => s.setColl (f c)

def State.dropExt (s : State) (id : Nat) : State := { s with pod := { s.pod with ext := s.pod.ext.filter (fun e => e.id != id) } }

/-- Answer the source of a descriptor through the response ring of its region (R59): status word, queue result, data and the tags
of its lines. The ring has room, for the engine takes no more descriptors than it can answer. -/
def State.answerRelay (s : State) (d : RelayDesc) (status res : Nat) (data : List Byte) (tags : List Seal) : State :=
  match s.myHead d.via with
  | none => s
  | some j =>
    let region := relayRegion d.head j
    let s := if data.length ≤ 16 then s else s.putPayload (modPpa d.via (region + d.payload)) data tags
    let (_, _, s) := s.queueOp d.via (region + respRing) 64 true
      (RelayDesc.encode { d with status := status * 2 ^ 24, queueRes := res, data := data } true)
    (s.flits j 0 (64 + data.length)).send .relayAnswer [d.via, region, d.seq]

/-- A transfer ends early with a status code; the first one stands. -/
def TxfBody.finishWith (b : TxfBody) (code : Nat) : TxfBody := if b.ending = 0 then { b with ending := code + 1 } else b

def State.endTransfer (s : State) (id code : Nat) : State :=
  match s.op id with
  | none => s
  | some o =>
    match o.body with
    | .txf b => s.setOp { o with body := .txf (b.finishWith code) }
    | _ => s

/-- A relayed request whose answer cannot come any more. -/
def State.loseExt (s : State) (e : Ext) : State :=
  let s := s.dropExt e.id
  match e.kind with
  | .part op i => s.parkPart op i 0x22 e.ppa
  | .queue op => s.parkPart op 0 0x22 e.ppa
  | .elem op _ => s.endTransfer op 0x14
  | .contribution c i => s.mapColl c (fun c => (c.unsend i).failChunk (i / 64) true)
  | .delivery c i => s.mapColl c (fun c => (c.undeliver i).failChunk (i / 128) true)
  | .forward d => s.answerRelay d 0x14 0 [] []
  | .window id _ =>
    (match s.host.windows.find? (fun w => w.id == id) with
     | some w => s.failWin w 1 0x22
     | none => s)
  | .hart h => s.hartBad h
  | .fetch who a => s.dropFetch who a
  | .log fn => { s with host := { s.host with logSent := s.host.logSent.filter (fun k => k != fn) } }
  | .flush _ => s

/-- A transfer that has worked on a module's port ends with LINK_LOST (R62). -/
def State.loseTransfers (s : State) (m : Nat) : State :=
  s.ops.foldl (fun s o =>
    match o.body with
    | .txf b => if b.stage = 0 && b.mods.contains m then s.endTransfer o.id 0x14 else s
    | _ => s) s

/-- The chunks of a collective that can no longer come or go once package p has lost its attachment to module m. -/
def State.collLoss (s : State) (p m : Nat) (c : Coll) : State :=
  let me := s.pod.pkg
  let way (x : Nat) : Bool := s.usesLink c.up me x p m
  let lost (i : Nat) : Bool :=
    (if c.sealBit then c.step1.any (fun x => x.1 == i && way x.2) else p == me && c.step1.contains (i, m))
      || (p == me && c.step2.contains i && c.second == some m)
      || (c.toGet.contains i && way (c.owner i))
      || ((c.toSend.contains (64 * i + 32) || c.sent.contains (64 * i + 32)) && p != c.owner i && way (c.owner i))
  s.setColl ((c.chunks.filter lost).foldl (fun d i =>
    let d := if c.owner i = me then d.ownerFail i true else d.failChunk i true
    { d with sent := d.sent.filter (fun x => x / 64 != i) }) c)

/-- In-flight traffic of a port is discarded; an attachment lost during a rekey erases its keys, and no tenant flit is sent
before fresh ones are there (R62, R72). -/
def State.dropTraffic (s : State) (k : Nat) : State :=
  let m := (s.port k).modid
  let s := s.pod.colls.foldl (fun s c => s.collLoss s.pod.pkg m c) s
  let s := (s.pod.ext.filter (fun e => !e.host && e.port == k)).foldl (fun s e => s.loseExt e) (s.loseTransfers m)
  if s.pod.keys.any (fun x => x.port == k && x.step != 0) then
    { s with pod := { s.pod with keys := s.pod.keys.filter (fun x => x.port != k) } }.setPort k { s.port k with keyless := true }
  else s

/-- What this package waits for over another's attachment that is lost ends too (R93; DEDUCED, log 61). -/
def State.partnerLost (s : State) (m h : Nat) : State :=
  let p := ((s.lineOfMod m)[h]?).getD 128
  s.pod.colls.foldl (fun s c => s.collLoss p m c) s

/-- MODULE_HEAD_LOSS: the module reports it to every remaining head (R63). -/
def execModuleHeadLoss (s : State) : Out :=
  match s.arg with
  | .pair m h =>
    if (s.module m).failed || (s.module m).lost.contains h then .next s
    else
      let s := s.headLoss m h
      .next ((s.postAll m (s.liveHeads m) (lossRecord 1 m h 0xFF 0)).partnerLost m h)
  | _ => .next s

/-- Leave a link: what the port reported of its partner is gone (DEDUCED, log 60). -/
def Port.leave (p : Port) (st : PortState) : Port :=
  { x8ok := p.x8ok, mode := p.mode, trained := p.trained, keyless := p.keyless, state := st }

/-- Without a new training REPLAY goes on showing what it counted (Table 2-4). -/
def Port.lose (p : Port) (st : PortState) : Port := { p.leave st with replay := p.replay }

/-- The package posts a record of kind 1 to the other heads of each module it still reaches directly (R63): one event of the
arbiter (R164). Before EN is set the ports carry no pod traffic, and nothing is posted (R38). -/
def State.reportLoss (s : State) (m h : Nat) : State :=
  if !s.pod.en then s
  else
    let (_, s) := s.nextSeq
    let (ts, s) := s.tstamp 0
    let mods := (List.range 9).filterMap (fun k => if (s.port k).state == .up then some (k, (s.port k).modid) else none)
    mods.foldl (fun s km => s.postAll km.2 ((s.liveHeads km.2).filter (fun x => x != km.1)) (lossRecord 1 m h s.pod.pkg ts)) s

/-- A port that was UP is lost (R62, R63). -/
def State.portLost (s : State) (k : Nat) (st : PortState) : State :=
  let m := (s.port k).modid
  let s := s.dropTraffic k
  let s := s.headLoss m k
  let s := s.setPort k ((s.port k).lose st)
  let s : State := { s with l2 := s.l2.filter (fun x => !(ppaKind (64 * x.line) == 1 && modIndex (64 * x.line) == m)) }
  s.reportLoss m k

/-- LINK_TIMEOUT (R62). -/
def execLinkTimeout (s : State) : Out :=
  match s.arg with
  | .unit k => .next (if (s.port k).state == .up then s.portLost k .down else s)
  | _ => .next s

/-! ## Training and enumeration (R37 to R39) -/

/-- A port starts to train, with the MODE that it holds now (Table 2-3). -/
def Port.train (p : Port) : Port := { p.leave .training with trained := p.mode }

/-- A write of PORTCTL; RETRAIN takes the port down and starts its training, but a port beyond the pod's order is held in
OFF (R39). -/
def State.portctl (s : State) (k v : Nat) : State :=
  let s := s.setPort k { s.port k with x8ok := bitOf v 3, mode := v % 4 }
  if !bitOf v 2 then s
  else
    let s := if (s.port k).state == .up then s.dropTraffic k else s
    s.setPort k (if s.pod.en && s.pod.order < k then (s.port k).leave .off else (s.port k).train)

/-- The port that a PORTCTL offset names. -/
def portctlAt (off : Nat) : Option Nat :=
  if 0x100 ≤ off && off < 0x190 && off % 16 = 0 then some ((off - 0x100) / 16) else none

/-- A 4-byte write to PORTCTL with RETRAIN set. -/
def execPortRetrain (s : State) : Out :=
  match s.arg with
  | .write 0 off data =>
    match portctlAt off with
    | some k => .next (if data.length = 4 && bitOf (ofBytes data) 2 && !s.halted then s.portctl k (ofBytes data) else s)
    | none => .next s
  | _ => .next s

/-- The tests of R38 on a port whose link is up. -/
def State.portState (s : State) (k : Nat) (p : Port) : PortState :=
  if !p.ext || (s.pod.en && (p.modid != s.modOfPort s.pod.pkg k || p.head != k)) then .refused else .up

/-- An attachment that comes back: the module has the head again; a module that had failed is a fresh one. -/
def State.attach (s : State) (m k : Nat) : State :=
  let x := s.module m
  let gone (l : Nat) : Bool := ppaKind (64 * l) == 1 && modIndex (64 * l) == m
  let s : State := if x.failed then
      { s with mem := Map.clear s.mem (modPpa m 0) (2 ^ 50), poison := s.poison.filter (fun l => !gone l), latent := s.latent.filter (fun l => !gone l),
               pod := { s.pod with sealed := s.pod.sealed.filter (fun x => !gone x.1) } }
    else s
  s.setModule m (if x.failed then { enrolled := x.enrolled } else { x with lost := x.lost.filter (fun h => h != k) })

/-- PORT_TRAINING_DONE. A port that reaches only x8 while X8OK is 0, or only C64 in MODE 1, ends DOWN: the spec says so of one
that cannot reach x8 alone (DESIGN CHOICE, log 82). With EN set, one that goes DOWN is reported by its place in the pod
(R63). -/
def execPortTrainingDone (s : State) : Out :=
  match s.arg with
  | .training k ok x8 v128 ext modid head nheads =>
    let p := s.port k
    if p.state != .training then .next s
    else if p.trained = 3 || (s.pod.en && s.pod.order < k) then .next (s.setPort k (p.leave .off))
    else if !ok || (x8 && !p.x8ok) || (p.trained = 1 && !v128) then
      .next ((s.setPort k (p.leave .down)).reportLoss (s.modOfPort s.pod.pkg k) k)
    else
      let q : Port := { p.leave .up with speed := if v128 && p.trained != 2 then 2 else 1, x8 := x8, ext := ext, modid := modid,
                                         head := head, nheads := nheads }
      let q := { q with state := s.portState k q }
      let s := s.setPort k q
      .next (if q.state == .up then s.attach modid k else s)
  | _ => .next s

/-- A write of PODCFG. -/
def State.podcfgWrite (s : State) (v : Nat) : State :=
  if s.pod.en then s
  else
    let q := bitsOf v 27 24
    let p := bitsOf v 14 8
    let s : State := { s with pod := { s.pod with order := q, pkg := p } }
    if !bitOf v 31 || (podSet q).isEmpty || s.podSize ≤ p then s
    else
      let s : State := { s with pod := { s.pod with en := true } }
      (List.range 9).foldl (fun s k =>
        let x := s.port k
        if q < k then s.setPort k (x.lose .off)
        else if x.state == .up then s.setPort k { x with state := s.portState k x } else s) s

/-- A write of PODCFG with EN set. -/
def execPodcfgEn (s : State) : Out :=
  match s.writeOf 0x80 4 with
  | some v => .next (if bitOf v 31 then s.podcfgWrite v else s)
  | none => .next s

/-! ## Link protection (R66 to R69) -/

/-- Whether a received flit's G bit selects a bank that holds a key; a port without keys carries key identifier 0 before
SPDM has run (R38). -/
def State.bankOk (s : State) (port kid : Nat) (g : Bool) : Bool :=
  match s.keyOf port kid false with
  | none => kid = 0
  | some x => (x.bank g).isSome

/-- A flit is discarded and replayed; after the second failed replay the port is FAILED (R69). -/
def State.badFlit (s : State) (k seq : Nat) : State :=
  let p := s.port k
  let n := match p.bad with
    | some (q, c) => if q = seq then c + 1 else 1
    | none => 1
  if 3 ≤ n then s.portLost k .failed
  else s.setPort k { p with bad := some (seq, n), replay := min 255 (p.replay + 1) }

/-- FLIT_RECEIVE. While EN is 0 a port carries channel 3 under key identifier 0 alone (R38): any other flit is ignored. -/
def execFlitReceive (s : State) : Out :=
  match s.arg with
  | .flit k kid g vc seq tagOk =>
    if (s.port k).state != .up || (!s.pod.en && (vc != 3 || kid != 0)) then .next s
    else if !tagOk || 4 ≤ vc || !s.bankOk k kid g then .next (s.badFlit k seq)
    else
      let s := match s.keyOf k kid false with
        | some x => s.putKey (x.count g 1)
        | none => s
      .next (s.setPort k { s.port k with bad := none, received := (s.port k).received + 1 })
  | _ => .next s

/-- IDLE_FLIT: nothing has been sent for 1 µs (R62). -/
def execIdleFlit (s : State) : Out :=
  match s.arg with
  | .unit k =>
    if (s.port k).state != .up then .next s
    else
      .next (((s.flits k 0 1).setPort k { s.port k with idle := (s.port k).idle + 1 }).send .idleFlit [k])
  | _ => .next s

/-- REKEY_START: port, key identifier, direction (1 sent): the counter in use has reached 2^40. -/
def execRekeyStart (s : State) : Out :=
  match s.arg with
  | .triple k kid out =>
    match s.keyOf k kid (out == 1) with
    | none => .next s
    | some x =>
      if x.step != 0 then .next s
      else
        let x := x.setBank x.gen ((x.bank x.gen).map (fun b => { b with counter := max b.counter (2 ^ 40) }))
        .next ((s.putKey { x with step := 1 }).send .rekey [k, kid, out])
  | _ => .next s

/-- Install a key in one direction: in the inactive bank, to which G flips; the first key of all takes bank 0. -/
def LinkKey.install (x : LinkKey) (b : Bank) : LinkKey :=
  if 2 ≤ x.step then { x with next := some b }
  else if x.b0.isNone && x.b1.isNone then { x with b0 := some b, gen := false, step := 0 }
  else { x.setBank (!x.gen) (some b) with gen := !x.gen, step := 2 }

/-- Which requests the negotiation so far allows, numbered as R31 lists them, GET_VERSION 0 to KEY_UPDATE 9. The order is
that of SPDM 1.2 (PRESUMED, log 71); link keys need a session (R31, R67). -/
def Spdm.allows (x : Spdm) (kind : Nat) : Bool :=
  if kind = 0 then true else if kind = 1 then x.version else if kind = 2 then x.caps else if kind ≤ 7 then !x.algs.isEmpty
  else if kind = 8 then x.exchanged else x.session

/-- KEY_UPDATE (Table 2-14, steps 1 and 2), in a session; one without a session is answered with ERROR (0x7F). -/
def execKeyUpdate (s : State) : Out :=
  match s.arg with
  | .key k kid key salt =>
    if !s.spdm.allows 9 then .next (s.send .spdm [0x7F, 9])
    else
      let put (s : State) (out : Bool) : State :=
        s.putKey (((s.keyOf k kid out).getD { port := k, kid := kid, out := out }).install { key := key, salt := salt })
      .next ((put (put s false) true).send .spdm [9])
  | _ => .next s

/-- The end of a rekey (step 4): the old bank is erased, and a second rekey may run. -/
def LinkKey.erase (x : LinkKey) : LinkKey :=
  if x.step != 2 then x
  else
    let x := { x.setBank (!x.gen) none with step := 0, next := none }
    x

/-- REKEY_BANK_ERASE: every flit sent under the old bank has been acknowledged. -/
def execRekeyBankErase (s : State) : Out :=
  match s.arg with
  | .pair k kid =>
    let one (s : State) (out : Bool) : State :=
      match s.keyOf k kid out with
      | none => s
      | some x =>
        let y := x.erase
        s.putKey (match x.next with
          | some b => if x.step = 2 then y.install b else y
          | none => y)
    .next (one (one s false) true)
  | _ => .next s

/-! ## Snoops that this package's slices answer (R47, R48) -/

/-- The new state of a held line (0 I, 1 S, 2 E, 3 O, 4 M). BISnpCur leaves O as it is; the spec gives it for no other state,
and M goes to O with it (DESIGN CHOICE, log 74). -/
def Snoop.next (k : Snoop) (st : Nat) : Nat :=
  match k with
  | .cur => if st = 4 then 3 else st
  | .data => if 3 ≤ st then 3 else 1
  | .inv => 0

/-- Answer a snoop of the home of module m: 0 not held, 1 held, 2 held with dirty data; the data of a dirty line, or of one that
BISnpCur asks for, is forwarded. No write-back of this package is ever in flight at a snoop: the home has taken it. -/
def State.answerSnoop (s : State) (k : Snoop) (m line : Nat) : State :=
  match s.myHead m with
  | none => s
  | some h =>
    let a := modPpa m (64 * line)
    let s := s.flits h 0 32
    match s.l2Find (lineOf a) with
    | none => (s.send .snoopAnswer [m, line, 0]).snoopAnswered m line h 0
    | some x =>
      let dirty : Bool := 3 ≤ x.st
      let data := if dirty || k == .cur then s.readN a 64 else []
      let n := k.next x.st
      let s := if n = 0 then s.l2Drop x.line else s.l2Put { x with st := n }
      (s.send .snoopAnswer [m, line, if dirty then 2 else 1, n] data).snoopAnswered m line h (if dirty then 2 else 1)

/-- What a line's write-back, or a forwarded dirty line, brings (R70): its bytes and its sideband of 16 bytes, if it is sealed. -/
def State.takeLine (s : State) (m line : Nat) (data : List Byte) : State :=
  let a := modPpa m (64 * line)
  let b := data.drop 64
  let q : Seal := if b.length = 16 then { iv := [0, m, line, fieldOf b 0 4], tag := BitVec.ofNat 96 (fieldOf b 4 12) } else {}
  if 64 ≤ data.length then (s.poke a (data.take 64)).setSeal (lineOf a) q else s

/-- The sideband of a line, as it goes with the line (R70). -/
def sideband (q : Seal) : List Byte :=
  match q.iv with
  | _ :: _ :: _ :: v :: _ => bytesOf 4 v ++ bytesOf 12 q.tag.toNat
  | _ => []

/-- A snoop of a module that this package is attached to; or the answer of another head to a snoop of a home, with a dirty
line's data. -/
def State.snoopEvent (s : State) (k : Snoop) : State :=
  match s.arg with
  | .pair m line => if s.pod.en then s.answerSnoop k m line else s
  | .snooped m line head ans data =>
    if (s.module m).snoops.any (fun q => q.line == line && q.head == head && q.kind == k) then
      (if ans = 2 then s.takeLine m line data else s).snoopAnswered m line head ans
    else s
  | _ => s

def execBisnpcur (s : State) : Out := .next (s.snoopEvent .cur)
def execBisnpdata (s : State) : Out := .next (s.snoopEvent .data)
def execBisnpinv (s : State) : Out := .next (s.snoopEvent .inv)

/-! ## The home of a direct module (Table 2-9) -/

/-- The home answers a request of another head: 1 S, 2 E, 4 M, 0 I; 5 an atomic's old value, 6 a queue's result. -/
def State.homeAnswer (s : State) (m line head kind : Nat) (bad : Bool) (data : List Byte) : State :=
  s.send .homeAnswer [m, line, head, kind, if bad then 1 else 0] data

/-- The operands of a request at a home: of one that arrives, or of one that waits there; and whether it waits. -/
def State.homeArg (s : State) (i : Instr) : EventArg × Bool :=
  match s.arg with
  | .queued m id =>
    (match (s.module m).reqs.find? (fun r => r.id == id) with
     | some r =>
       (match r.who with
        | .event j a => (if j = i then a else .none, true)
        | _ => (.none, true))
     | none => (.none, true))
  | a => (a, false)

/-- A request waits behind those received before it (R46). -/
def State.homeEnqueue (s : State) (m : Nat) (who : ReqWho) (lines : List Nat) : State :=
  let x := s.module m
  s.setModule m { x with reqs := x.reqs ++ [{ id := x.nextReq, who := who, lines := lines }], nextReq := x.nextReq + 1 }

/-- A request of another head, which acts once the home may: `go` is given whether dirty data was forwarded. -/
def State.homeAsk (s : State) (i : Instr) (m head : Nat) (lines : List Nat) (w : HomeWant) (go : Bool → State → State) : State :=
  let (a, waits) := s.homeArg i
  if (s.module m).failed then s
  else if !waits && (s.module m).reqs.any (fun r => r.who == .event i a) then s.homeEnqueue m (.event i a) lines
  else
    match s.homeTry m (.event i a) head lines w with
    | (none, s) => s
    | (some dirty, s) => go dirty s

/-- The owner of a slot that has ended reads the slot's trailer, which frees the slot (R85). -/
def State.freeRead (s : State) (m head line : Nat) : State :=
  let x := s.module m
  if x.slots.isEmpty then s
  else s.setModule m { x with slots := x.slots.filter (fun r =>
    !(r.state != 0 && r.owner == head && lineOf (r.landing + r.outBytes) == line)) }

/-- The line goes to the requester, with its sideband. -/
def State.homeGive (s : State) (m line head kind : Nat) : State :=
  let a := modPpa m (64 * line)
  (s.homeAnswer m line head kind (s.poisoned a 64) (s.readN a 64 ++ sideband (s.sealOf (lineOf a)))).freeRead m head line

def execHomeReadShared (s : State) : Out :=
  match (s.homeArg .homeReadShared).1 with
  | .home m line head _ =>
    .next (s.homeAsk .homeReadShared m head [line] .shared fun _ s =>
      s.homeGive m line head (if (s.dirAt m line).owner = some head then 2 else 1))
  | _ => .next s

def execHomeReadOwn (s : State) : Out :=
  match (s.homeArg .homeReadOwn).1 with
  | .home m line head _ =>
    .next (s.homeAsk .homeReadOwn m head [line] .own fun dirty s => s.homeGive m line head (if dirty then 4 else 2))
  | _ => .next s

/-- Write-back: memory takes the data, and the home goes to I, or to S with sharers. It is the data of a snoop that it met
(R48), so it waits for no request. -/
def State.homeBack (s : State) (m line head : Nat) (data : List Byte) : State :=
  let d := s.dirAt m line
  if (s.module m).failed || d.owner != some head then s
  else (((s.takeLine m line data).setDir m line { sharers := d.sharers }).snoopOver m line head true).homeAnswer m line head 0 false []

def execHomeWriteBack (s : State) : Out :=
  match s.arg with
  | .home m line head data => .next (s.homeBack m line head data)
  | _ => .next s

def execHomeCleanEvict (s : State) : Out :=
  match s.arg with
  | .home m line head _ =>
    .next (if (s.module m).failed then s else (s.setDir m line ((s.dirAt m line).clear head)).snoopOver m line head false)
  | _ => .next s

/-! ## Far atomics (R49) and module queues (R52, R444) -/

/-- An atomic at the home: the old value, and whether the line is poisoned, or sealed for another, in which case it is not
performed (R71, R138). -/
def State.homeAtomic (s : State) (m off n aop x cmp : Nat) : List Byte × Bool × State :=
  let a := modPpa m off
  let old := s.readN a n
  if s.poisoned a n || s.sealsIn a n then (old, true, s) else (old, false, s.poke a (bytesOf n (atomicNew aop n (ofBytes old) x cmp)))

/-- FAR_ATOMIC of another head. -/
def execFarAtomic (s : State) : Out :=
  match (s.homeArg .farAtomic).1 with
  | .atomic m off head size aop x cmp =>
    if 5 ≤ size || 13 ≤ aop || off % 2 ^ size ≠ 0 then .next s
    else
      .next (s.homeAsk .farAtomic m 16 [off / 64] .clear fun _ s =>
        let (old, bad, s) := s.homeAtomic m off (2 ^ size) aop x cmp
        s.homeAnswer m (off / 64) head 5 bad old)
  | _ => .next s

/-- A queue operation of another head. -/
def State.queueEvent (s : State) (i : Instr) (enq : Bool) : State :=
  match (s.homeArg i).1 with
  | .queue m off head n entry =>
    s.homeAsk i m 16 (s.queueLines m off) .clear fun _ s =>
      let (r, b, s) := s.queueOp m off n enq entry
      s.homeAnswer m (off / 64) head 6 false (bytesOf 1 r ++ b)
  | _ => s

def execModuleQueueEnqueue (s : State) : Out := .next (s.queueEvent .moduleQueueEnqueue true)
def execModuleQueueDequeue (s : State) : Out := .next (s.queueEvent .moduleQueueDequeue false)

end Sys2Proof.Machine
end

