-- ==== Sys2Proof/Machine/Slots.lean ====
section
/-!
DEFINITION. Reductions in a module (03 R85 to R95), and what a package does with their results and with arrivals
(R81 to R84, R98 to R101).
-/
namespace Sys2Proof.Machine

/-! ## The contribution header (Table 3-5a) -/

/-- Status words: DONE, CHECKSUM, LINK_LOST, UNMATCHED_SPILL, BUSY, FAULT. -/
def stDone : Nat := 0
def stFault : Nat := 0x10
def stChecksum : Nat := 0x13
def stLinkLost : Nat := 0x14
def stSpill : Nat := 0x15
def stBusy : Nat := 0x16

def redHeader (op wire : Nat) (isPart : Bool) (owner mask elems landing : Nat) : List Byte :=
  bytesOf 1 op ++ bytesOf 1 wire ++ bytesOf 1 (if isPart then 1 else 0) ++ bytesOf 1 owner ++ bytesOf 2 mask ++ bytesOf 2 elems
    ++ bytesOf 8 landing ++ List.replicate 48 0

def headerBad (h : List Byte) : Bool :=
  h.length != 64 || 3 ≤ fieldOf h 0 1 || 6 ≤ fieldOf h 1 1 || 2 ≤ fieldOf h 2 1 || 16 ≤ fieldOf h 3 1 || 2 ^ 50 ≤ fieldOf h 8 8
    || fieldOf h 16 48 != 0

/-- A new slot with the parameters of a header. -/
def RedSlot.ofHeader (ident : Nat) (h : List Byte) : RedSlot where
  ident := slotKey ident
  op := fieldOf h 0 1
  wire := fieldOf h 1 1
  isPart := fieldOf h 2 1 == 1
  mask := fieldOf h 4 2
  elems := fieldOf h 6 2
  landing := fieldOf h 8 8
  owner := fieldOf h 3 1

def RedSlot.sameParams (x y : RedSlot) : Bool :=
  x.op == y.op && x.wire == y.wire && x.isPart == y.isPart && x.mask == y.mask && x.elems == y.elems && x.landing == y.landing
    && x.owner == y.owner

/-- Whether a contribution is a chunk of X48 records (R82). -/
def RedSlot.x48In (x : RedSlot) (contrib : Nat) : Bool := x.isPart && identStep x.ident = 2 && contrib != 15

/-! ## A contribution at a module (R85, R90) -/

/-- A check of a slot fails: the error record goes to the owner head and the blamed head (R94). -/
def State.failSlot (s : State) (m : Nat) (x : RedSlot) (blamed code ident carried computed : Nat) : State :=
  let r := errorRecord m blamed 0xFF code (identStep x.ident) ident carried computed 0
  let s := s.stopSlot m x 2 stChecksum
  s.postAll m (if blamed = x.owner || blamed = 0xFF then [x.owner] else [x.owner, blamed]) r

/-- Every expected contributor has arrived: the result goes to the landing position unless ADDER or ROUND fails (R89, R90).
Those blame the module's reduction engine, which is no head (R95); which words their records hold is not stated (DESIGN
CHOICE, log 65). -/
def State.finishSlot (s : State) (m : Nat) (x : RedSlot) : State :=
  let arrivals := (List.range 16).filterMap (fun k => x.arrivals.find? (fun a => a.1 == k))
  let rows := arrivals.map (fun a => redInputs x.wire (identOrigin a.2.1) x.elems (x.x48In a.1) a.2.2)
  let words := arrivals.map (fun a => chunkCksum x.wire x.elems (x.x48In a.1) a.2.2)
  let x48 := x.isPart && identStep x.ident = 1
  let out := redChunk x.op x.wire x.elems x48 rows
  let ck := chunkCksum x.wire x.elems x48 out
  let (res, sum, adder) := adderTest x.op x.wire x.elems x48 rows words out
  if !adder then s.failSlot m x 0xFF 2 x.outIdent res sum
  else if !roundTest x.op x.wire x.elems x48 rows out then s.failSlot m x 0xFF 3 x.outIdent res ck
  else
    let s := s.poke (modPpa m x.landing) (out ++ trailer x.outIdent ck stDone x.arrived)
    (s.putSlot m { x with state := 1 }).notifySlot m x ck

/-- Slots of earlier attempts of the same chunk are freed (R85). -/
def RedSlot.stale (x : RedSlot) (ident : Nat) : Bool :=
  identCtx x.ident = identCtx ident && identColl x.ident = identColl ident && identIndex x.ident = identIndex ident
    && identAttempt x.ident < identAttempt ident

/-- Take a contribution into its slot. An arrival is kept with its chunk identity. A slot that needs a head which is lost
already ends at once (R92; DEDUCED, log 61). For DUPLICATE the record's carried or expected word is the first arrival's and the
computed one the second's (DESIGN CHOICE, log 79). -/
def State.accept (s : State) (m head ident cksum : Nat) (chunk : List Byte) (x : RedSlot) : Nat × State :=
  let k := identContrib ident
  match x.arrivals.find? (fun a => a.1 == k) with
  | some a =>
    let old := chunkCksum x.wire x.elems (x.x48In k) a.2.2
    if old = cksum || x.state ≠ 0 then (stDone, s) else (stDone, s.failSlot m x head 5 ident old cksum)
  | none =>
    let x := { x with arrivals := x.arrivals ++ [(k, ident, chunk)],
                      via := if k = head then x.via else insertNat head x.via }
    let s := s.putSlot m x
    if x.state ≠ 0 then (stDone, s)
    else
      let got := chunkCksum x.wire x.elems (x.x48In k) chunk
      if got ≠ cksum then (stDone, s.failSlot m x head 1 ident cksum got)
      else if (s.module m).lost.any (s.slotNeeds m x) then (stDone, s.stopSlot m x 3 stLinkLost)
      else if x.arrived = x.mask then (stDone, s.finishSlot m x) else (stDone, s)

/-- A contribution: the module's answer. -/
def State.contribute (s : State) (m head ident cksum : Nat) (header chunk : List Byte) : Nat × State :=
  let y := s.module m
  let k := identContrib ident
  let new := RedSlot.ofHeader ident header
  if headerBad header || !bitOf new.mask k
      || chunk.length != new.elems * (if new.x48In k then 48 else wireBytesOf new.wire) then (stFault, s)
  else
    let s := s.setModule m { y with slots := y.slots.filter (fun x => !x.stale ident) }
    let y := s.module m
    match y.slots.find? (fun x => x.ident == new.ident) with
    | some x =>
      if !x.sameParams new then (stFault, s) else s.accept m head ident cksum chunk x
    | none =>
      if 4096 ≤ (y.slots.filter (fun x => x.owner == new.owner)).length then (stBusy, s)
      else (s.setModule m { y with slots := y.slots ++ [new] }).accept m head ident cksum chunk new

/-! ## Answers to the contributions of this package (R86, R88) -/

def State.collOf (s : State) (ident : Nat) : Option Coll := s.pod.colls.find? (fun c => c.keyIs ident)

/-- The contribution that a chunk identity names. -/
def itemOf (ident : Nat) : Nat := 64 * identIndex ident + (if identStep ident = 2 then identContrib ident else 32)

/-- The answer to one contribution; `relay` is 0, or the relay's index + 1. -/
def State.contribAnswered (s : State) (ident st m relay : Nat) : State :=
  match s.collOf ident with
  | none => s
  | some c =>
    let k := itemOf ident
    let c := { c with sent := c.sent.filter (fun x => x != k) }
    s.setColl (if st = stDone then c else if st = stBusy then { c with busy := c.busy ++ [(k, m, relay)] }
      else if st = stLinkLost then c.failChunk (k / 64) true else { c with fault := true })

/-- MODULE_CONTRIBUTION. -/
def execModuleContribution (s : State) : Out :=
  match s.arg with
  | .contribution m head ident cksum header chunk =>
    if (s.module m).failed then .next s
    else
      let (st, s) := s.contribute m head ident cksum header chunk
      .next (if s.myHead m = some head then s.contribAnswered ident st m 0 else s.send .contributionAnswer [m, head, ident, st])
  | _ => .next s

/-- CONTRIBUTION_RETRY: 1 µs has passed since a BUSY answer. -/
def execContributionRetry (s : State) : Out :=
  match s.arg with
  | .pair id k =>
    match s.coll id with
    | none => .next s
    | some c =>
      if c.busy.any (fun x => x.1 == k) then
        .next (s.setColl { c with busy := c.busy.filter (fun x => x.1 != k), toSend := insertNat k c.toSend })
      else .next s
  | _ => .next s

/-! ## Sending (R80 to R83, R87, R101) -/

/-- The mask of the step-2 slot of a chunk. -/
def State.step2Mask (s : State) (c : Coll) : Nat :=
  (s.step1Slots c s.pod.pkg).foldl (fun n e => n ||| 2 ^ ((s.portOf e.1).getD 15)) (2 ^ 15)

/-- A chunk with its trailer. At STEP 0 and STEP 3, where no contributors arrive, the mask of those that arrived is 0 (DESIGN
CHOICE, log 79). -/
def withTrailer (data : List Byte) (ident cksum status : Nat) : List Byte := data ++ trailer ident cksum status 0

/-- A delivery of a chunk to a package reached by a trail is due (R59, R83). -/
def State.deliver (s : State) (c : Coll) (i dst landing ident cksum status : Nat) (data : List Byte) : State :=
  let d : RelayDesc := { kind := 4, src := s.pod.pkg, dst := dst, sealBit := c.sealBit, key := s.ctxKey c.ctx, len := data.length + 64,
                         target := landing, data := withTrailer data ident cksum status, ident := ident, cksum := cksum }
  s.setColl { c with due := c.due ++ [(128 * i + dst, d)] }

/-- A descriptor towards a package goes as PKGROUTE says (R55): its number; `none` while the region has no room; it stands on a
route that is lost, or not (`false`). -/
def State.routeRelay (s : State) (b ctx : Nat) (e : Ext) (d : RelayDesc) : Bool × Option Nat × State :=
  match s.pkgRoute b with
  | .trail p r => (true, s.sendRelay p r ctx e d)
  | .direct p => (true, s.sendRelay p b ctx e d)
  | .lost => (false, none, s)

/-- Send a delivery that is due; a full ring stalls it (R60). -/
def State.sendDue (s : State) (c : Coll) (x : Nat) (d : RelayDesc) : State :=
  let rest := c.due.filter (fun y => y.1 != x)
  match s.routeRelay d.dst c.ctx { id := 0, kind := .delivery c.id x, host := false, len := d.len, write := true } d with
  | (true, some _, s) => s.setColl { c with due := rest, toRelay := c.toRelay ++ [(x / 128, x % 128)] }
  | (true, none, s) => s
  | (false, _, s) => s.setColl ({ c with due := rest }.failChunk (x / 128) true)

/-- A direct contribution: one reduction message (R87); none while no tenant flit may be sent (R72). -/
def State.toModule (s : State) (ctx m head ident ck : Nat) (header data : List Byte) : Option State :=
  if !s.linkOk head ctx m then none
  else
    let s := s.flits head (s.linkKid ctx m) (128 + data.length)
    some { s with inbox := s.inbox ++ [(.moduleContribution, .contribution m head ident ck header data)] }

/-- A write of a collective into a module, sealed under the context's key where that is sealed there (R70). Only engines
reach the control area (R51), so no directory mark is asked for (DEDUCED, log 83). -/
def State.putModule (s : State) (ctx port m off : Nat) (bs : List Byte) : State :=
  (s.flits port (s.linkKid ctx m) bs.length).writePhys ctx (modPpa m off) bs

/-- A ready notification to some heads of a module, with both words of the chunk (R77, R83). -/
def State.sayReady (s : State) (port m heads pos ident ck : Nat) : State := (s.flits port 0 32).send .ready [m, heads, pos, ident, ck]

/-- Contribute a chunk to a step-1 slot. The plan of R80 names the slot; the routes of this moment carry the message. -/
def State.sendStep1 (s : State) (c : Coll) (i : Nat) (data : List Byte) : State :=
  let me := s.pod.pkg
  let o := c.owner i
  let c0 := { c with toSend := c.toSend.filter (fun x => x != 64 * i + 32) }
  match s.step1Target c me o with
  | none => s.setColl (c0.failChunk i true)
  | some (m, k, via) =>
    let ident := c.ident 1 k me i
    let ck := chunkCksum c.wire c.elems false data
    let mask := ((s.step1Slots c o).find? (fun e => e.1 == m)).elim 0 (fun e => e.2)
    let header := redHeader c.rop c.wire c.isPart ((s.headOf m o).getD 0) mask c.elems (c.landing i 1 0)
    let c1 := { c0 with sent := c0.sent ++ [64 * i + 32] }
    match via, s.pkgRoute o with
    | _, .lost => s.setColl (c0.failChunk i true)
    | none, .direct p => ((s.setColl c1).toModule c.ctx (s.port p).modid p ident ck header data).getD s
    | _, _ =>
      let d : RelayDesc := { kind := 1, src := me, dst := m, contrib := true, key := s.ctxKey c.ctx, len := 64 + data.length,
                             target := c.landing i 1 0, data := header ++ data, ident := ident, cksum := ck }
      match s.routeRelay o c.ctx { id := 0, kind := .contribution c.id (64 * i + 32), host := false, len := d.len, write := true } d with
      | (_, some _, s) => s.setColl c1
      | (_, none, s) => s

/-- A sealed contribution (R101): written to the STEP-0 position of the shared module, or delivered by the relay. -/
def State.sendSealed (s : State) (c : Coll) (i : Nat) (data : List Byte) : State :=
  let me := s.pod.pkg
  let o := c.owner i
  let c0 := { c with toSend := c.toSend.filter (fun x => x != 64 * i + 32) }
  let ck := chunkCksum c.wire c.elems false data
  match s.pkgRoute o with
  | .lost => s.setColl (c0.failChunk i true)
  | .direct p =>
    let m := (s.port p).modid
    let ident := c.ident 0 p me i
    let at' := c.landing i 0 p
    if !s.linkOk p c.ctx m then s
    else ((s.putModule c.ctx p m at' (withTrailer data ident ck stDone)).setColl c0).sayReady p m (2 ^ (s.headOf m o).getD 0) at' ident ck
  | .trail _ _ =>
    let k := ((s.step1Target c me o).map (fun t => t.2.1)).getD 15
    s.deliver c0 i o (c.landing i 0 k) (c.ident 0 k me i) ck stDone data

/-- Contribute to the step-2 slot: a step-1 result (its data and checksum word), or this package's own chunk. -/
def State.sendStep2 (s : State) (c : Coll) (i k ck : Nat) (data : List Byte) : State :=
  let c0 := { c with toSend := c.toSend.filter (fun x => x != 64 * i + k) }
  match c.second.bind (fun m => (s.myHead m).map (fun h => (m, h))) with
  | none => s.setColl (c0.ownerFail i true)
  | some (m, h) =>
    let header := redHeader c.rop c.wire c.isPart h (s.step2Mask c) c.elems (c.landing i 2 0)
    ((s.setColl { c0 with sent := c0.sent ++ [64 * i + k] }).toModule c.ctx m h (c.ident 2 k s.pod.pkg i) ck header data).getD s

/-! ## Results of slots (R82, R90, R93) -/

/-- The package finds that a chunk fails its READ check (R94). A delivery (0xFF) concerns no module: its record goes where one
of a LOCAL check goes, and blames no head (DEDUCED, log 64). -/
def State.readFailed (s : State) (m step ident carried computed : Nat) : State :=
  let h := (s.myHead m).getD 0xFF
  let (_, s) := s.nextSeq
  let (ts, s) := s.tstamp 0
  let r := errorRecord m h s.pod.pkg 4 step ident carried computed ts
  match if m = 0xFF then s.step2Module else some m with
  | none => s
  | some x =>
    match s.myHead x with
    | none => s
    | some k => s.postTo x k r

/-- The sealed reduction of this package fails its LOCAL check (R94, R95, R101): its record goes to the lowest UP port. Which
identity and words it holds is not stated (DESIGN CHOICE, log 65). -/
def State.localFailed (s : State) (ident expected computed : Nat) : State :=
  let (_, s) := s.nextSeq
  let (ts, s) := s.tstamp 0
  match s.step2Module.bind (fun x => (s.myHead x).map (fun k => (x, k))) with
  | none => s
  | some (x, k) => s.postTo x k (errorRecord 0xFF 0xFF s.pod.pkg 6 (identStep ident) ident expected computed ts)

/-- Read a chunk and its trailer at a physical address as the collective's context: its status, whether READ holds (a line
that is poisoned, or whose seal fails, breaks it: R71, R101), carried and computed words. Of a chunk whose status is not DONE the
trailer alone counts (R93). -/
def State.readChunk (s : State) (c : Coll) (a : Nat) (x48 : Bool) : Nat × Bool × Nat × Nat × List Byte :=
  let n := if x48 then c.elems * 48 else c.chunk
  let (t, tbad) := s.readPhys c.ctx (a + n) 64
  let (data, bad) := s.readPhys c.ctx a n
  let carried := fieldOf t 8 8
  let got := chunkCksum c.wire c.elems x48 data
  let st := trailerCode t
  (st, !tbad && (st != stDone || (carried == got && !bad)), carried, got, data)

/-- The chunk identity in a trailer. -/
def State.trailerIdent (s : State) (c : Coll) (a : Nat) (x48 : Bool) : Nat :=
  ofBytes ((s.readPhys c.ctx (a + if x48 then c.elems * 48 else c.chunk) 8).1)

/-- The owner reads a slot's result, which frees the slot (R85). -/
def State.freeSlot (s : State) (m ident : Nat) : State :=
  s.setModule m { s.module m with slots := (s.module m).slots.filter (fun x => x.ident != slotKey ident) }

/-- A step-1 result is passed to the step-2 slot; after the last one this package's own chunk follows. -/
def Coll.passStep1 (c : Coll) (i m k : Nat) : Coll :=
  let c := { c with step1 := c.step1.filter (fun x => x != (i, m)), toSend := insertNat (64 * i + k) c.toSend }
  if c.step1.any (fun x => x.1 == i) then c else { c with toSend := insertNat (64 * i + 15) c.toSend }

/-! ## Arrivals (R83, R98 to R101) -/

/-- Where an announced chunk lies: a module's landing position, or a delivery in local memory (DEDUCED, log 32). -/
def landedAt (m pos : Nat) : Nat := if m = 0xFF then pos else modPpa m pos

/-- An arrival that no collective waits for goes to the spill list, or is dropped (R98, R100). -/
def State.spill (s : State) (m pos ident : Nat) : State :=
  let x := s.pod
  if x.spillLog = 0 || 2 ^ x.spillLog ≤ x.spills.length then { s with pod := { x with spillOvf := true } }
  else
    let (ts, s) := s.tstamp 0
    let e : Spill := ⟨ident, pos, m, m == 0xFF, ts⟩
    let s := s.store (x.spillBase + 32 * x.spills.length) e.bytes
    { s with pod := { s.pod with spills := x.spills ++ [e] } }

/-- The owner is told of a slot's result: where it waits for it, it reads, checks and passes it on (R82, R90, R93). -/
def State.slotArrived (s : State) (c : Coll) (m landing ident : Nat) : State :=
  let i := identIndex ident
  let one := identStep ident = 1
  if !(if one then c.step1.contains (i, m) else c.step2.contains i) then s
  else
    let (st, ok, carried, got, _) := s.readChunk c (modPpa m landing) (c.isPart && one)
    let s := s.freeSlot m ident
    if !ok then (s.readFailed m (identStep ident) ident carried got).setColl (c.ownerFail i false)
    else if st ≠ stDone then s.setColl (c.ownerFail i (st == stLinkLost))
    else if one then s.setColl (c.passStep1 i m ((s.portOf m).getD 15))
    else s.setColl { c with step2 := c.step2.filter (fun x => x != i), toOwn := insertNat i c.toOwn }

/-- SLOT_NOTIFICATION. One whose collective is not in the receive table spills like a ready notification (DEDUCED, log 64). -/
def execSlotNotification (s : State) : Out :=
  match s.arg with
  | .notice m landing ident _ =>
    match s.collOf ident with
    | none => .next (s.spill m landing ident)
    | some c => .next (s.slotArrived c m landing ident)
  | _ => .next s

/-- A sealed contribution reaches the owner: it is opened and checked (R101). -/
def State.openSealed (s : State) (c : Coll) (m pos ident : Nat) : State :=
  let i := identIndex ident
  let p := identOrigin ident
  if !c.step1.contains (i, p) then s
  else
    let a := landedAt m pos
    let (st, ok, carried, got, data) := s.readChunk c a false
    if !ok then (s.readFailed m 0 ident carried got).setColl (c.ownerFail i false)
    else if st ≠ stDone then s.setColl (c.ownerFail i (st == stLinkLost))
    else s.setColl { c with step1 := c.step1.filter (fun x => x != (i, p)), held := c.held ++ [(i, p, data)] }

/-- READY_NOTIFICATION: a module (0xFF for a delivery), where the chunk landed, its identity. -/
def execReadyNotification (s : State) : Out :=
  match s.arg with
  | .notice m pos ident _ =>
    match s.collOf ident with
    | none => .next (s.spill m pos ident)
    | some c =>
      if identStep ident = 0 then .next (s.openSealed c m pos ident)
      else if c.toGet.contains (identIndex ident) && !c.ready.any (fun x => x.1 == identIndex ident) then
        .next (s.setColl { c with ready := c.ready ++ [(identIndex ident, m, pos)] })
      else .next s
  | _ => .next s

/-- The trailer that a receiver reads itself (R100): its chunk's identity, if it is that of chunk i at a step and its status
is valid. -/
def State.polled (s : State) (c : Coll) (a i step : Nat) : Option Nat :=
  let t := (s.readPhys c.ctx a 64).1
  let ident := fieldOf t 0 8
  let st := trailerCode t
  if c.keyIs ident && identStep ident = step && identIndex ident = i && (st == stDone || st == stChecksum || st == stLinkLost) then
    some ident
  else none

/-- What the owner of chunk i waits for: a step-1 result of module w, a sealed contribution of member w, or, for w = 128,
the step-2 result. -/
def State.pollOwner (s : State) (c : Coll) (i w : Nat) : State :=
  if c.sealBit then
    match s.step1Target c w s.pod.pkg with
    | none => s
    | some (_, k, via) =>
      let m := if via.isNone then s.sharedMod w s.pod.pkg else 0xFF
      let pos := c.landing i 0 k
      (match s.polled c (landedAt m pos + c.chunk) i 0 with
       | some ident => if identOrigin ident = w then s.openSealed c m pos ident else s
       | none => s)
  else
    let step := if w = 128 then 2 else 1
    let m := if w = 128 then c.second.getD 0 else w
    let pos := c.landing i step 0
    let n := if c.isPart && step = 1 then c.elems * 48 else c.chunk
    match s.polled c (modPpa m pos + n) i step with
    | some ident => s.slotArrived c m pos ident
    | none => s

/-- CHUNK_WAIT_TIMEOUT (R100): a collective's number and a chunk that a member waits for, or a chunk of its own and what its
owner waits for. -/
def execChunkWaitTimeout (s : State) : Out :=
  match s.arg with
  | .triple id i w =>
    match s.coll id with
    | none => .next s
    | some c => .next (s.pollOwner c i w)
  | .pair id i =>
    match s.coll id with
    | none => .next s
    | some c =>
      if !c.toGet.contains i || c.ready.any (fun x => x.1 == i) then .next s
      else
        let pos := c.landing i 3 0
        let m := if s.trailOf c.up s.pod.pkg (c.owner i) = some none then s.sharedMod s.pod.pkg (c.owner i) else 0xFF
        match s.polled c (landedAt m pos + c.chunk) i 3 with
        | some _ => .next (s.setColl { c with ready := c.ready ++ [(i, m, pos)] })
        | none => .next s
  | _ => .next s

end Sys2Proof.Machine
end

