-- ==== Sys2Proof/Machine/Relay.lean ====
section
/-!
DEFINITION. The relay engine (02 R53, R57 to R61; 03 R81, R88): the descriptors that this package takes from the request rings of its
modules, and performs or forwards.
-/
namespace Sys2Proof

/-- The key of a (source, destination) pair; destinations of kind 4 are packages. -/
def RelayDesc.pairKey (d : RelayDesc) : Nat := 256 * d.src + d.dst + (if d.kind = 4 then 128 else 0)

end Sys2Proof

namespace Sys2Proof.Machine

/-! ## Descriptors (R57, R58) -/

/-- The event that performs a descriptor, by its kind; one of a reserved kind is answered as a write would be. -/
def State.relayInstr (s : State) (d : RelayDesc) : Instr :=
  if d.kind = 2 then .relayRead
  else if d.kind = 3 then (if d.size = 5 then .relayQueueEnqueue else if d.size = 6 then .relayQueueDequeue else .relayFarAtomic)
  else if d.kind = 4 then (if d.dst = s.pod.pkg then .deliveryStore else .relayDelivery)
  else if d.contrib then .relayContribution else .relayWrite

/-- The oldest entry of a ring of a module; none when it is empty. -/
def State.ringHead (s : State) (m off : Nat) : Option (List Byte) :=
  let b := s.queueDesc m off
  if queueBad b || fieldOf b 24 8 ≤ fieldOf b 16 8 then none
  else some (s.readN (modPpa m (fieldOf b 0 8 + fieldOf b 16 8 % 2 ^ fieldOf b 8 1 * 64)) 64)

/-- The entries that a ring holds. -/
def State.ringCount (s : State) (m off : Nat) : Nat :=
  let b := s.queueDesc m off
  fieldOf b 24 8 - fieldOf b 16 8

/-- Data at PAYLOAD of a region, with the tags of its lines; none where no line is sealed. -/
def State.payloadAt (s : State) (m region payload n : Nat) : List Byte × List Seal :=
  let a := modPpa m (region + payload)
  (s.readN a n, if s.sealsIn a n then (linesOf a n).map s.sealOf else [])

/-- The oldest descriptor from head i of a module to this package, with its data. -/
def State.relayHead (s : State) (m i : Nat) : Option RelayDesc :=
  match s.myHead m with
  | none => none
  | some j =>
    (s.ringHead m (relayRegion i j + reqRing)).map (fun b =>
      let d := RelayDesc.parse b m i
      if d.malformed || d.carries ≤ 16 then { d with data := (b.drop 32).take (min 16 d.carries) }
      else
        let (data, tags) := s.payloadAt m (relayRegion i j) d.payload d.carries
        { d with data := data, tags := tags })

/-- The deliveries that this package has forwarded and not yet answered. -/
def State.forwards (s : State) : List RelayDesc :=
  s.pod.ext.filterMap (fun e =>
    match e.kind with
    | .forward d => some d
    | _ => none)

/-- Whether the engine can take one more descriptor from a region: it holds at most 512 (R53), and the response ring has room
for every answer that is owed (R60). -/
def State.relayRoom (s : State) (m i : Nat) : Bool :=
  let mine := s.pod.heldBack ++ s.forwards
  mine.length < 512 &&
    s.ringCount m (relayRegion i ((s.myHead m).getD 0) + respRing) + (mine.filter (fun d => d.via == m && d.head == i)).length < 1024

/-! ## Order (R59) -/

/-- The SEQ that is performed next. -/
def State.nextRelay (s : State) (d : RelayDesc) : Nat := Map.get 0 s.pod.seqIn d.pairKey

/-- A descriptor's turn has passed: it is performed now. -/
def State.takeRelay (s : State) (d : RelayDesc) : State :=
  { s with pod := { s.pod with seqIn := Map.set 0 s.pod.seqIn d.pairKey ((d.seq + 1) % 2 ^ 32),
                               heldBack := s.pod.heldBack.filter (fun x => x != d) } }

/-- Answer a descriptor in its turn. -/
def State.relayEnd (s : State) (d : RelayDesc) (status res : Nat) (data : List Byte) (tags : List Seal) : State :=
  (s.takeRelay d).answerRelay d status res data tags

/-- A descriptor that the engine holds, in its turn; a malformed one is answered FAULT (R58). -/
def State.relayTurn (s : State) (d : RelayDesc) (f : RelayDesc → State → State) : State :=
  if d.seq != s.nextRelay d then s
  else if d.malformed then s.relayEnd d stFault 0 [] []
  else f d s

/-- The descriptor of a relay event: the oldest from a head of a module, which the engine takes from its ring and holds; or one
that it holds. Nothing is relayed before EN is set (R38). -/
def State.relayEvent (s : State) (i : Instr) (f : RelayDesc → State → State) : Out :=
  if !s.pod.en then .next s
  else
    match s.arg with
    | .pair m h =>
      (match s.relayHead m h with
       | none => .next s
       | some d =>
         if s.relayInstr d ≠ i || !s.relayRoom m h then .next s
         else
           let (_, _, s) := s.queueOp m (relayRegion h ((s.myHead m).getD 0) + reqRing) 64 false []
           .next (({ s with pod := { s.pod with heldBack := s.pod.heldBack ++ [d] } } : State).relayTurn d f))
    | .relay d => .next (if s.pod.heldBack.contains d && s.relayInstr d = i then s.relayTurn d f else s)
    | _ => .next s

/-! ## The target (R50) -/

/-- Perform a descriptor of kind 1 to 3, on some lines of a module that this package reaches directly, once the home may act. -/
def State.relayModule (s : State) (d : RelayDesc) (lines : List Nat) (w : HomeWant) (go : State → State) : State :=
  if (s.myHead d.dst).isNone then s.relayEnd d stLinkLost 0 [] []
  else if (s.module d.dst).failed then s
  else
    match s.homeTry d.dst (.relay d) 16 lines w with
    | (none, s) => s
    | (some _, s) => go s

/-- The lines of a range of a module. -/
def modLines (off n : Nat) : List Nat := linesOf off n

/-- Bytes from a relay enter a module: sealed lines with their tags, as they came (R61); plain bytes are merged, but not into
a line that is sealed, which is then poisoned (R71). -/
def State.relayStore (s : State) (a : Nat) (data : List Byte) (tags : List Seal) : State :=
  if !tags.isEmpty then s.putPayload a data tags
  else
    (linePieces a data.length).foldl (fun s p =>
      let bs := (data.drop (p.1 - a)).take p.2
      if p.2 = 64 then (s.poke p.1 bs).setSeal (lineOf p.1) {}
      else if s.sealsIn p.1 p.2 then s.poisonLines [lineOf p.1]
      else s.poke p.1 bs) s

/-- RELAY_WRITE: every holder is invalidated before the bytes are merged. -/
def execRelayWrite (s : State) : Out :=
  s.relayEvent .relayWrite fun d s => s.relayModule d (modLines d.target d.len) .clear fun s =>
    (s.relayStore (modPpa d.dst d.target) (d.data.take d.len) d.tags).relayEnd d stDone 0 [] []

/-- RELAY_READ through the directory; poisoned data is answered FAULT (DEDUCED, log 31). -/
def execRelayRead (s : State) : Out :=
  s.relayEvent .relayRead fun d s => s.relayModule d (modLines d.target d.len) .relayRead fun s =>
    let a := modPpa d.dst d.target
    s.relayEnd d (if s.poisoned a d.len then stFault else stDone) 0 (s.readN a d.len)
      (if s.sealsIn a d.len then (linesOf a d.len).map s.sealOf else [])

/-- RELAY_FAR_ATOMIC. -/
def execRelayFarAtomic (s : State) : Out :=
  s.relayEvent .relayFarAtomic fun d s => s.relayModule d [d.target / 64] .clear fun s =>
    let n := 2 ^ d.size
    let (old, bad, s) := s.homeAtomic d.dst d.target n d.aop (ofBytes (d.data.take n)) (ofBytes ((d.data.drop n).take n))
    s.relayEnd d (if bad then stFault else stDone) 0 old []

/-- A queue operation (R444): a malformed queue descriptor has result 3 (DEDUCED, log 31). -/
def State.relayQueue (s : State) (i : Instr) (enq : Bool) : Out :=
  s.relayEvent i fun d s => s.relayModule d (s.queueLines d.dst d.target) .clear fun s =>
    let (r, b, s) := s.queueOp d.dst d.target d.len enq (d.data.take d.len)
    s.relayEnd d stDone r b []

def execRelayQueueEnqueue (s : State) : Out := s.relayQueue .relayQueueEnqueue true
def execRelayQueueDequeue (s : State) : Out := s.relayQueue .relayQueueDequeue false

/-- RELAY_CONTRIBUTION: handed to the module unchanged; its answer, BUSY included, goes back (R88). -/
def execRelayContribution (s : State) : Out :=
  s.relayEvent .relayContribution fun d s => s.relayModule d [] .clear fun s =>
    let (st, s) := s.contribute d.dst ((s.myHead d.dst).getD 0) d.ident d.cksum (d.data.take 64) (d.data.drop 64)
    s.relayEnd d st 0 [] []

/-! ## Deliveries (R59, R60) -/

/-- RELAY_DELIVERY: forwarded on the next leg, with its SEQ; the source is answered once the destination has answered. While
the next leg has no room it stays held (R60). -/
def execRelayDelivery (s : State) : Out :=
  s.relayEvent .relayDelivery fun d s =>
    match s.pkgRoute d.dst with
    | .direct p =>
      (match s.sendRelayAs p d.dst 0 { id := 0, kind := .forward d, host := false, len := d.len, write := true } d with
       | (some _, s) => s.takeRelay d
       | (none, s) => s)
    | _ => s.relayEnd d stLinkLost 0 [] []

/-- DELIVERY_STORE at the destination: the landing offset is an address of local HBM (DEDUCED, log 32), in a plot that is not
being scrubbed (R231). -/
def execDeliveryStore (s : State) : Out :=
  s.relayEvent .deliveryStore fun d s =>
    if !hbmOk d.target || s.hartHole d.target then s.relayEnd d stFault 0 [] []
    else
      let data := d.data.take d.len
      let s := (pagesOf d.target data.length).foldl State.markDirty (s.relayStore d.target data d.tags)
      let s := s.relayEnd d stDone 0 [] []
      { s with inbox := s.inbox ++ [(.readyNotification, .notice 0xFF d.target d.ident d.cksum)] }

end Sys2Proof.Machine
end

