-- ==== Sys2Proof/Machine/Power.lean ====
section
/-!
DEFINITION. Reset levels and boot (01 R24 to R30), power and heat (R18 to R22, R34), the rollback counter (R29), SPDM and
the management endpoint (R31, R35).
-/
namespace Sys2Proof.Machine

/-! ## Resets (Table 1-4) -/

/-- The attachments of every UP port are lost to their modules. -/
def State.detach (s : State) : State :=
  ((List.range 9).filter (fun k => (s.port k).state == .up)).foldl (fun s k =>
    let m := (s.port k).modid
    let s := s.headLoss m k
    s.postAll m ((s.liveHeads m).filter (fun h => s.myHead m != some h)) (lossRecord 1 m k 0xFF 0)) s

def State.die (s : State) (k : Nat) : Die := Map.get {} s.power.dies k
def State.setDie (s : State) (k : Nat) (d : Die) : State := { s with power := { s.power with dies := Map.set {} s.power.dies k d } }

/-- Whether some cause holds a die in throttle. -/
def State.throttled (s : State) (k : Nat) : Bool :=
  (s.die k).hot || 2 ≤ (s.die k).fluxOver || s.power.over1ms || s.power.over1s || s.power.throtLow

/-- A die enters or leaves throttle; TRIP notes an entry. -/
def State.throttleDie (s : State) (k : Nat) : State :=
  let d := s.die k
  let t := s.throttled k
  let s : State := { s with power := { s.power with trip := s.power.trip || (t && !d.throttle) } }
  s.setDie k { d with throttle := t, recovering := d.recovering && !t }

def State.throttleAll (s : State) : State := (List.range 4).foldl (fun s k => s.throttleDie k) s

/-- Events from outside that a reset leaves waiting. -/
def State.outerEvents (s : State) : List (Instr × EventArg) :=
  s.inbox.filter (fun e => e.1 != .slotNotification && e.1 != .readyNotification && e.1 != .podRecordArrival)

/-- Every L2 line is written back and dropped, as a glade reset does it for the lines of its glade (R233). -/
def State.flushL2 (s : State) : State := s.l2.foldl (fun s x => s.evictLine x) s

/-- What every reset keeps: the fuses, flash and board record; memory outside the package; the modules; the level of
THROT_N, which holds every die in throttle while it is low (R20); and the model's own fields. -/
def State.resetBase (s : State) : State :=
  ({ State.reset with
    mem := s.mem, poison := s.poison, latent := s.latent,
    boot := { fuseRollback := s.boot.fuseRollback, fuseRevoked := s.boot.fuseRevoked, fuseKeys := s.boot.fuseKeys,
              fuseSecret := s.boot.fuseSecret, flash := s.boot.flash, eeprom := s.boot.eeprom,
              rollback := s.boot.fuseRollback },
    power := { throtLow := s.power.throtLow },
    pod := { modules := s.pod.modules, sealed := s.pod.sealed },
    tick := s.tick, inbox := s.outerEvents, outbox := s.outbox } : State).throttleAll

/-- Memory inside the package. -/
def inPackage (a : Nat) : Bool := ppaKind a == 0 || ppaKind a == 3

def State.clearPackage (s : State) : State :=
  { s with mem := s.mem.filter (fun c => !inPackage c.1), poison := s.poison.filter (fun l => !inPackage (64 * l)),
           latent := s.latent.filter (fun l => !inPackage (64 * l)) }

def State.coldReset (s : State) : State := s.flushL2.detach.resetBase.clearPackage

/-- A plot that FAILED stays so until a cold reset (Table 7-1; DEDUCED, log 70). -/
def State.failedPlots (s : State) : List (Nat × Plot) :=
  (s.plots.filter (fun p => p.2.st == .failed)).map (fun p => (p.1, { st := .failed }))

/-- A warm reset includes the reset of every glade (R24), so it writes the L2 back first. It keeps the fuse shadow, the keys
derived at the cold reset, the THERMTRIP_N latch and REFCNT. -/
def State.warmReset (s : State) : State :=
  let r := s.flushL2.detach.resetBase
  { r with boot := { r.boot with rollback := s.boot.rollback, idKey := s.boot.idKey, romAlias := s.boot.romAlias,
                                 thermtrip := s.boot.thermtrip, clocksStopped := s.boot.clocksStopped, powered := s.boot.powered },
           plots := s.failedPlots, quads := (s.quads.map (fun q => (q.1, q.2.cleared))).filter (fun q => q.2 != {}), now := s.now }

def execColdReset (s : State) : Out := .next s.coldReset
def execPerstNAssert (s : State) : Out := .next s.warmReset

/-- The device loses its power: its attachments end, and what its L2 held dirty is gone. -/
def execPwrgoodFall (s : State) : Out :=
  let s := s.detach
  .next { s with l2 := [], pod := { modules := s.pod.modules, sealed := s.pod.sealed }, boot := { s.boot with powered := false } }

/-- A write to RSTCTL (Table 1-8). -/
def State.rstctl (s : State) (v : Nat) : State := if bitsOf v 31 16 = 0xB19A && bitOf v 0 then s.warmReset else s

/-- What a write of 4 or 8 bytes brings to RSTCTL, on a halted device too (R28). -/
def rstctlOf (off : Nat) (data : List Byte) : Option Nat :=
  if off = 8 && (data.length = 4 || data.length = 8) then some (ofBytes (data.take 4)) else none

def execRstctlWarm (s : State) : Out :=
  match s.arg with
  | .write 0 off data => .next (((rstctlOf off data).map s.rstctl).getD s)
  | _ => .next s

/-! ## Boot (Tables 1-5 and 1-6) -/

/-- Where a slot lies in flash. -/
def slotBase (b : Bool) : Nat := if b then 0x800000 else 0

def Boot.read (b : Boot) (at' n : Nat) : List Byte := Map.getMany 0 b.flash at' n
/-- The body of the image whose header lies at an offset of the flash. -/
def Boot.bodyAt (b : Boot) (base : Nat) : List Byte := b.read (base + 4096) (ofBytes (b.read (base + 4) 4))
def Boot.body (b : Boot) (slot : Bool) : List Byte := b.bodyAt (slotBase slot)

/-- Why an image whose header lies at `base` is not accepted (CODE), 0 if it is (R28). `lost`: its flash cannot be read;
`room`: how long its body may be. Which code an image gets that fails several checks, and that a length, rollback counter or
key slot out of its range is a failure of the header, is the model's choice (DESIGN CHOICE, log 43). -/
def Boot.checkAt (b : Boot) (base room : Nat) (lost : Bool) : Nat :=
  let h := b.read base 4096
  let key := fieldOf h 13 1
  let sum := Config.sha384 (b.bodyAt base)
  if lost then 4
  else if fieldOf h 0 4 != 0x4C394657 || room < fieldOf h 4 4 || 64 < fieldOf h 12 1 || 3 < key || fieldOf h 14 2 != 0
      || (h.drop 160).any (fun x => x != 0) then 3
  else if ofBytes ((h.drop 16).take 48) != sum.toNat then 1
  else if !Config.ecdsaVerify (Map.get 0 b.fuseKeys key) (Config.sha384 (h.take 64)) ((h.drop 64).take 96) then 1
  else if bitOf b.fuseRevoked key then 7
  else if fieldOf h 12 1 < b.rollback then 2 else 0

def Boot.check (b : Boot) (slot lost : Bool) : Nat := b.checkAt (slotBase slot) 0x7FF000 lost

/-- Where the header of stage 2 lies in the flash, within its slot. -/
def Boot.stage2Base (b : Boot) : Nat := slotBase b.slot + 4096 + Config.stage2Offset (b.body b.slot)

/-- Stage 1 checks stage 2 under the rules of a slot, within the slot that stage 1 came from (R28). -/
def Boot.checkStage2 (b : Boot) (lost : Bool) : Nat :=
  b.checkAt b.stage2Base (slotBase b.slot + 0x800000 - (b.stage2Base + 4096)) lost

/-- Boot ends in a halt (R28). -/
def Boot.halt (b : Boot) (code : Nat) : Boot := { b with phase := .halted, stage := 0xF, code := code }

/-- The fuse configuration, as bytes. -/
def Boot.fuseBytes (b : Boot) : List Byte :=
  bytesOf 1 b.fuseRollback ++ bytesOf 1 b.fuseRevoked ++ (List.range 4).flatMap (fun k => bytesOf 48 (Map.get 0 b.fuseKeys k).toNat)

/-- The ROM accepts a slot: identity and alias keys (R30), measurements (R31). The keys are derived at a cold reset; a warm
reset keeps the alias that the first accepted stage 1 gave, whatever stage 1 is accepted then (DESIGN CHOICE, log 70). -/
def Boot.acceptSlot (b : Boot) (slot : Bool) : Boot :=
  let h := b.read (slotBase slot) 64
  let one := Config.sha384 (b.body slot)
  let id := b.idKey.getD (Config.deriveKey b.fuseSecret 0)
  { b with phase := .stage1, stage := 1, slot := slot, keyslot := fieldOf h 13 1, imageCounter := fieldOf h 12 1,
           idKey := some id, romAlias := some (b.romAlias.getD (Config.deriveKey id one)),
           meas := [(1, Config.romDigest), (2, one), (4, Config.sha384 b.fuseBytes)] }

/-- The ROM tries slot A, then slot B. -/
def Boot.rom (b : Boot) (lostA lostB : Bool) : Boot :=
  let a := b.check false lostA
  if a = 0 then b.acceptSlot false
  else
    let b := { b with afail := true, code := a }
    let c := b.check true lostB
    if c = 0 then b.acceptSlot true else ({ b with bfail := true }).halt c

def State.setBoot (s : State) (b : Boot) : State := { s with boot := b }

/-- BOOT_ROM: bits 0 and 1 of its number say that slot A, or B, cannot be read. -/
def execBootRom (s : State) : Out :=
  match s.arg with
  | .unit k => .next (if s.boot.phase == .rom then s.setBoot (s.boot.rom (bitOf k 0) (bitOf k 1)) else s)
  | _ => .next s

/-- BOOT_STAGE1: the stacks that trained, and 0 or the CODE of another failure (R33). -/
def execBootStage1 (s : State) : Out :=
  match s.arg with
  | .pair hbm code =>
    let b := { s.boot with hbmok := hbm % 256 }
    .next (if b.phase != .stage1 then s
      else s.setBoot (if b.hbmok ≠ 0xFF then b.halt 5 else if code ≠ 0 then b.halt code else { b with phase := .stage2Load }))
  | _ => .next s

/-- BOOT_STAGE2_LOAD: bit 0 of its number says that stage 2 cannot be read from flash. -/
def execBootStage2Load (s : State) : Out :=
  match s.arg with
  | .unit k =>
    let b := s.boot
    let m := Config.sha384 (b.bodyAt b.stage2Base)
    let code := b.checkStage2 (bitOf k 0)
    .next (if b.phase != .stage2Load then s
      else if code ≠ 0 then s.setBoot (b.halt code)
      else s.setBoot { b with phase := .stage2, stage := 2, meas := b.meas ++ [(3, m)],
                              alias2 := b.romAlias.map (fun k => Config.deriveKey k m) })
  | _ => .next s

/-- The scrub of every plot (R25): those in a mask meet a fault that it cannot clear. A plot that was FAILED before a warm reset
stays so (DEDUCED, log 70). -/
def State.scrubAll (s : State) (bad : Nat) : State :=
  let s := s.clearPackage
  let keep (k : Nat) : Bool := (s.plot k).st == .failed || bitOf bad k
  let s : State := { s with l2 := [], rcache := [], imem := [], quads := [] }
  (List.range 32).foldl (fun s k => s.setPlot k { st := if keep k then .failed else .free }) s

/-- The board record (R35): a form of 4 bits; without a form there is no power limit (Table 1-11). -/
def Boot.readBoard (b : Boot) : Boot :=
  match b.eeprom with
  | some e =>
    let form := fieldOf e 4 1 % 16
    if fieldOf e 0 4 = 0x56424D39 then
      { b with form := form, brev := fieldOf e 5 1, bpower := if form = 0 then 0 else fieldOf e 6 2 }
    else b
  | none => b

/-- Every port starts its training, or stays OFF. -/
def State.trainPorts (s : State) : State :=
  (List.range 9).foldl (fun s k =>
    let p := s.port k
    s.setPort k (if p.mode = 3 || (s.pod.en && s.pod.order < k) then p.leave .off else p.train)) s

/-- BOOT_STAGE2: the plots whose scrub meets a fault it cannot clear. -/
def execBootStage2 (s : State) : Out :=
  match s.arg with
  | .pair bad _ =>
    if s.boot.phase != .stage2 then .next s
    else
      let s := (s.scrubAll bad).trainPorts
      .next (s.setBoot { s.boot.readBoard with phase := .ready, stage := 3, hartsStarted := true })
  | _ => .next s

/-- BOOT_READY. -/
def execBootReady (s : State) : Out :=
  .next (if s.boot.phase == .ready then s.setBoot { s.boot with phase := .done, stage := 4 } else s)

/-- CONFIGURATION_REQUEST: function and register; answered with 0 Retry Status, 1 the reduced space, 2 in full, 3 by no
function (R26, R28). -/
def execConfigurationRequest (s : State) : Out :=
  match s.arg with
  | .pair fn reg =>
    let how := if fn ≠ 0 then (if s.boot.phase == .done && (s.fn fn).en then 2 else 3)
      else if s.boot.phase == .done then 2 else if s.boot.phase == .halted then 1 else 0
    .next (s.send .config [fn, reg, how])
  | _ => .next s

/-! ## Sensors and limits (R20, R21, R34) -/

/-- The readings of a die's 64 sensors. -/
def State.dieHot (s : State) (k : Nat) : Bool := s.power.temps.any (fun t => t.1 / 64 = k && 100 ≤ t.2)

/-- THERMAL_SENSOR_READING: 115 °C or more stops all clocks (R21). -/
def execThermalSensorReading (s : State) : Out :=
  match s.arg with
  | .reading die sensor temp =>
    let s : State := { s with power := { s.power with temps := Map.set 0 s.power.temps (64 * die + sensor) temp } }
    let s := (s.setDie die { s.die die with hot := s.dieHot die }).throttleDie die
    .next (if temp < 115 then s
      else (s.setBoot { s.boot with thermtrip := true, clocksStopped := true }).send .thermtrip [])
  | _ => .next s

def execThrotNChange (s : State) : Out :=
  match s.arg with
  | .level high => .next ({ s with power := { s.power with throtLow := !high } } : State).throttleAll
  | _ => .next s

/-- HEAT_FLUX_WINDOW: die and W/cm² over 1 µs. -/
def execHeatFluxWindow (s : State) : Out :=
  match s.arg with
  | .pair die flux =>
    let d := s.die die
    .next ((s.setDie die { d with fluxOver := if 280 ≤ flux then min 2 (d.fluxOver + 1) else 0 }).throttleDie die)
  | _ => .next s

/-- PWRLIM_WINDOW_END; a write to PWRLIM takes effect as the next 1 ms window starts (R34). -/
def execPwrlimWindowEnd (s : State) : Out :=
  match s.arg with
  | .power long w =>
    let p := s.power
    let p := if long then { p with over1s := p.sust < w }
      else
        let (f, u) := p.pending.getD (p.fast, p.sust)
        { p with over1ms := p.fast < w, fast := f, sust := u, pending := none }
    .next ({ s with power := p } : State).throttleAll
  | _ => .next s

/-- A write to PWRLIM (Table 1-9). -/
def State.pwrlim (s : State) (v : Nat) : State :=
  let f := max 600 (min 2600 (bitsOf v 31 16))
  let u := max 600 (min 2100 (v % 65536))
  { s with power := { s.power with pending := some (f, u) } }

def execPwrlimWrite (s : State) : Out :=
  match s.writeOf 0x10 4 with
  | some v => .next (s.pwrlim v)
  | none => .next s

/-- The clock steps: 25 MHz each, from 800 MHz to 2.7 GHz. -/
def execClockStepDown (s : State) : Out :=
  match s.arg with
  | .unit k => .next (if (s.die k).throttle then s.setDie k { s.die k with clock := max 32 ((s.die k).clock - 1) } else s)
  | _ => .next s

def execThrottleExitTimer (s : State) : Out :=
  match s.arg with
  | .unit k => .next (if (s.die k).throttle then s else s.setDie k { s.die k with recovering := true })
  | _ => .next s

def execClockStepUp (s : State) : Out :=
  match s.arg with
  | .unit k =>
    let d := s.die k
    .next (if !d.recovering || d.throttle then s
      else s.setDie k { d with clock := min 108 (d.clock + 1), recovering := d.clock + 1 < 108 })
  | _ => .next s

/-! ## The rollback counter (R29) -/

/-- ROLLBACK_RAISE: the value asked for, and whether the request was authenticated. The resident runtime runs from boot step 4
on (Table 1-5). -/
def execRollbackRaise (s : State) : Out :=
  match s.arg with
  | .pair n auth =>
    let b := s.boot
    let runs : Bool := b.phase == .ready || b.phase == .done
    .next (if runs && auth = 1 && n ≤ b.imageCounter && b.fuseRollback < n && n ≤ 64 then
      s.setBoot { b with fuseRollback := n } else s)
  | _ => .next s

/-! ## SPDM (R31) and the management endpoint (R35) -/

/-- The endpoints answer once stage 2 has started, and not on a halted device. -/
def State.answers (s : State) : Bool := s.boot.phase == .stage2 || s.boot.phase == .ready || s.boot.phase == .done

/-- Answer an SPDM request of a kind with data; one out of order is answered with ERROR (0x7F). -/
def State.spdmSay (s : State) (kind : Nat) (x : Spdm) (data : List Byte) : State :=
  if !s.answers then s
  else if s.spdm.allows kind then ({ s with spdm := x } : State).send .spdm [kind] data
  else s.send .spdm [0x7F, kind]

/-- A request with its body. -/
def State.spdmEvent (s : State) (f : List Byte → State) : Out :=
  match s.arg with
  | .message body => .next (f body)
  | _ => .next s

/-- The signing key of attestation: the final alias. -/
def State.signKey (s : State) : BitVec 384 := s.boot.alias2.getD 0

/-- One measurement. -/
def State.measOf (s : State) (i : Nat) : List Byte :=
  bytesOf 48 (((s.boot.meas.find? (fun (m : Nat × BitVec 384) => m.1 == i)).map (fun (m : Nat × BitVec 384) => m.2)).getD 0).toNat

/-- The measurements a request asks for by its first byte (PRESUMED, log 71): index 1 to 4; 0 their number; 0xFF, or no byte,
all of them in order. -/
def State.measBytes (s : State) (body : List Byte) : List Byte :=
  match (body.head?.map (fun b => b.toNat)).getD 0xFF with
  | 0 => bytesOf 1 4
  | 0xFF => [1, 2, 3, 4].flatMap s.measOf
  | i => if i ≤ 4 then s.measOf i else []

/-- The algorithm set of R31, and its encoding in the answer. -/
def algSet : List Alg := [.ecdsaBrainpoolP384r1, .sha384, .aes256Gcm]
def Alg.code : Alg → Nat
  | .ecdsaBrainpoolP384r1 => 0
  | .sha384 => 1
  | .aes256Gcm => 2

def execGetVersion (s : State) : Out :=
  s.spdmEvent fun _ => s.spdmSay 0 { version := true } (bytesOf 2 0x0012)
/-- The answer names the requests that the device supports, by their numbers. -/
def execGetCapabilities (s : State) : Out :=
  s.spdmEvent fun _ => s.spdmSay 1 { s.spdm with caps := true } ((List.range 10).flatMap (bytesOf 1))
/-- brainpoolP384r1, SHA-384 and AES-256-GCM. -/
def execNegotiateAlgorithms (s : State) : Out :=
  s.spdmEvent fun _ => s.spdmSay 2 { s.spdm with algs := algSet } (algSet.flatMap (fun a => bytesOf 1 a.code))
def execGetDigests (s : State) : Out :=
  s.spdmEvent fun _ => s.spdmSay 3 s.spdm (bytesOf 48 (Config.sha384 Config.certificate).toNat)
def execGetCertificate (s : State) : Out :=
  s.spdmEvent fun _ => s.spdmSay 4 s.spdm Config.certificate
def execChallenge (s : State) : Out :=
  s.spdmEvent fun body => s.spdmSay 5 s.spdm (Config.ecdsaSign s.signKey (Config.sha384 body))
def execGetMeasurements (s : State) : Out :=
  s.spdmEvent fun body =>
    let m := s.measBytes body
    s.spdmSay 6 s.spdm (m ++ Config.ecdsaSign s.signKey (Config.sha384 (body ++ m)))
def execKeyExchange (s : State) : Out :=
  s.spdmEvent fun body => s.spdmSay 7 { s.spdm with exchanged := true } (Config.ecdsaSign s.signKey (Config.sha384 body))
def execFinish (s : State) : Out :=
  s.spdmEvent fun _ => s.spdmSay 8 { s.spdm with session := true } []

/-- BOARD_IDENTITY_MESSAGE: the data of BOARDID. -/
def execBoardIdentityMessage (s : State) : Out :=
  s.spdmEvent fun _ => if s.answers then s.send .management [s.boot.form, s.boot.brev, s.boot.bpower] else s

end Sys2Proof.Machine
end

