-- ==== Sys2Proof/Machine/Registers.lean ====
section
/-!
DEFINITION. The control windows (05 R143, R159; 01 Tables 1-7 to 1-11; 02 Tables 2-2 to 2-4, 2-12; 03 Tables 3-7, 3-8;
04 Tables 4-5, 4-7, 4-10 to 4-14; 05 Tables 5-5, 5-6, 5-12; 06 Tables 6-7 to 6-10; 07 Tables 7-2 to 7-7), their reads and
writes, and the accesses of service harts (R171, R172).
-/
namespace Sys2Proof.Machine

/-! ## Values of the 32-bit registers of the PF window -/

def bit (b : Bool) (i : Nat) : Nat := if b then 2 ^ i else 0

def Boot.stat (b : Boot) : Nat :=
  b.stage * 2 ^ 28 + b.code * 2 ^ 24 + bit b.slot 23 + bit b.afail 22 + bit b.bfail 21 + b.keyslot * 2 ^ 19 + b.hbmok * 2 ^ 8 + b.rollback

def Power.limit (p : Power) : Nat :=
  let (f, u) := p.pending.getD (p.fast, p.sust)
  f * 2 ^ 16 + u

def State.thrstat (s : State) : Nat :=
  let ds := (List.range 4).map s.die
  let p := s.power
  p.temps.foldl (fun m t => max m t.2) 0 * 2 ^ 24 + ds.foldl (fun m d => min m d.clock) 108 * 2 ^ 16 + bit p.trip 8
    + bit (ds.any (fun d => d.hot)) 4 + bit (ds.any (fun d => 2 ≤ d.fluxOver)) 5 + bit (p.over1ms || p.over1s) 6 + bit p.throtLow 7
    + (List.range 4).foldl (fun n k => n + bit (s.die k).throttle k) 0

def PortState.code : PortState → Nat
  | .off => 0
  | .training => 1
  | .up => 2
  | .down => 3
  | .refused => 4
  | .failed => 5

def Port.stat (p : Port) : Nat :=
  p.state.code * 2 ^ 28 + p.speed * 2 ^ 26 + bit p.x8 25 + bit p.ext 24 + p.modid * 2 ^ 16 + p.head * 2 ^ 12 + p.nheads * 2 ^ 8 + p.replay

def PlotSt.code : PlotSt → Nat
  | .free => 0
  | .joining => 1
  | .owned => 2
  | .leaving => 3
  | .firebreak => 4
  | .failed => 5

def Plot.stat (p : Plot) : Nat :=
  p.st.code * 2 ^ 28 + (if 1 ≤ p.st.code && p.st.code ≤ 3 then p.glade * 2 ^ 16 + p.seg * 2 ^ 8 else 0)

def GladeSt.code : GladeSt → Nat
  | .idle => 0
  | .check => 1
  | .evacuate => 2
  | .rehash => 3
  | .relocate => 4
  | .undo => 5

def State.glstat (s : State) (g : Nat) : Nat :=
  (s.gladeAt g).st.code * 2 ^ 28 + (s.gladeAt g).result * 2 ^ 24 + min 4095 (s.evac g) * 2 ^ 12 + bit (s.gladeAt g).svfull 11

/-- 32 version bits from a shadow buffer on (R120). -/
def State.verWord (s : State) (sb : Nat) : Nat := (List.range 32).foldl (fun n i => n + bit (s.version (sb + i)) i) 0

/-- A register in a bank: base, stride, count. -/
def bankAt (off base stride n : Nat) : Option Nat :=
  if base ≤ off && off < base + stride * n && (off - base) % stride = 0 then some ((off - base) / stride) else none

/-- Registers that stand alone. -/
def State.reg32One (s : State) (off : Nat) : Nat :=
  let x := s.xlat
  match off with
  | 0x0 => s.boot.stat
  | 0x10 => s.power.limit
  | 0x18 => s.thrstat
  | 0x28 => s.boot.form * 2 ^ 28 + s.boot.brev * 2 ^ 16 + s.boot.bpower
  | 0x80 => bit s.pod.en 31 + s.pod.order * 2 ^ 24 + s.pod.pkg * 2 ^ 8
  | 0x90 => min 65535 s.pod.spills.length * 2 ^ 16 + bit s.pod.spillOvf 8 + s.pod.spillLog
  | 0x228 => bit x.fqEn 31 + x.fqLogcap
  | 0x22C => x.fqHead.toNat
  | 0x230 => x.fqTail.toNat
  | 0x238 => bit x.dirtyEn 2 + bit x.dirtySel 1 + bit x.dirtyDrain 0
  | 0x23C => bit x.migEn 31 + x.migEpoch
  | 0x248 => x.remap.length * 2 ^ 16
  | 0x260 => bit s.host.svcEn 31 + s.host.svcLog
  | 0x264 => s.host.svcHead
  | 0x268 => s.host.svcTail
  | 0x300 => s.graph.reswait * 2 ^ 16 + s.graph.agestep
  | 0x304 => s.graph.limit * 2 ^ 16 + s.graph.remedy
  | 0x310 => bit s.graph.nspEn 31 + s.graph.nspLog
  | 0x314 => min 65536 s.onChip
  | 0x680 => s.savens
  | _ => 0

/-- A 32-bit register of the PF window; what is not there reads 0. -/
def State.reg32 (s : State) (off : Nat) : Nat :=
  match portctlAt off, bankAt off 0x108 16 9, bankAt off 0x400 4 128, bankAt off 0x600 4 32, bankAt off 0x1000 4 128,
    bankAt off 0x1200 4 128, bankAt off 0x3010 32 32, bankAt off 0x3014 32 32 with
  | some k, _, _, _, _, _, _, _ => bit (s.port k).x8ok 3 + (s.port k).mode
  | _, some k, _, _, _, _, _, _ => (s.port k).stat
  | _, _, some k, _, _, _, _, _ => s.verWord (32 * k)
  | _, _, _, some k, _, _, _, _ => (s.plot k).stat
  | _, _, _, _, some b, _, _, _ => Map.get 0 s.pod.pkgRoute b
  | _, _, _, _, _, some m, _, _ => Map.get 0 s.pod.modRoute m
  | _, _, _, _, _, _, some g, _ => s.glstat g
  | _, _, _, _, _, _, _, some g => (s.gladeAt g).slice * 2 ^ 16 + (s.gladeAt g).deadline
  | _, _, _, _, _, _, _, _ => s.reg32One off

/-! ## Values of the 64-bit registers -/

def plotMask (ks : List Nat) : Nat := ks.foldl (fun n k => n + 2 ^ k) 0

/-- A 64-bit register of the PF window by its offset. -/
def State.reg64 (s : State) (off : Nat) : Option Nat :=
  let x := s.xlat
  match bankAt off 0x2000 16 65, bankAt off 0x2008 16 65, bankAt off 0x3000 32 32, bankAt off 0x3008 32 32, bankAt off 0x3018 32 32 with
  | some f, _, _, _, _ => some ((s.fn f).cfg f)
  | _, some f, _, _, _ => some ((s.fn f).winbase + (s.fn f).wctx)
  | _, _, some g, _, _ =>
    some (plotMask (s.gladePlots g) + plotMask (s.plotsIn g .joining ++ s.plotsIn g .leaving) * 2 ^ 32)
  | _, _, _, some _, _ => some 0
  | _, _, _, _, some g => some ((s.gladeAt g).saveBase + (s.gladeAt g).saveLog)
  | _, _, _, _, _ =>
    match off with
    | 0x20 => some (s.now % 2 ^ 64)
    | 0x88 => some s.pod.spillBase
    | 0x200 => some x.ctxtBase
    | 0x208 => some x.sbtBase
    | 0x210 => some x.fqBase
    | 0x218 => some x.dirtyA
    | 0x220 => some x.dirtyB
    | 0x240 => some (x.invVpn * 2 ^ 28 + x.invCtx * 2 ^ 16 + x.invScope * 2 ^ 10 + bit x.invBusy 0)
    | 0x250 => some s.host.qctxBase
    | 0x258 => some s.host.svcBase
    | 0x308 => some s.graph.nspBase
    | _ => none

/-! ## A function's block (Table 5-6) -/

def State.fn32 (s : State) (f off : Nat) : Nat :=
  let x := s.fn f
  match off with
  | 0x00 => f * 2 ^ 16 + bit x.pause 1 + bit (x.en || f == 0) 0
  | 0x10 => bit x.ilen 31 + x.ilmod * 2 ^ 16 + x.illog
  | 0x14 => x.ilhead
  | 0x18 => x.iltail
  | 0x1C => x.ilgen
  | 0x20 => x.illost
  | _ => 0

/-- The 64-bit registers of a block but TSTAMP. -/
def State.fn64 (s : State) (f off : Nat) : Option Nat :=
  let x := s.fn f
  match off with
  | 0x08 => some x.ilbase
  | 0x30 => some x.tsscale
  | 0x38 => some x.tsoff
  | 0x40 => some x.tslast
  | 0x48 => some x.tspause
  | _ => none

/-! ## Reads (R143) -/

/-- The block that an offset names: a function's own, or, for the PF, the mirror; with the offset within it. -/
def blockAt (fn off : Nat) : Option (Nat × Nat × Bool) :=
  if 0x10000 ≤ off && off < 0x10100 then some (fn, off - 0x10000, false)
  else if fn = 0 && 0x40000 ≤ off && off < 0x40000 + 65 * 256 then some ((off - 0x40000) / 256, off % 256, true) else none

/-- n bytes at an offset of registers given by their 64-bit and 32-bit values. -/
def pickReg (wide : Nat → Option Nat) (word : Nat → Nat) (off n : Nat) : Nat :=
  match wide (off / 8 * 8) with
  | some v => if n = 8 then v else v / 2 ^ (8 * (off % 8)) % 2 ^ 32
  | none => if n = 8 then word off + word (off + 4) * 2 ^ 32 else word off

/-- A read of a control window that reaches it; none completes with Unsupported Request. A halted device shows only BOOTSTAT (R28). -/
def State.ctlRead (s : State) (fn off n : Nat) : Option Nat × State :=
  if !(n = 4 || n = 8) || off % n ≠ 0 then (none, s)
  else if s.halted then (some (if fn = 0 && off = 0 then s.boot.stat else 0), s)
  else
    match blockAt fn off with
    | some (f, o, _) =>
      if o / 8 * 8 = 0x28 then
        let (t, s) := s.tstamp f
        (some (if n = 8 then t else t / 2 ^ (8 * (o % 8)) % 2 ^ 32), s)
      else (some (pickReg (s.fn64 f) (s.fn32 f) o n), s)
    | none =>
      if fn ≠ 0 || 0x10000 ≤ off then (some 0, s)
      else
        let s := if off / 8 * 8 = 0x20 then s.passTime else s
        (some (pickReg s.reg64 s.reg32 off n), s)

/-! ## Writes -/

/-- LOGCAP as it is stored: within its range, or else a default. -/
def clampLog (v lo hi other : Nat) : Nat := if lo ≤ v && v ≤ hi then v else other

/-- A base register (R511): the new value, or the old one where a kind bit would be set. -/
def baseReg (old v : Nat) : Nat := if bitsOf v 59 57 = 0 then bitsOf v 59 12 * 4096 else old

def Xlat.fqctl (x : Xlat) (v : Nat) : Xlat :=
  { x with fqEn := bitOf v 31, fqLogcap := if x.fqEn then x.fqLogcap else clampLog (v % 32) 8 16 8 }
def HostIf.svcctl (x : HostIf) (v : Nat) : HostIf :=
  { x with svcEn := bitOf v 31, svcLog := if x.svcEn then x.svcLog else clampLog (v % 32) 6 10 6 }
def Graph.nspctl (x : Graph) (v : Nat) : Graph :=
  { x with nspEn := bitOf v 31, nspLog := if x.nspEn then x.nspLog else clampLog (v % 32) 10 22 10 }

/-- The RW bits of a route entry (Table 2-12). -/
def routeFields (v : Nat) : Nat := bitsOf v 31 30 * 2 ^ 30 + bitsOf v 27 24 * 2 ^ 24 + bitsOf v 22 16 * 2 ^ 16

/-- A 32-bit write to a register that stands alone. -/
def State.wr32One (s : State) (off v : Nat) : State :=
  match off with
  | 0x8 => s.rstctl v
  | 0x10 => s.pwrlim v
  | 0x18 => { s with power := { s.power with trip := s.power.trip && !bitOf v 8 } }
  | 0x80 => s.podcfgWrite v
  | 0x90 => { s with pod := { s.pod with spillOvf := s.pod.spillOvf && !bitOf v 8, spillLog := clampLog (v % 32) 10 20 0 } }
  | 0x228 => { s with xlat := s.xlat.fqctl v }
  | 0x22C => { s with xlat := { s.xlat with fqHead := BitVec.ofNat 32 v } }
  | 0x234 => s.fqreplay v
  | 0x238 => s.dirtyctl v
  | 0x23C => { s with xlat := { s.xlat with migEn := bitOf v 31, migEpoch := max 100 (v % 2 ^ 20) } }
  | 0x248 => s.sbrmctl v
  | 0x260 => { s with host := s.host.svcctl v }
  | 0x264 => { s with host := { s.host with svcHead := v % 2 ^ 32 } }
  | 0x300 => { s with graph := { s.graph with reswait := bitsOf v 31 16, agestep := max 1 (v % 65536) } }
  | 0x304 => { s with graph := { s.graph with limit := bitsOf v 31 16, remedy := max 1 (v % 65536) } }
  | 0x310 => { s with graph := s.graph.nspctl v }
  | 0x680 => { s with savens := max 1 (v % 65536) }
  | _ => s

/-- A 32-bit write to a register of the PF window. -/
def State.wr32 (s : State) (off v : Nat) : State :=
  match portctlAt off, bankAt off 0x1000 4 128, bankAt off 0x1200 4 128, bankAt off 0x3010 32 32, bankAt off 0x3014 32 32 with
  | some k, _, _, _, _ => s.portctl k v
  | _, some b, _, _, _ => { s with pod := { s.pod with pkgRoute := Map.set 0 s.pod.pkgRoute b (routeFields v) } }
  | _, _, some m, _, _ => { s with pod := { s.pod with modRoute := Map.set 0 s.pod.modRoute m (routeFields v) } }
  | _, _, _, some g, _ => s.setGlade g { s.gladeAt g with svfull := (s.gladeAt g).svfull && !bitOf v 11 }
  | _, _, _, _, some g => s.setGlade g { s.gladeAt g with slice := bitsOf v 31 16, deadline := max 1 (v % 65536) }
  | _, _, _, _, _ => s.wr32One off v

/-- GLSAVE: writes are ignored while the area holds an image. -/
def State.glsave (s : State) (g v : Nat) : State :=
  if bitsOf v 59 57 ≠ 0 || s.groups.any (fun x => x.2.glade == g && x.2.place == .saved) then s
  else s.setGlade g { s.gladeAt g with saveBase := bitsOf v 59 12 * 4096, saveLog := clampLog (v % 32) 4 14 0 }

/-- The fields of TLBINV by a 4-byte write (R118). -/
def State.tlbinvFields (s : State) (v : Nat) : State :=
  if s.xlat.invBusy then s
  else { s with xlat := { s.xlat with invVpn := bitsOf v 63 28, invCtx := bitsOf v 27 16, invScope := bitsOf v 11 10 } }

/-- The device structures' bases (Table 4-10 and the like). -/
def State.wrBase (s : State) (off v : Nat) : State :=
  let x := s.xlat
  match off with
  | 0x88 => if s.pod.spillLog = 0 then { s with pod := { s.pod with spillBase := baseReg s.pod.spillBase v } } else s
  | 0x200 => { s with xlat := { x with ctxtBase := baseReg x.ctxtBase v } }
  | 0x208 => { s with xlat := { x with sbtBase := baseReg x.sbtBase v } }
  | 0x210 => if x.fqEn then s else { s with xlat := { x with fqBase := baseReg x.fqBase v } }
  | 0x218 => if x.dirtyEn then s else { s with xlat := { x with dirtyA := baseReg x.dirtyA v } }
  | 0x220 => if x.dirtyEn then s else { s with xlat := { x with dirtyB := baseReg x.dirtyB v } }
  | 0x250 => { s with host := { s.host with qctxBase := baseReg s.host.qctxBase v } }
  | 0x258 => if s.host.svcEn then s else { s with host := { s.host with svcBase := baseReg s.host.svcBase v } }
  | 0x308 => if s.graph.nspEn then s else { s with graph := { s.graph with nspBase := baseReg s.graph.nspBase v } }
  | _ => s

/-- A write that leaves a 64-bit register of the PF window at `v`; `whole`: by one 8-byte write. -/
def State.wr64 (s : State) (off v : Nat) (whole : Bool) : State :=
  match bankAt off 0x2000 16 65, bankAt off 0x2008 16 65, bankAt off 0x3008 32 32, bankAt off 0x3018 32 32 with
  | some f, _, _, _ => s.fncfgWrite f v
  | _, some f, _, _ => s.setFn f { s.fn f with winbase := bitsOf v 63 16 * 65536, wctx := v % 4096 }
  | _, _, some g, _ => if whole then s.gladeCommand g v else s
  | _, _, _, some g => s.glsave g v
  | _, _, _, _ => if off = 0x240 then (if whole then s.tlbinv v else s.tlbinvFields v) else s.wrBase off v

/-- ILCTL (Table 5-6). -/
def Func.ilctl (x : Func) (v : Nat) : Func :=
  { x with ilen := bitOf v 31, ilmod := bitsOf v 25 16, illog := if x.ilen then x.illog else clampLog (v % 32) 6 16 6 }

/-- A 32-bit write to a function's block; `all`: through the mirror of a paused function. -/
def State.wrFn32 (s : State) (f off v : Nat) (all : Bool) : State :=
  let x := s.fn f
  match off with
  | 0x10 => s.setFn f (x.ilctl v)
  | 0x14 => s.setFn f { x with ilhead := v }
  | 0x18 => if all then s.setFn f { x with iltail := v } else s
  | 0x1C => if all then s.setFn f { x with ilgen := v } else s
  | 0x20 => if all then s.setFn f { x with illost := v } else s
  | _ => s

def State.wrFn64 (s : State) (f off v : Nat) (all : Bool) : State :=
  let x := s.fn f
  match off with
  | 0x08 => if x.ilen then s else s.setFn f { x with ilbase := bitsOf v 47 12 * 4096 }
  | 0x30 => if all then s.setFn f { x with tsscale := v } else s
  | 0x38 => if all then s.setFn f { x with tsoff := v } else s
  | 0x40 => if all then s.setFn f { x with tslast := v } else s
  | 0x48 => if all then s.setFn f { x with tspause := v } else s
  | _ => s

/-- Write 4 or 8 bytes over registers given by their 64-bit values and the two kinds of write. -/
def State.spreadWrite (s : State) (wide : Nat → Option Nat) (w64 : State → Nat → Nat → State) (w32 : State → Nat → Nat → State)
    (off : Nat) (data : List Byte) : State :=
  match wide (off / 8 * 8) with
  | some old => w64 s (off / 8 * 8) (merge64 old off data)
  | none =>
    if data.length = 8 then w32 (w32 s off (ofBytes (data.take 4))) (off + 4) (ofBytes (data.drop 4)) else w32 s off (ofBytes data)

/-- A write to a control window (R143): what has no register, or the wrong form, is dropped. -/
def State.ctlWrite (s : State) (fn off : Nat) (data : List Byte) : State :=
  let n := data.length
  if s.halted then (if fn = 0 then ((rstctlOf off data).map s.rstctl).getD s else s)
  else if fn = 0 && n = 64 then (if off = 0x280 then s.migWrite data else if off = 0x2C0 then s.svcReply data else s)
  else if !(n = 4 || n = 8) || off % n ≠ 0 then s
  else
    match blockAt fn off with
    | some (f, o, mirror) =>
      if mirror && !(s.fn f).pause then s
      else s.spreadWrite (s.fn64 f) (fun s o v => s.wrFn64 f o v mirror) (fun s o v => s.wrFn32 f o v mirror) o data
    | none =>
      if fn ≠ 0 || 0x10000 ≤ off then s
      else s.spreadWrite s.reg64 (fun s o v => s.wr64 o v (n == 8)) (fun s o v => s.wr32 o v) off data

/-- CONTROL_WINDOW_WRITE. -/
def execControlWindowWrite (s : State) : Out :=
  match s.arg with
  | .write fn off data => .next (if WinKind.control.reached fn off data.length true then s.ctlWrite fn off data else s)
  | _ => .next s

/-- TSTAMP_READ of a function; or a host read of any register, which is answered. -/
def execTstampRead (s : State) : Out :=
  match s.arg with
  | .unit f => .next (s.tstamp f).2
  | .read fn req off n =>
    .next (if !WinKind.control.reached fn off n false then s
      else s.afterPosted .tstampRead req fun s =>
        match s.ctlRead fn off n with
        | (some v, s) => s.send .completion [fn, req, 0, 0] (bytesOf n v)
        | (none, s) => s.send .completion [fn, req, 1, 0])
  | _ => .next s

/-! ## Registers as a target of device accesses -/

/-- A read, write or atomic of the PF window by a warp (DEDUCED, log 34): the bytes read, and whether the read is unsupported. -/
def State.mmio (s : State) (off n : Nat) (k : PKind) : List Byte × Bool × State :=
  match k with
  | .write bs => ([], false, s.ctlWrite 0 off bs)
  | _ =>
    match s.ctlRead 0 off n with
    | (none, s) => (List.replicate n 0, true, s)
    | (some v, s) =>
      match k with
      | .atomic _ _ _ => (bytesOf n v, false, s.ctlWrite 0 off (k.result n (bytesOf n v)))
      | _ => (bytesOf n v, false, s)

/-! ## Service harts (R170 to R172) -/

/-- What an access of a hart asks of its target. -/
def hartKind (kind aop len : Nat) (data : List Byte) : PKind :=
  if kind = 1 then .write (data.take len) else if kind = 2 then .atomic aop (ofBytes (data.take len)) 0 else .read

/-- A load of the cluster's own devices returns free bytes: what they hold is outside the spec (DESIGN CHOICE, log 1). -/
def State.hartLocal (s : State) (h len : Nat) : State :=
  ({ s with tick := s.tick + len } : State).hartDone h ((List.range len).map (fun i => Config.freeByte (s.tick + i)))

/-- An access that reaches a target. -/
def State.hartReach (s : State) (h len : Nat) (k : PKind) (t : HartTarget) : State :=
  match t with
  | .fault => s.hartBad h
  | .local => s.hartLocal h len
  | .ctl off =>
    let (b, bad, s) := s.mmio off len k
    if bad then s.hartBad h else s.hartDone h b
  | .phys a =>
    if s.hartHole a then s.hartBad h
    else
      match s.performPhys { ctx := 0, place := .phys a, len := len, kind := k, ext := .hart h, wkey := hartKey h } a with
      | (.done b bad, s) => if bad then s.hartBad h else s.hartDone h b
      | (.sent _, s) => s
      | (.blocked, s) => s
      | (_, s) => s.hartBad h

/-- Try the oldest access of a hart, unless it is on its way. A FENCE ends once every host page that the hart has written has been
flushed (R168, R172); an access that is not aligned takes its exception (PRESUMED, log 80). -/
def State.hartTry (s : State) (h : Nat) : State :=
  let x := s.hart h
  match x.busy with
  | .hart _ _ _ va _ len kind aop data :: _ =>
    if s.pod.ext.any (fun e => e.kind == .hart h) then s
    else if kind = 3 then
      if s.hostDirty.any (fun d => d.1 == hartKey h) then s.sendFlush (hartKey h)
      else if s.flushing (hartKey h) then s else s.hartDone h []
    else
      let w := kind = 1 || kind = 2
      if va % len ≠ 0 then s.hartFault h (if w then 6 else 4) 0
      else
        match s.hartXlat x va w with
        | .fault c g => s.hartFault h c g
        | .ok a => s.hartReach h len (hartKind kind aop len data) (hartTarget a)
  | _ => s

/-- Accesses that RV64GC has: 1, 2, 4 or 8 bytes, an AMO of 4 or 8. -/
def hartLegal (len kind aop : Nat) : Bool :=
  kind = 3 || ((len = 4 || len = 8) && kind = 2 && aop ≤ 8) || ([1, 2, 4, 8].contains len && (kind = 0 || kind = 1 || kind = 4))

/-- HART_ACCESS: an access of a hart, after those that it has made before; or one that waits is tried again. -/
def execHartAccess (s : State) : Out :=
  match s.arg with
  | .hart h _ _ _ _ len kind aop _ =>
    if 16 ≤ h || (h != 0 && !s.boot.hartsStarted) || !hartLegal len kind aop then .next s
    else
      let x := s.hart h
      let s' := s.setHart h { x with busy := x.busy ++ [s.arg] }
      .next (if x.busy.isEmpty then s'.hartTry h else s')
  | .unit h => .next (s.hartTry h)
  | _ => .next s

end Sys2Proof.Machine
end

