-- ==== Sys2Proof/Machine/Perform.lean ====
section
/-!
DEFINITION. A warp's accesses reach their points of performance (09 R269 to R286; 04 R138; 14 R419 to R424): when a part
may be performed, what performing it does, when a register is written, and when the operation ends.
-/
namespace Sys2Proof.Machine

/-! ## Order within a thread (R270, R274, R424) -/

/-- The parts by which an operation stands in the order of its threads, and whether they stand for every lane. -/
def Op.threadParts (o : Op) : Bool × List Part :=
  match o.body with
  | .access b => (b.uniform, o.parts)
  | .waitmem b => (true, [b.part])
  | _ => (true, [])

/-- A part that is still to be performed. -/
def Part.pending (p : Part) : Bool := p.state != .performed && p.state != .failed

/-- Whether a part has been translated, so that its place is known. -/
def Part.placed (p : Part) : Bool :=
  match p.state with
  | .parked _ => false
  | .queued _ => false
  | _ => true

def rangesMeet (a n b m : Nat) : Bool := a < b + m && b < a + n

/-- Whether two places share a byte. -/
def State.placesMeet (s : State) (p : Place) (n : Nat) (q : Place) (m : Nat) : Bool :=
  match p, q with
  | .scratch g a, .scratch h b => g == h && rangesMeet a n b m
  | .lanePriv g a, .lanePriv h b => g == h && rangesMeet a n b m
  | .mmio a, .mmio b => rangesMeet a n b m
  | p, q =>
    match s.placePpa p, s.placePpa q with
    | some a, some b => rangesMeet a n b m
    | _, _ => false

/-- Whether two parts, each of an operation on a space, have a location in common. -/
def State.partsMeet (s : State) (sp : Nat) (p : Part) (sq : Nat) (q : Part) : Bool :=
  (sp == sq && rangesMeet p.addr p.len q.addr q.len) || (p.placed && q.placed && s.placesMeet p.place p.len q.place q.len)

/-- Earlier parts of the same thread that are still to be performed and meet a test on (space, part). -/
def State.threadBefore (s : State) (o : Op) (p : Part) (test : Nat → Part → Bool) : Bool :=
  s.ops.any (fun x => x.owner == o.owner && x.id < o.id &&
    x.threadParts.2.any (fun q => q.pending && (o.threadParts.1 || x.threadParts.1 || q.lane == p.lane) && test x.space q))

/-- Whether the lanes of an operation act on a location one after another (R419). -/
def Op.laneOrder (o : Op) : Bool :=
  match o.body with
  | .access b => b.kind != .load
  | _ => false

/-- R274, R419: a part waits for the earlier parts of its thread at its location, and for lower lanes of its word. -/
def State.partBehind (s : State) (o : Op) (i : Nat) (p : Part) : Bool :=
  s.threadBefore o p (fun sp q => s.partsMeet o.space p sp q) ||
    (o.laneOrder && (o.parts.take i).any (fun q => q.pending && q.lane != p.lane && s.partsMeet o.space p o.space q))

/-- R270, R132: an access to an SO page waits for the earlier ones of its thread, a parked one among them. -/
def State.soBehind (s : State) (o : Op) (p : Part) : Bool :=
  o.space == 0 && p.ord == .so && s.threadBefore o p (fun sp q => sp == 0 && (q.ord == .so || !q.placed))

/-! ## Scopes (R421) -/

/-- The scope at which an access acts: at most group in C space, at most grove in V space. -/
def capScope (space scope : Nat) : Nat := if space = 1 then min scope 1 else if space = 2 then min scope 2 else scope

/-- The key under which the host pages that an operation writes are noted (R168). -/
def Op.hostKey (o : Op) : Nat :=
  match o.owner with
  | .warp g w => warpKey g w
  | .node id => nodeKey id

/-- Earlier covered accesses of the issuing warp are not performed (R279). -/
def State.relBlocked (s : State) (o : Op) : Bool :=
  match o.owner with
  | .warp g w => s.coveredBefore g w o.id
  | .node _ => false

/-- Wait for a flush of host pages: whether there is nothing to wait for; the flush is sent if it has not been (R168). -/
def State.flushed (s : State) (key : Nat) : Bool × State :=
  if s.hostDirty.any (fun h => h.1 == key) then (false, s.sendFlush key) else (!s.flushing key, s)

/-- Whether a part may be performed now (R270, R274, R279). -/
def State.partReady (s : State) (o : Op) (i : Nat) (p : Part) : Bool × State :=
  let rel := (o.ord == 2 || o.ord == 3) && p.ord != .uo
  if p.state != .waiting || s.partBehind o i p || s.soBehind o p || (rel && s.relBlocked o) then (false, s)
  else if (rel && capScope o.space o.scope == 5) || (o.space == 0 && p.ord == .so) then s.flushed o.hostKey
  else (true, s)

/-! ## One part -/

def State.updPart (s : State) (id i : Nat) (f : Part → Part) : State :=
  match s.op id with
  | none => s
  | some o =>
    match o.partAt i with
    | none => s
    | some p => s.setOp (o.setPart i (f p))

/-- The core that an operation's warp runs on. -/
def State.opCore (s : State) (o : Op) : Option Nat :=
  match o.owner with
  | .warp g _ =>
    (match (s.groupAt g).place with
     | .core c => some c
     | _ => none)
  | .node _ => none

/-- An atomic of a warp that changed memory: the issuing entry's iteration is not quiet (R255). -/
def State.noteWrite (s : State) (o : Op) : State :=
  match o.owner with
  | .warp g w => s.putWarp g w ((s.warpAt g w).noteWriteBy (lowestLane o.emask))
  | .node _ => s

/-- The request kind of a part. -/
def AccessBody.pkind (b : AccessBody) (p : Part) : PKind :=
  match b.kind with
  | .load => .read
  | .store => .write p.data
  | .atomic aop => .atomic aop p.x p.cmp

/-- A part has been performed with the bytes it read (R138: poisoned data is reported). -/
def State.partDone (s : State) (o : Op) (b : AccessBody) (i : Nat) (p : Part) (data : List Byte) (bad : Bool) : State :=
  let s := s.updPart o.id i (fun q => { q with state := .performed, data := data, poisoned := bad })
  let s := if bad then s.reportPart o p cUncorrectable false else s
  match b.kind with
  | .atomic _ => if !bad && (b.pkind p).result p.len data != data then s.noteWrite o else s
  | _ => s

/-- A part cannot be performed: it is reported. -/
def State.partFails (s : State) (o : Op) (i : Nat) (p : Part) (cause : Nat) : State :=
  (s.updPart o.id i (fun q => { q with state := .failed })).reportPart o p cause false

/-- R268, R420: whether a load may use the read cache of its core: not on SO, shadow, host, canopy, K-space and two-hop
pages, nor with `.NRC` or `.NAL`. -/
def State.cacheable (s : State) (b : AccessBody) (p : Part) : Bool :=
  b.kind == .load && b.policy != 1 && b.policy != 3 && p.ord != .so &&
    (match p.place with
     | .phys a => ppaKind a == 0 || (ppaKind a == 1 &&
         (match s.modRoute (modIndex a) with
          | .direct _ => true
          | _ => false))
     | _ => false)

/-- The copy that a load may take instead of the line (R268): only if `hit` chooses it. -/
def State.cacheHit (s : State) (o : Op) (b : AccessBody) (p : Part) (hit : Bool) : Option (List Byte) :=
  match s.opCore o, p.place with
  | some core, .phys a => if hit && s.cacheable b p then s.cached core (s.opCtx o) a p.len else none
  | _, _ => none

/-- A read by a group refreshes the copy that its core holds of the line, so that no thread of it reads anything older later
(R276); or it fills the line, if `fill` chooses it. A line that the context cannot read is not held. -/
def State.refreshCache (s : State) (core ctx a n : Nat) (fill : Bool) : State :=
  if (s.cached core ctx a n).isSome || fill then
    let (bs, bad) := s.readPhys ctx (64 * lineOf a) 64
    if bad then s.dropLine core ctx a else s.fillCache core ctx a bs
  else s

/-- What a performed part does to the read cache of its core: a write updates a copy; a read refreshes one, or fills a line. -/
def State.cacheAfter (s : State) (o : Op) (b : AccessBody) (p : Part) (bad fill : Bool) : State :=
  match s.opCore o, s.placePpa p.place with
  | some core, some a =>
    let ctx := s.opCtx o
    if b.kind != .load then s.updateCache core a (s.readPhys ctx a p.len).1
    else if bad then s
    else s.refreshCache core ctx a p.len (fill && s.cacheable b p)
  | _, _ => s

/-- The cause of a place that is gone: the segment of a K-space address (R215), or a shadow buffer (R121). -/
def Place.goneCause (p : Place) : Nat :=
  match p with
  | .kspace _ _ => cSpaceRange
  | _ => cFatalFault

/-- Perform one part of an access; `choice` says whether a cached copy is taken (bit 0) and whether a line is filled
(bit 1). -/
def State.performPart (s : State) (o : Op) (b : AccessBody) (i : Nat) (p : Part) (choice : Nat) : State :=
  match s.cacheHit o b p (bitOf choice 0) with
  | some data => s.partDone o b i p data false
  | none =>
    let k := b.pkind p
    match s.perform { ctx := s.opCtx o, place := p.place, len := p.len, kind := k, ext := .part o.id i, ord := p.ord,
                      alloc := b.policy != 3, wkey := o.hostKey, tlb := p.tlb } with
    | (.done data bad, s) => (s.cacheAfter o b p bad (bitOf choice 1)).partDone o b i p data bad
    | (.sent e, s) => s.updPart o.id i (fun q => { q with state := .sent e })
    | (.park code ppa, s) => s.parkPart o.id i code ppa
    | (.failed, s) => s.partFails o i p p.place.goneCause
    | (.denied, s) => s.partFails o i p cPermission
    | (.blocked, s) => s
    | (.mmio off, s) =>
      let (data, bad, s) := s.mmio off p.len k
      s.partDone o b i p data bad

/-! ## Results (R138, R252, R421) -/

/-- The parts of one lane's access. -/
def Op.lanePartsOf (o : Op) (l : Nat) : List Part := o.parts.filter (fun p => p.lane == l)

/-- Whether a lane's access has been performed, with data that may be written. -/
def Op.laneOk (o : Op) (l : Nat) : Bool := (o.lanePartsOf l).all (fun p => p.state == .performed && !p.poisoned)

/-- The datum of a lane, extended to its registers. -/
def Op.laneValue (o : Op) (b : AccessBody) (l : Nat) : Nat :=
  let v := ofBytes ((o.lanePartsOf l).flatMap (fun p => p.data))
  if b.bytes < 4 && b.sx then wrapNat 32 (sextInt (8 * b.bytes) v) else v

/-- The lanes of an access, each once. -/
def Op.lanesOf (o : Op) : List Nat := o.parts.foldl (fun ls p => insertNat p.lane ls) []

/-- The (lane, register) pairs of an access that has a result: those that wait to be written. -/
def Op.toWrite (o : Op) (b : AccessBody) : List (Nat × Nat) :=
  if b.kind == .store then []
  else (o.lanesOf.filter (fun l => o.laneOk l)).flatMap (fun l =>
    ((List.range (regsFor b.bytes)).filter (fun r => !b.wrote.contains (l, r))).map (fun r => (l, r)))

/-- Write one destination register. -/
def State.writeBack (s : State) (o : Op) (b : AccessBody) (l r : Nat) : State :=
  match o.owner with
  | .node _ => s
  | .warp g w =>
    let x : Word := BitVec.ofNat 32 (o.laneValue b l / 2 ^ (32 * r))
    let s := s.putWarp g w ((s.warpAt g w).putResult o.emask (if b.uniform then sKey (b.dst + r) else 32 * (b.dst + r) + l) x)
    s.setOp { o with body := .access { b with wrote := b.wrote ++ [(l, r)] } }

/-- An access that acts as an acquire does so when it ends (R272, R280). -/
def State.acquireOp (s : State) (o : Op) : State :=
  match o.owner with
  | .warp g _ =>
    if (o.ord == 1 || o.ord == 3) && o.parts.any (fun p => p.ord != .uo) then s.acquire g (capScope o.space o.scope) else s
  | .node _ => s

/-- An access with nothing left to do ends. An event node's access ends its node (R192). -/
def State.endAccess (s : State) (o : Op) (b : AccessBody) : State :=
  if o.parts.any Part.pending then s
  else
    match o.owner with
    | .warp _ _ => if (o.toWrite b).isEmpty then (s.acquireOp o).endOp o.id else s
    | .node id =>
      if o.parts.any (fun p => p.poisoned || p.state == .failed) then s.failStatus id 0x10 else (s.endOp o.id).publishNode id

/-- End an access that may have come to its end. -/
def State.tryEnd (s : State) (id : Nat) : State :=
  match s.op id with
  | none => s
  | some o =>
    match o.body with
    | .access b => s.endAccess o b
    | _ => s

/-- Answers from outside to an operation that is gone are discarded. -/
def State.dropExts (s : State) (id : Nat) : State :=
  s.forget (fun k => k.ofOps [id])

/-- An operation that was cancelled ends without effect (R204); its requests outside are forgotten. -/
def State.endCancelled (s : State) (o : Op) : State := (s.dropExts o.id).endOp o.id

/-! ## Waits that have their answer -/

/-- `BAR.WAIT` (R431): true is an acquire at the scope that the barrier had when the wait was issued (R287). -/
def State.endBarWait (s : State) (o : Op) (b : BarWaitBody) (x : Bool) : State :=
  match o.owner with
  | .warp g w =>
    let s := s.putWarp g w ((s.warpAt g w).setQ b.dreg x)
    (if x then s.acquire g o.scope else s).endOp o.id
  | .node _ => s.endOp o.id

/-- `CNTWAIT` (R378): status 0 is an acquire at chip scope (R379). -/
def State.endCntWait (s : State) (o : Op) (b : CntWaitBody) (st : Nat) : State :=
  match o.owner with
  | .warp g _ => (if st = 0 then s.acquire g 3 else s).endWith o b.dreg st
  | .node _ => s.endOp o.id

/-- The group of an operation is on its core: what it suspends, it suspends when its image is taken (R224). -/
def State.resident (s : State) (o : Op) : Bool :=
  match o.owner with
  | .warp _ _ => (s.opCore o).isSome
  | .node _ => true

/-- A lane of the access `i` of an operation is performed, or a register written: `i` counts parts, then 4 × lane +
register. -/
def State.accessStep (s : State) (o : Op) (b : AccessBody) (i choice : Nat) : State :=
  match o.parts[i]? with
  | some p =>
    let (ok, s) := s.partReady o i p
    if ok then (s.performPart o b i p choice).tryEnd o.id else s
  | none =>
    let k := i - o.parts.length
    if (o.toWrite b).contains (k / 4, k % 4) then (s.writeBack o b (k / 4) (k % 4)).tryEnd o.id else s.endAccess o b

/-- One register of a result is written; with the last, the operation ends (R252). -/
def State.resultStep (s : State) (o : Op) (todo : List (Nat × Word)) (i : Nat) : State :=
  match o.owner, todo[i]? with
  | .warp g w, some r =>
    let s := s.putWarp g w ((s.warpAt g w).putResult o.emask r.1 r.2)
    if todo.length ≤ 1 then s.endOp o.id else s.setOp { o with body := .result (todo.eraseIdx i) }
  | _, _ => if todo.isEmpty then s.endOp o.id else s

/-- ACCESS_PERFORMED: a step of an access, a register of a result, or the end of a wait. -/
def execAccessPerformed (s : State) : Out :=
  match s.arg with
  | .op id i choice =>
    match s.op id with
    | none => .next s
    | some o =>
      match o.body with
      | .access b => .next (if o.cancelled then s.endCancelled o else s.accessStep o b i choice)
      | .nothing => .next (s.endOp id)
      | .barWait b =>
        match b.answer with
        | some x => .next (if s.resident o then s.endBarWait o b x else s)
        | none => .next (if o.cancelled then s.endCancelled o else s)
      | .cntWait b =>
        match b.answer with
        | some st => .next (if (s.opCore o).isSome then s.endCntWait o b st else s)
        | none => .next (if o.cancelled then s.endCancelled o else s)
      | .txcan b => .next (if s.ops.any (fun x => b.targets.contains x.id) then s else s.endOp id)
      | .svc _ => .next (if o.cancelled then s.endCancelled o else s)
      | .result todo => .next (if s.resident o then s.resultStep o todo i else s)
      | _ => .next s
  | _ => .next s

end Sys2Proof.Machine
end

