-- ==== Sys2Proof/Machine/Engines.lean ====
section
/-!
DEFINITION. Engine commands and waits of a warp: per-lane copies (14 R435 to R437), module queues (R444), `PUB` (R426),
`OVLLD` (12 R372) and `WAITMEM` (14 R427).
-/
namespace Sys2Proof.Machine

/-! ## Status words (R436, R441) -/

def stGone : Nat := 0x11
def stCancelled : Nat := 0x12

/-- A code, and a count of 24 bits. -/
def statusWord (code count : Nat) : Nat := code * 2 ^ 24 + min count 0xFFFFFF

/-! ## CPA -/

/-- The lane of a command that is written next: its index and itself. -/
def CpaBody.next (b : CpaBody) : Option (Nat × CpaLane) :=
  (b.ordered.find? (fun l => !l.done)).bind (fun l =>
    (indexIn l.lane (b.lanes.map (fun x => x.lane))).map (fun i => (i, l)))

/-- Change one lane of a copy. -/
def State.setLane (s : State) (id i : Nat) (f : CpaLane → CpaLane) : State :=
  match s.op id with
  | none => s
  | some o =>
    match o.body with
    | .cpa b => s.setOp { o with body := .cpa { b with lanes := (List.range b.lanes.length).zip b.lanes |>.map (fun x =>
        if x.1 = i then f x.2 else x.2) } }
    | _ => s

/-- Whether a command is the oldest of its channel (R289). -/
def State.cpaHead (s : State) (g id ch : Nat) : Bool := ((s.chanOps g ch).head?.map (fun x => x.1.id)) == some id

/-- Whether a command's first read may start: a release waits for the warp's covered accesses (R288). -/
def State.cpaReleased (s : State) (o : Op) : Bool × State :=
  if o.ord != 2 then (true, s)
  else if s.relBlocked o then (false, s)
  else if o.scope = 5 then s.flushed o.hostKey else (true, s)

/-- One lane's bytes are written to its destination. -/
def State.cpaStore (s : State) (g w : Nat) (id i : Nat) (b : CpaBody) (l : CpaLane) (data : List Byte) : State :=
  (s.putLocal (s.placeOf g w l.lane b.dstSpace l.dst) data).setLane id i (fun x => { x with done := true })

/-- A lane whose source cannot be read writes nothing. -/
def State.cpaFail (s : State) (id i : Nat) : State := s.setLane id i (fun x => { x with done := true, failed := true })

/-- The next lane of a copy. -/
def State.cpaStep (s : State) (o : Op) (g w : Nat) (b : CpaBody) (i : Nat) (l : CpaLane) : State :=
  let p := l.src
  match p.state with
  | .failed => s.cpaFail o.id i
  | .performed => if p.poisoned then s.cpaFail o.id i else s.cpaStore g w o.id i b l p.data
  | .waiting =>
    let (ok, s) := s.cpaReleased o
    if !ok then s
    else
      match s.perform { ctx := s.opCtx o, place := p.place, len := p.len, kind := .read, ext := .part o.id i, ord := p.ord, tlb := p.tlb } with
      | (.done data bad, s) => if bad then s.cpaFail o.id i else s.cpaStore g w o.id i b l data
      | (.sent e, s) => s.updPart o.id i (fun q => { q with state := .sent e })
      | (.park code ppa, s) => s.parkPart o.id i code ppa
      | (.failed, s) => s.cpaFail o.id i
      | (.denied, s) => s.cpaFail o.id i
      | (.blocked, s) => s
      | (.mmio off, s) =>
        let (data, bad, s) := s.mmio off p.len .read
        if bad then s.cpaFail o.id i else s.cpaStore g w o.id i b l data
  | _ => s

/-- The end of a copy (R435, R436): the status that is due in each lane, its barrier's bytes, and what WPOS shows from then on. -/
def State.cpaEnd (s : State) (o : Op) (g _w : Nat) (b : CpaBody) : State :=
  let (ok, s) := match b.bar with
    | some (sp, addr, gen) => if o.cancelled then (true, s) else s.barSub g sp addr gen (b.bytes * b.lanes.length)
    | none => (true, s)
  let word (l : CpaLane) : Nat :=
    if o.cancelled then statusWord stCancelled 0 else if l.failed then statusWord stFault 0
    else statusWord (if ok then stDone else stGone) b.bytes
  let grp := s.groupAt g
  let c := Map.get {} grp.chans b.chan
  let s := s.putGroup g { grp with chans := Map.set {} grp.chans b.chan { c with lastSeq := b.seq, lastSpan := b.span } }
  (s.dropExts o.id).results o.id (b.lanes.map (fun l => (32 * b.dreg + l.lane, BitVec.ofNat 32 (word l))))

/-- CPA_COMPLETION: the next lane of a copy, or its end. -/
def execCpaCompletion (s : State) : Out :=
  match s.arg with
  | .unit id =>
    match s.op id with
    | none => .next s
    | some o =>
      match o.body, o.owner with
      | .cpa b, .warp g w =>
        if o.cancelled then .next (s.cpaEnd o g w b)
        else if !s.resident o || !s.cpaHead g id b.chan then .next s
        else
          match b.next with
          | some (i, l) => .next (s.cpaStep o g w b i l)
          | none => .next (s.cpaEnd o g w b)
      | _, _ => .next s
  | _ => .next s

/-! ## Module queues (R444) -/

def State.setMq (s : State) (id : Nat) (f : MqBody → MqBody) : State :=
  match s.op id with
  | none => s
  | some o =>
    match o.body with
    | .mq b => s.setOp { o with body := .mq (f b) }
    | _ => s

/-- A report on a uniform command, whose mask is that of the entry that issued it (Table 8-5). -/
def State.reportOp (s : State) (o : Op) (cause addr info : Nat) (tier : Bool) : State :=
  match o.owner with
  | .warp g w => s.addReport g w { order := o.id, flag := o.flag, cause := cause, mask := some o.emask, addr := addr,
                                   info := BitVec.ofNat 32 info, tier := tier }
  | .node _ => s

/-- The operation has its answer: result and entry; 3 is a malformed descriptor. -/
def State.endMq (s : State) (o : Op) (b : MqBody) (res : Nat) (data : List Byte) : State :=
  match o.owner with
  | .node _ => s.endOp o.id
  | .warp _ _ =>
    if res = 3 then (s.reportOp o cSpaceRange b.va 48 false).endOp o.id
    else
      let entry := if b.enq || res ≠ 0 then [] else
          ((List.range (b.bytes / 4)).zip (piecesOf 4 (b.bytes / 4) data)).map (fun r => (sKey (b.sreg + r.1), BitVec.ofNat 32 (ofBytes r.2)))
      (s.acquireOp o).results o.id (entry ++ [(sKey b.dreg, BitVec.ofNat 32 res)])

/-- Act at the home of a queue: in the order of receipt where the module is direct, by a relay otherwise (R46, R52, R59). -/
def State.mqGo (s : State) (o : Op) (b : MqBody) (tlb a : Nat) : State :=
  let m := modIndex a
  let ctx := s.opCtx o
  if !s.mayReach ctx a true then (s.reportOp o cPermission b.va 48 false).endOp o.id
  else
    match s.modRoute m with
    | .lost => s.parkPart o.id 0 0x22 a
    | .trail p r =>
      (match s.sendRelay p r ctx { id := 0, kind := .queue o.id, host := false, ppa := a, len := b.bytes, write := true, tlb := tlb }
          { kind := 3, src := s.pod.pkg, dst := m, sealBit := s.sealedKey ctx m, key := s.ctxKey ctx, size := if b.enq then 5 else 6,
            len := b.bytes, target := modOff a, data := b.data } with
       | (some e, s) => s.updPart o.id 0 (fun p => { p with state := .sent e })
       | (none, s) => s)
    | .direct p =>
      if (s.module m).failed || !s.linkOk p ctx m then s
      else if s.poisoned a 64 then (s.reportOp o cUncorrectable b.va 48 false).endOp o.id
      else
        match s.homeTry m (.own (.queue o.id)) 16 (s.queueLines m (modOff a)) .clear with
        | (none, s) => s
        | (some _, s) =>
          let (res, data, s) := (s.flits p (s.linkKid ctx m) (32 + b.bytes)).queueOp m (modOff a) b.bytes b.enq b.data
          s.endMq o b res data

/-- MQ_RESULT: the operation acts, or its answer comes back. -/
def execMqResult (s : State) : Out :=
  match s.arg with
  | .unit id =>
    match s.op id with
    | none => .next s
    | some o =>
      match o.body, o.parts with
      | .mq b, p :: _ =>
        if o.cancelled then .next (s.endCancelled o)
        else
          match b.answer, p.state, p.place with
          | some (res, data), _, _ => .next (s.endMq o b res data)
          | none, .failed, _ => .next (s.endOp id)
          | none, .waiting, .phys a =>
            if ppaKind a ≠ 1 then .next ((s.reportOp o cPermission b.va 48 false).endOp id)
            else
              let rel := b.enq && p.ord != .uo
              let (ok, s) := if rel && s.relBlocked o then (false, s) else if rel && o.scope = 5 then s.flushed o.hostKey else (true, s)
              .next (if ok then s.mqGo o b p.tlb a else s)
          | none, .waiting, _ => .next ((s.reportOp o cPermission b.va 48 false).endOp id)
          | _, _, _ => .next s
      | _, _ => .next s
  | _ => .next s

/-! ## PUB (R426, R290, R291) -/

/-- PUB_FLIP: it releases, waits for the back-view writes before it, and flips the version bit. -/
def execPubFlip (s : State) : Out :=
  match s.arg with
  | .unit id =>
    match s.op id with
    | none => .next s
    | some o =>
      match o.body, o.parts with
      | .pub b, p :: _ =>
        if o.cancelled then .next (s.endCancelled o)
        else
          match p.state, p.place with
          | .failed, _ => .next (s.endOp id)
          | .waiting, .shadow _ sb _ _ =>
            if !s.sbValid sb then .next (s.endWith o b.dreg 2)
            else if s.backWrites sb id || s.relBlocked o then .next s
            else
              let (ok, s) := if o.scope = 5 then s.flushed o.hostKey else (true, s)
              .next (if ok then (s.flip sb).endWith o b.dreg 0 else s)
          | .waiting, _ => .next (s.endWith o b.dreg 1)
          | _, _ => .next s
      | _, _ => .next s
  | _ => .next s

/-! ## OVLLD (R372, R350) -/

/-- A slot takes an overlay; one that is bound to it already stays as it is. -/
def Group.bind (g : Group) (slot ovl image len : Nat) : Group :=
  if (g.slot slot).any (fun x => x.ovl == ovl) then g else { g with slots := Map.set none g.slots slot (some ⟨ovl, image, len⟩) }

/-- The header has been read. -/
def State.ovlBind (s : State) (o : Op) (g : Nat) (b : OvlBody) (image : Nat) (h : List Byte) : State :=
  match imageHeader h with
  | none => s.endWith o b.dreg 1
  | some (len, home) =>
    if image % 64 ≠ 0 then s.endWith o b.dreg 1
    else if home = 3 && b.ovl != (s.groupAt g).handler then s.endWith o b.dreg 2
    else
      let x := s.groupAt g
      let s := if (x.slot home).any (fun y => y.ovl == b.ovl) then s else s.unfill x.ctx image
      (s.putGroup g (x.bind home b.ovl image len)).endWith o b.dreg 0

/-- A read of the table or of the header parks, or ends in failure (R134). -/
def State.ovlStop (s : State) (o : Op) (va : Nat) (r : EngRead) : State :=
  match r with
  | .park code a ppa =>
    let (t, s) := s.park (s.opCtx o) a code ppa .read 0
    s.setOp { o with park := t }
  | .wait => s
  | _ => (s.reportOp o cFatalFault va 0 (o.queuedCode == some 0x22)).endOp o.id

def execOvlldCompletion (s : State) : Out :=
  match s.arg with
  | .unit id =>
    match s.op id with
    | none => .next s
    | some o =>
      match o.body, o.owner with
      | .ovlld b, .warp g _ =>
        let entry := (s.groupAt g).ovltab + 8 * b.ovl
        if o.cancelled then .next (s.endCancelled o)
        else if o.failed then .next (s.ovlStop o entry .failed)
        else if o.park.isSome || o.queuedCode == some 0 then .next s
        else
          match s.engRead (whoOp id 0) (s.opCtx o) entry 8 with
          | (.ok e, s) =>
            match s.engRead (whoOp id 0) (s.opCtx o) (ofBytes e) 64 with
            | (.ok h, s) => .next (s.ovlBind o g b (ofBytes e) h)
            | (r, s) => .next (s.ovlStop o (ofBytes e) r)
          | (r, s) => .next (s.ovlStop o entry r)
      | _, _ => .next s
  | _ => .next s

/-! ## WAITMEM (R427, R284) -/

/-- Table 14-5. -/
def waitMet (cmp n v x : Nat) : Bool :=
  if cmp = 0 then v == x else if cmp = 1 then v != x else if cmp = 2 then x ≤ v else if cmp = 3 then v < x
  else if cmp = 4 then sextInt (8 * n) x ≤ sextInt (8 * n) v else sextInt (8 * n) v < sextInt (8 * n) x

def WaitBody.bytes (b : WaitBody) : Nat := if b.wide then 8 else 4

/-- The wait ends with the value read. -/
def State.endWaitmem (s : State) (o : Op) (b : WaitBody) (v : Nat) : State :=
  match o.owner with
  | .node _ => s.endOp o.id
  | .warp g _ =>
    (if b.part.ord == .uo then s else s.acquire g (capScope b.space o.scope)).results o.id
      ((sKey b.dreg, BitVec.ofNat 32 v) :: if b.wide then [(sKey (b.dreg + 1), BitVec.ofNat 32 (v / 2 ^ 32))] else [])

/-- The word has been read: its core's copy is no older (R276), and the wait ends or goes on. -/
def State.waitRead (s : State) (o : Op) (b : WaitBody) (data : List Byte) (bad : Bool) : State :=
  let v := ofBytes data
  let s := match s.opCore o, s.placePpa b.part.place with
    | some core, some a => s.refreshCache core (s.opCtx o) a b.part.len false
    | _, _ => s
  if bad then (s.reportPart o b.part cUncorrectable false).endOp o.id
  else if b.elapsed || waitMet b.cmp b.bytes v b.value then s.endWaitmem o b v
  else s.updPart o.id 0 (fun p => { p with state := .waiting, data := [] })

/-- A place in host memory. -/
def Place.isHost (p : Place) : Bool :=
  match p with
  | .phys a => ppaKind a == 2
  | _ => false

/-- One reading of the word at the place it has now. -/
def State.waitPerform (s : State) (o : Op) (b : WaitBody) : State :=
  let p := b.part
  if p.place.isHost then (s.reportPart o p cPermission false).endOp o.id
  else
    match s.perform { ctx := s.opCtx o, place := p.place, len := p.len, kind := .read, ext := .part o.id 0, ord := p.ord, tlb := p.tlb } with
    | (.done data bad, s) => s.waitRead o b data bad
    | (.sent e, s) => s.updPart o.id 0 (fun q => { q with state := .sent e })
    | (.park code ppa, s) => s.parkPart o.id 0 code ppa
    | (.failed, s) => (s.reportPart o p p.place.goneCause false).endOp o.id
    | (.denied, s) => (s.reportPart o p cPermission false).endOp o.id
    | (.blocked, s) => s
    | (.mmio off, s) =>
      let (data, bad, s) := s.mmio off p.len .read
      s.waitRead o b data bad

/-- One reading of the word. Each reading of G space is translated anew, so that a page that has moved, or gone to another glade,
is not read at its old place (R126, R212). -/
def State.waitStep (s : State) (o : Op) (b : WaitBody) : State :=
  match b.part.state with
  | .failed => s.endOp o.id
  | .performed => s.waitRead o b b.part.data b.part.poisoned
  | .waiting =>
    let (ok, s) := s.partReady o 0 b.part
    if !ok then s
    else if b.space ≠ 0 then s.waitPerform o b
    else
      let (p, s) := s.reissuePart (s.opCtx o) o b.part
      let b := { b with part := p }
      let o := { o with body := .waitmem b }
      let s := s.setOp o
      match p.state with
      | .waiting => s.waitPerform o b
      | .failed => s.endOp o.id
      | _ => s
  | _ => s

/-- WAITMEM_RECHECK; a pair says that the timeout has elapsed. -/
def execWaitmemRecheck (s : State) : Out :=
  let go (id : Nat) (late : Bool) : State :=
    match s.op id with
    | none => s
    | some o =>
      match o.body with
      | .waitmem b =>
        let b := { b with elapsed := b.elapsed || (late && b.timeout.isSome) }
        let o := { o with body := .waitmem b }
        if o.cancelled then s.endCancelled o
        else if !s.resident o then s
        else (s.setOp o).waitStep o b
      | _ => s
  match s.arg with
  | .unit id => .next (go id false)
  | .pair id _ => .next (go id true)
  | _ => .next s

end Sys2Proof.Machine
end

