-- ==== Sys2Proof/Machine/TransferRun.lean ====
section
/-!
DEFINITION. Tile transfers at work (14 R438 to R442): the parts of a copy, broadcast or reduction, the collectives of this
package (03 R80 to R101), and the completion of a command.
-/
namespace Sys2Proof.Machine

/-! ## The command -/

def State.setTxf (s : State) (id : Nat) (f : TxfBody → TxfBody) : State :=
  match s.op id with
  | none => s
  | some o =>
    match o.body with
    | .txf b => s.setOp { o with body := .txf (f b) }
    | _ => s

/-- The group a command belongs to; a node has none. -/
def Op.gid (o : Op) : Nat :=
  match o.owner with
  | .warp g _ => g
  | .node _ => noGroup

def State.opGlade (s : State) (o : Op) : Nat :=
  match o.owner with
  | .warp g _ => (s.groupAt g).glade
  | .node id => ((s.node id).map (fun n => n.glade)).getD 0

/-- The command itself parks; with the table full it tries again (R131). -/
def State.parkOp (s : State) (o : Op) (va code ppa : Nat) (k : AccKind) (agent : Nat) : State :=
  let (t, s) := s.park (s.opCtx o) va code ppa k agent
  match s.op o.id with
  | some o => s.setOp { o with park := t }
  | none => s

/-! ## One access of an engine -/

/-- What an engine's access comes to: bytes, nothing yet, or a failure that ends the command. -/
inductive EngRes where
  | ok (data : List Byte)
  | wait
  | bad
  deriving DecidableEq, Repr

/-- Where an engine's access leads (R439: addresses are checked as the engine reaches them): a place, a fault that parks,
or a failure. -/
def State.engPlace (s : State) (o : Op) (space : Nat) (a : Int) (n : Nat) (k : AccKind) : XRes × State :=
  let va := a.toNat
  if a < 0 then (.malformed, s)
  else if space = 0 then (if 2 ^ 48 < va + n then (.malformed, s) else s.translate (s.opCtx o) va k n (k == .atomic))
  else if space = 3 then
    (if va + n ≤ s.kSize (s.opGlade o) then .ok (.kspace (s.opGlade o) va) .rc false 0 else .malformed, s)
  else if s.inSpace (s.groupAt o.gid) space va n then (.ok (s.placeOf o.gid 0 0 space va) .rc false 0, s)
  else (.malformed, s)

/-- A transfer works on a module's port (R62). -/
def State.noteMod (s : State) (o : Op) (b : TxfBody) (pl : Place) : State :=
  match s.placePpa pl with
  | some a => if ppaKind a = 1 && b.stage = 0 then s.setTxf o.id (fun x => { x with mods := insertNat (modIndex a) x.mods }) else s
  | none => s

/-- Make one access of a command; `idx` numbers it for an answer from outside. -/
def State.engAccess (s : State) (o : Op) (b : TxfBody) (idx space : Nat) (a : Int) (n : Nat) (acc : AccKind) (k : PKind)
    (agent : Nat) (alloc : Bool) : EngRes × State :=
  match b.got.find? (fun g => g.1 == idx) with
  | some g => (.ok g.2, s)
  | none =>
    if b.sent.contains idx then (.wait, s)
    else
      match s.engPlace o space a n acc with
      | (.park code ppa, s) => (.wait, s.parkOp o a.toNat code ppa acc agent)
      | (.ok pl ord _ tlb, s) =>
        (match (s.noteMod o b pl).perform { ctx := s.opCtx o, place := pl, len := n, kind := k, ext := .elem o.id idx, ord := ord, alloc := alloc,
                                            wkey := o.hostKey, tlb := tlb } with
         | (.done data bad, s) => (if bad then .bad else .ok data, s)
         | (.sent _, s) => (.wait, s.setTxf o.id (fun x => { x with sent := idx :: x.sent }))
         | (.park code ppa, s) => (.wait, s.parkOp o a.toNat code ppa acc agent)
         | (.failed, s) => (.bad, s)
         | (.denied, s) => (.bad, s)
         | (.blocked, s) => (.wait, s)
         | (.mmio off, s) =>
           let (data, bad, s) := s.mmio off n k
           (if bad then .bad else .ok data, s))
      | (_, s) => (.bad, s)

/-! ## Kinds 0 to 2 -/

/-- The atomic that combines one element (R440): a code of Table 14-3, or of the model's own for the MIN and MAX of floats. -/
def redAop (elem op : Nat) : Nat :=
  if elem = 3 then (if op = 0 then 0 else if op = 1 then 1 else 3)
  else if op = 0 then (if elem = 0 then 10 else if elem = 1 then 11 else 12)
  else 13 + 2 * elem + (op - 1)

/-- Read the source of a part: one or two accesses within 16-byte parts. -/
def State.txfSource (s : State) (o : Op) (b : TxfBody) (e len : Nat) : EngRes × State :=
  let h := b.shape
  let a := h.srcOf e
  let gs := granules 3 (a % 16).toNat 0 len
  ((List.range gs.length).zip gs).foldl (fun (r : EngRes × State) x =>
    match r with
    | (.ok acc, s) =>
      (match s.engAccess o b (4 * e + x.1) h.sspace (a + (x.2.2.1 : Nat)) x.2.2.2 .engRead .read 2 (h.policy % 4 != 3) with
       | (.ok d, s) => (.ok (acc ++ d), s)
       | (r, s) => (r, s))
    | r => r) (.ok [], s)

/-- Write one part: into every rank of a broadcast, or into its destination. -/
def State.txfStore (s : State) (o : Op) (b : TxfBody) (e len : Nat) (data : List Byte) : EngRes × State :=
  let h := b.shape
  if h.kind = 1 then
    h.ranks.foldl (fun (r : EngRes × State) k =>
      match r with
      | (.ok _, s) => s.engAccess o b (4 * e + 2) 2 ((k * 2 ^ 19 : Nat) + h.dstOf e) len .engWrite (.write data) 2 true
      | r => r) (.ok [], s)
  else if h.kind = 2 then
    s.engAccess o b (4 * e + 2) h.dspace (h.dstOf e) len .atomic (.atomic (redAop h.elem h.op) (ofBytes data) 0) 2 true
  else s.engAccess o b (4 * e + 2) h.dspace (h.dstOf e) len .engWrite (.write data) 2 true

/-- One part of a transfer: read, then written. -/
def State.txfPart (s : State) (o : Op) (b : TxfBody) (e len : Nat) : State :=
  match s.txfSource o b e len with
  | (.wait, s) => s
  | (.bad, s) => s.endTransfer o.id stFault
  | (.ok data, s) =>
    match s.txfStore o b e len data with
    | (.wait, s) => s
    | (.bad, s) => s.endTransfer o.id stFault
    | (.ok _, s) => s.setTxf o.id (fun x => { x with written := e :: x.written, got := x.got.filter (fun g => g.1 / 4 != e) })

/-- Parts not yet written. -/
def TxfBody.left (b : TxfBody) : List (Nat × Nat) := b.shape.pieces.filter (fun p => !b.written.contains p.1)

/-- Bytes written (for a broadcast, to each rank). -/
def TxfBody.bytesDone (b : TxfBody) : Nat :=
  (b.shape.pieces.filter (fun p => b.written.contains p.1)).foldl (fun n p => n + p.2) 0

/-- The work of a command is over: its code and count stand, and nothing of it is waited for any more. -/
def State.txfClose (s : State) (o : Op) (code count stage : Nat) : State :=
  (s.dropExts o.id).setTxf o.id (fun x => { x with ending := code + 1, count := count, stage := stage, sent := [], got := [] })

/-- The next part of a copy, broadcast or reduction: the `n`th of those left; or the end of the work. -/
def State.txfWork (s : State) (o : Op) (b : TxfBody) (n : Nat) : State :=
  if b.ending != 0 then s.txfClose o (b.ending - 1) b.bytesDone 2
  else
    match b.left with
    | [] => s.txfClose o stDone b.bytesDone 2
    | l =>
      match l[n % l.length]? with
      | some (e, len) => s.txfPart o b e len
      | none => s

/-! ## Collectives (03 R80 to R101) -/

/-- A collective's own memory is read or written: its command parks on a fault, and ends with FAULT on a failure. -/
def State.collStop (s : State) (o : Op) (c : Coll) (k : AccKind) (r : EngRead) : State :=
  match r with
  | .wait => s
  | .park code va ppa => s.parkOp o va code ppa k 2
  | _ => s.mapColl c.id (fun c => { c with fault := true })

/-- Read chunk i of SRC part by part, then go on. -/
def State.srcThen (s : State) (o : Op) (c : Coll) (i : Nat) (k : List Byte → State → State) : State :=
  match s.engPart (whoChunk c.id i 0) o.hostKey c.ctx (c.src + i * c.chunk) c.chunk none with
  | (.ok b, s) => k b s
  | (r, s) => s.collStop o c .engRead r

/-- Write chunk i of DST part by part, then go on. -/
def State.dstThen (s : State) (o : Op) (c : Coll) (i : Nat) (data : List Byte) (k : State → State) : State :=
  match s.engPart (whoChunk c.id i 1) o.hostKey c.ctx (c.dst + i * c.chunk) c.chunk (some data) with
  | (.ok _, s) => k s
  | (r, s) => s.collStop o c .engWrite r

/-- Where a contribution goes: module and relay + 1. -/
def State.itemTarget (s : State) (c : Coll) (x : Nat) : Nat × Nat :=
  if x % 64 = 32 then
    match s.step1Target c s.pod.pkg (c.owner (x / 64)) with
    | some (m, _, some r) => (m, r + 1)
    | some (m, _, none) => (m, 0)
    | none => (128, 0)
  else (c.second.getD 128, 0)

/-- The lowest contribution that no BUSY answer holds back (R86, R88). -/
def State.nextItem (s : State) (c : Coll) : Option Nat :=
  c.toSend.find? (fun x => !c.busy.any (fun y => y.1 < x && (y.2.1, y.2.2) == s.itemTarget c x))

/-- Send one contribution. -/
def State.sendItem (s : State) (o : Op) (c : Coll) (x : Nat) : State :=
  let i := x / 64
  let k := x % 64
  if k = 32 then s.srcThen o c i (fun data s => if c.sealBit then s.sendSealed c i data else s.sendStep1 c i data)
  else if k = 15 then s.srcThen o c i (fun data s => s.sendStep2 c i 15 (chunkCksum c.wire c.elems false data) data)
  else
    let m := (s.port k).modid
    let a := modPpa m (c.landing i 1 0)
    let (_, ok, carried, got, data) := s.readChunk c a c.isPart
    if ok then s.sendStep2 c i k carried data
    else (s.readFailed m 1 (s.trailerIdent c a c.isPart) carried got).setColl (c.ownerFail i false)

/-- The modules to which this package writes a chunk at step 3, and the heads there: (port, module, heads). -/
def State.spreadTo (s : State) (c : Coll) : List (Nat × Nat × List Nat) :=
  (List.range 9).filterMap (fun k =>
    let m := (s.port k).modid
    let heads := (c.members.filter (fun p => p != s.pod.pkg)).filterMap (fun p => s.headOf m p)
    if (s.port k).state != .up || heads.isEmpty then none else some (k, m, heads))

/-- Whether step 3 may go out on every port it takes (R72). -/
def State.maySpread (s : State) (c : Coll) : Bool := (s.spreadTo c).all (fun t => s.linkOk t.1 c.ctx t.2.1)

/-- Step 3 (R83): the chunk goes to the replica position of every module whose line holds another member, and by a trail to
the others. Of a failed chunk only the trailer is known. -/
def State.spread (s : State) (c : Coll) (i status : Nat) (data : List Byte) : State :=
  let me := s.pod.pkg
  let ident := c.ident 3 0 me i
  let ck := if status = stDone then chunkCksum c.wire c.elems false data else 0
  let at' := c.landing i 3 0
  let s := (s.spreadTo c).foldl (fun s t =>
    let s := if status = stDone then s.putModule c.ctx t.1 t.2.1 at' (withTrailer data ident ck status)
      else s.putModule c.ctx t.1 t.2.1 (at' + c.chunk) (trailer ident ck status 0)
    s.sayReady t.1 t.2.1 (t.2.2.foldl (fun n h => n ||| 2 ^ h) 0) at' ident ck) s
  (c.members.filter (fun p => p != me)).foldl (fun s p =>
    match s.trailOf c.up me p, s.coll c.id with
    | some none, _ => s
    | _, some c => s.deliver c i p at' ident ck status data
    | _, none => s) s

/-- The contributions to a sealed reduction: the inputs of each, and its checksum word. -/
def Coll.sealedRows (c : Coll) (me i : Nat) (own : List Byte) : List (List RedIn) × List Nat :=
  let l := (c.held.filter (fun h => h.1 == i)).map (fun h => (h.2.1, h.2.2)) ++ [(me, own)]
  (l.map (fun x => redInputs c.wire x.1 c.elems false x.2), l.map (fun x => chunkCksum c.wire c.elems false x.2))

/-- The final value of a chunk this package owns has been formed: into DST where the kind has one, and to the others. -/
def State.ownFinal (s : State) (o : Op) (c : Coll) (i : Nat) (data : List Byte) : State :=
  let fin (s : State) : State :=
    match s.coll c.id with
    | none => s
    | some c =>
      let c := { c with toOwn := c.toOwn.filter (fun x => x != i), held := c.held.filter (fun h => h.1 != i) }
      let s := s.setColl c
      if c.kind = 0 || c.kind = 2 || c.kind = 3 then s.spread c i stDone data else s
  if c.kind = 3 then fin s else s.dstThen o c i data fin

/-- The owner's part of a sealed reduction (R101): its sum, unless its LOCAL check fails. -/
def State.sealedSum (s : State) (o : Op) (c : Coll) (i : Nat) (own : List Byte) : State :=
  let (rows, words) := c.sealedRows s.pod.pkg i own
  let out := redChunk c.rop c.wire c.elems false rows
  let (res, sum, adder) := adderTest c.rop c.wire c.elems false rows words out
  let ident := c.ident 2 0 s.pod.pkg i
  if !adder then (s.localFailed ident res sum).mapColl c.id (fun c => c.ownerFail i false)
  else if !roundTest c.rop c.wire c.elems false rows out then
    (s.localFailed ident res (chunkCksum c.wire c.elems false out)).mapColl c.id (fun c => c.ownerFail i false)
  else s.ownFinal o c i out

/-- A chunk of toOwn: the owner forms its value, and passes a failure on. -/
def State.ownStep (s : State) (o : Op) (c : Coll) (i : Nat) : State :=
  if !s.maySpread c then s
  else if c.failed.contains i then
    let s := s.setColl { c with toOwn := c.toOwn.filter (fun x => x != i) }
    let data := (List.range c.chunk).map (fun k => Config.freeByte (s.tick + k))
    let s : State := { s with tick := s.tick + c.chunk }
    s.spread { c with toOwn := c.toOwn.filter (fun x => x != i) } i (if c.lost.contains i then stLinkLost else stChecksum) data
  else if c.kind = 2 || c.kind = 3 then s.srcThen o c i (fun data s => s.ownFinal o c i data)
  else if c.sealBit then s.srcThen o c i (fun own s => s.sealedSum o c i own)
  else
    match c.second with
    | none => s.setColl (c.ownerFail i true)
    | some m =>
      let a := modPpa m (c.landing i 2 0)
      let (_, ok, carried, got, data) := s.readChunk c a false
      if ok then s.ownFinal o c i data
      else (s.readFailed m 2 (s.trailerIdent c a false) carried got).setColl (c.ownerFail i false)

/-- A chunk that has been announced is read, checked and written to DST (R83, R90, R93). -/
def State.takeReady (s : State) (o : Op) (c : Coll) (i m pos : Nat) : State :=
  let (st, ok, carried, got, data) := s.readChunk c (landedAt m pos) false
  if !ok then (s.readFailed m 3 (c.ident 3 0 (c.owner i) i) carried got).mapColl c.id (fun c => c.failChunk i false)
  else if st ≠ stDone then s.setColl (c.failChunk i (st == stLinkLost))
  else s.dstThen o c i data (fun s => s.mapColl c.id (fun c =>
    { c with toGet := c.toGet.filter (fun x => x != i), ready := c.ready.filter (fun x => x.1 != i) }))

/-- Nothing of a collective is left to do at this package. -/
def Coll.over (c : Coll) : Bool :=
  c.toSend.isEmpty && c.sent.isEmpty && c.busy.isEmpty && c.step1.isEmpty && c.step2.isEmpty && c.toOwn.isEmpty
    && c.toGet.isEmpty && c.ready.isEmpty && c.due.isEmpty && c.toRelay.isEmpty

/-- The end of a collective's work: what is left of its spills is freed (R99), and its code and count stand (R93). -/
def State.collClose (s : State) (o : Op) (c : Coll) (code : Nat) : State :=
  let left := s.pod.spills.filter (fun e => c.keyIs e.ident)
  let s := (s.keepSpills (s.pod.spills.filter (fun e => !c.keyIs e.ident))).endChunks [c.id]
  if code = stDone && !left.isEmpty then s.txfClose o stSpill left.length 1
  else s.txfClose o code (if code = stDone then c.chunks.length else c.failed.length) 1

/-- One step of a collective, of those that are possible now. -/
def State.collWork (s : State) (o : Op) (b : TxfBody) (n : Nat) : State :=
  match s.coll b.coll with
  | none => s.txfClose o stFault 0 2
  | some c =>
    if b.ending != 0 then s.collClose o c (b.ending - 1)
    else if c.fault then s.collClose o c stFault
    else if c.over then s.collClose o c (if c.failed.isEmpty then stDone else if c.checksum then stChecksum else stLinkLost)
    else
      let acts : List (State → State) :=
        (s.nextItem c).toList.map (fun x s => s.sendItem o c x) ++ c.toOwn.map (fun i s => s.ownStep o c i)
          ++ c.ready.map (fun r s => s.takeReady o c r.1 r.2.1 r.2.2) ++ c.due.map (fun d s => s.sendDue c d.1 d.2)
      match acts[n % acts.length]? with
      | some f => f s
      | none => s

/-! ## Completion (R441, R96) -/

/-- The shadow buffer that holds DST, if its VA lies in a back view. -/
def State.dstBuffer (s : State) (c : Coll) : Option Nat :=
  match s.walk c.ctx c.dst with
  | .leaf _ log e => if !leafBad e log && leafSv e == 2 && s.sbValid (leafSbid e) then some (leafSbid e) else none
  | _ => none

/-- The collective leaves the receive table. -/
def State.dropColl (s : State) (id : Nat) : State := { s with pod := { s.pod with colls := s.pod.colls.filter (fun c => c.id != id) } }

/-- Stage 1: a collective that ends with any status but DONE writes its failure list (R96). The list is one of the command's
writes: where it cannot be made the status becomes FAULT, as for any other (DEDUCED from R439, log 86). -/
def State.txfFails (s : State) (o : Op) (b : TxfBody) : State :=
  let next (s : State) (code : Nat) : State := s.setTxf o.id (fun x => { x with stage := 2, ending := code })
  match if b.shape.kind = 3 then s.coll b.coll else none with
  | none => next s b.ending
  | some c =>
    if b.ending = stDone + 1 || c.failed.isEmpty then next s b.ending
    else
      match s.engWrite (whoOp o.id 1) o.hostKey c.ctx c.fail ((c.failed.take c.failcap).flatMap (fun i => bytesOf 4 i)) with
      | (.ok _, s) => next (s.endFetches (whoOp o.id 1)) b.ending
      | (.wait, s) => s
      | (.park code va ppa, s) => s.parkOp o va code ppa .engWrite 2
      | (.failed, s) => next s (stFault + 1)

/-- The bytes a collective has written to this package's DST. -/
def State.collBytes (s : State) (b : TxfBody) : Nat :=
  match s.coll b.coll with
  | none => 0
  | some c =>
    let mine := c.chunks.filter (fun i => (if c.kind = 0 || c.kind = 2 then true else if c.kind = 3 then c.root != s.pod.pkg else c.owner i == s.pod.pkg)
      && !c.failed.contains i)
    mine.length * c.chunk

/-- Whether the status words of a command can be written, as the tables stand: that is known before its barriers are subtracted
from and DST is published, for a command that ends FAULT does neither (R96, R441). None: the command has parked. -/
def State.statusOk (s : State) (o : Op) (b : TxfBody) : Option Bool × State :=
  ([(b.shape.stataddr, 2), (b.nodeStat, 6)].filter (fun x => x.1 != 0)).foldl (fun (r : Option Bool × State) x =>
    match r with
    | (some true, s) =>
      (match s.engPlace o 0 x.1 4 .engWrite with
       | (.ok _ _ _ _, s) => (some true, s)
       | (.park code ppa, s) => (none, s.parkOp o x.1 code ppa .engWrite x.2)
       | (_, s) => (some false, s))
    | r => r) (some true, s)

/-- The barriers are subtracted from: whether every one of them still stood (R441). -/
def State.txfBars (s : State) (o : Op) (b : TxfBody) : Bool × State :=
  let n := if b.shape.kind = 3 then s.collBytes b else b.count
  b.gen.foldl (fun (r : Bool × State) g =>
    let (ok, s) := r.2.barSub o.gid b.shape.bspace g.1 g.2 n
    (r.1 && ok, s)) (true, s)

/-- The shadow buffer that a command publishes at its end, if it ends DONE (R96, R97). -/
def State.txfPublishes (s : State) (b : TxfBody) : Option Nat :=
  match if b.shape.kind = 3 then s.coll b.coll else none with
  | none => none
  | some c => if c.kind = 3 && c.root = s.pod.pkg then none else s.dstBuffer c

/-- Stage 2: the barriers, and with them the publication of DST. A command that ended FAULT or CANCELLED subtracts nothing; one
that ends with any status but DONE publishes nothing. -/
def State.txfClear (s : State) (o : Op) (b : TxfBody) : State :=
  let next (s : State) (code : Nat) : State := (s.dropColl b.coll).setTxf o.id (fun x => { x with stage := 3, ending := code })
  if b.ending = stFault + 1 || b.ending = stCancelled + 1 then next s b.ending
  else
    let pub := if b.ending = stDone + 1 then s.txfPublishes b else none
    if pub.any (fun sb => s.backWrites sb o.id) then s
    else
      match s.statusOk o b with
      | (none, s) => s
      | (some false, s) => next s (stFault + 1)
      | (some true, s) =>
        let (ok, s) := s.txfBars o b
        if b.ending = stDone + 1 && !ok then next s (stGone + 1)
        else next (pub.elim s (fun sb => s.flip sb)) b.ending

/-- Stages 3 and 4: a status word in memory. One that, after all, cannot be written leaves the status as it is (DESIGN CHOICE, log
86). -/
def State.txfStatus (s : State) (o : Op) (b : TxfBody) (va idx stage agent : Nat) : State :=
  let next (s : State) : State := s.setTxf o.id (fun x => { x with stage := stage, sent := [], got := [] })
  if va = 0 then next s
  else
    match s.engAccess o b idx 0 va 4 .engWrite (.write (bytesOf 4 (statusWord (b.ending - 1) b.count))) agent true with
    | (.wait, s) => s
    | (_, s) => next s

/-- Stage 5: s(d) and the flag, or the end of the node (R192, R204, R207). A command of a group that was cancelled while it was
saved has no register left to write. -/
def State.txfEnd (s : State) (o : Op) (b : TxfBody) : State :=
  let s := s.endFetches (whoOp o.id 1)
  match o.owner with
  | .warp _ _ => if o.cancelled && !s.resident o then s.endOp o.id else s.endWith o b.dreg (statusWord (b.ending - 1) b.count)
  | .node id =>
    if (s.node id).any (fun n => n.st == .cancelled) then (s.endOp o.id).endNode id 1
    else if b.ending = stDone + 1 then (s.endOp o.id).publishNode id
    else s.failStatus id (b.ending - 1)

/-- A failed replay of the command's own access (R134, R439): before its barriers are subtracted from, its status is FAULT. -/
def State.txfFailed (s : State) (o : Op) (b : TxfBody) : State :=
  let s := s.setOp { o with failed := false, queuedCode := none }
  if b.stage = 0 then
    (match if b.shape.kind = 3 then s.coll b.coll else none with
     | some c => s.setColl { c with fault := true }
     | none => s.endTransfer o.id stFault)
  else if b.stage ≤ 2 then s.setTxf o.id (fun x => { x with stage := 2, ending := stFault + 1 })
  else s.setTxf o.id (fun x => { x with stage := x.stage + 1 })

/-- The stages of a command's completion, after its writes have been performed at its scope (R288). What its group's core has
copied of them is dropped before its barriers, its status and its flag say that they stand (R282). -/
def State.txfStage (s : State) (o : Op) (b : TxfBody) : State :=
  if b.stage = 1 then s.txfFails o b
  else if b.stage = 2 then
    let (ok, s) := if o.scope = 5 then s.flushed o.hostKey else (true, s)
    if ok then ((s.opCore o).elim s (fun core => s.dropCache core)).txfClear o b else s
  else if b.stage = 3 then s.txfStatus o b b.shape.stataddr (2 ^ 42) 4 2
  else if b.stage = 4 then s.txfStatus o b b.nodeStat (2 ^ 42 + 1) 5 6
  else s.txfEnd o b

/-- Whether a command takes no step now: it is parked, or its group is saved (R224). A collective's traffic goes on while its
group is saved, and so does a command that has been cancelled. -/
def State.txfHeld (s : State) (o : Op) (b : TxfBody) : Bool :=
  o.park.isSome || o.queuedCode == some 0 || (!s.resident o && !o.cancelled && (b.shape.kind != 3 || 1 ≤ b.stage))

/-- TXF_COMPLETION: one step of a command; `part` chooses among the steps that are possible. -/
def execTxfCompletion (s : State) : Out :=
  match s.arg with
  | .op id n _ =>
    match s.op id with
    | none => .next s
    | some o =>
      match o.body with
      | .txf b =>
        if o.failed then .next (s.txfFailed o b)
        else if o.cancelled && b.stage = 0 then
          .next (match if b.shape.kind = 3 then s.coll b.coll else none with
            | some c => s.collClose o c stCancelled
            | none => s.txfClose o stCancelled b.bytesDone 2)
        else if s.txfHeld o b then .next s
        else if b.stage ≠ 0 then .next (s.txfStage o b)
        else .next (if b.shape.kind = 3 then s.collWork o b n else s.txfWork o b n)
      | _ => .next s
  | _ => .next s

end Sys2Proof.Machine
end

