-- ==== Sys2Proof/Machine/Answers.lean ====
section
/-!
DEFINITION. Answers from outside: relay responses (02 R59, R62) and completions of device requests to the host (05 R168,
R169; 04 R129; R507).
-/
namespace Sys2Proof.Machine

/-- How a request outside ended. -/
inductive Answer where
  | done (data : List Byte)
  /-- Poisoned data, or a request that its target refused. -/
  | bad
  | lost
  /-- The host answered an atomic with Unsupported Request. -/
  | noAtomic
  /-- A module without a free slot (R88). -/
  | busy
  deriving DecidableEq, Repr

/-- The data of an answer that brings some. -/
def Answer.data (r : Answer) : List Byte :=
  match r with
  | .done d => d
  | _ => []

/-! ## Parts of operations -/

/-- No copy of a line outside stays in the core of an operation (R268). -/
def State.uncache (s : State) (o : Op) (a : Nat) : State :=
  match s.opCore o with
  | some core => s.dropLine core (s.opCtx o) a
  | none => s

/-- A part of an access has its answer. -/
def State.accessAnswered (s : State) (o : Op) (b : AccessBody) (e : Ext) (i : Nat) (p : Part) (data : List Byte) (bad : Bool) : State :=
  ((s.uncache o e.ppa).partDone o b i p data bad).tryEnd o.id

/-- R507: once the host answers one part of an atomic with Unsupported Request, every part of the instruction that is not
performed, and is not on its way, parks. -/
def State.parkAtomics (s : State) (o : Op) (i : Nat) : State :=
  let host (p : Part) : Bool :=
    match p.state, p.place with
    | .waiting, .phys a => ppaKind a == 2
    | _, _ => false
  ((List.range o.parts.length).zip o.parts).foldl (fun s x =>
    if x.1 = i || host x.2 then
      s.parkPart o.id x.1 0x24 (match x.2.place with
        | .phys a => a
        | _ => 0)
    else s) s

/-- An answer for one part of an operation. -/
def State.partAnswered (s : State) (e : Ext) (id i : Nat) (r : Answer) : State :=
  match s.op id with
  | none => s
  | some o =>
    match o.partAt i, o.body, r with
    | none, _, _ => s
    | some _, _, .noAtomic => s.parkAtomics o i
    | some _, _, .lost => s.parkPart id i 0x22 e.ppa
    | some p, .access b, .done data => s.accessAnswered o b e i p data false
    | some p, .access b, _ =>
      if b.kind == .store then (s.partFails o i p cFatalFault).tryEnd id else s.accessAnswered o b e i p [] true
    | some _, _, .done data => (s.uncache o e.ppa).updPart id i (fun p => { p with state := .performed, data := data })
    | some _, _, _ => s.updPart id i (fun p => { p with state := .performed, poisoned := true })

/-- An answer for a part of a transfer. -/
def State.elemAnswered (s : State) (e : Ext) (id idx : Nat) (r : Answer) : State :=
  match s.op id with
  | none => s
  | some o =>
    match o.body with
    | .txf b =>
      let s := s.setTxf id (fun x => { x with sent := x.sent.filter (fun y => y != idx) })
      match r with
      | .done data => s.setTxf id (fun x => { x with got := x.got ++ [(idx, data)] })
      | .noAtomic => s.parkOp o (b.shape.dstOf (idx / 4)).toNat 0x24 e.ppa .atomic 2
      | .lost => s.endTransfer id stLinkLost
      | _ => if b.stage = 0 then s.endTransfer id stFault else s.setTxf id (fun x => { x with got := x.got ++ [(idx, [])] })
    | _ => s

/-- An answer for a queue operation: the result, and the entry. -/
def State.queueAnswered (s : State) (e : Ext) (id : Nat) (r : Answer) : State :=
  match s.op id with
  | none => s
  | some o =>
    match o.body, r with
    | .mq b, .done (res :: data) => (s.setMq id (fun _ => { b with answer := some (res.toNat, data) })).updPart id 0 (fun p => { p with state := .performed })
    | .mq _, .lost => s.parkPart id 0 0x22 e.ppa
    | .mq b, _ => (s.reportOp o cUncorrectable b.va 48 false).endOp id
    | _, _ => s

/-! ## Other requests -/

/-- A contribution through a relay has its answer (R88). -/
def State.itemAnswered (s : State) (id x : Nat) (r : Answer) : State :=
  match s.coll id with
  | none => s
  | some c =>
    let (m, k) := s.itemTarget c x
    let c := c.unsend x
    s.setColl (match r with
      | .done _ => c
      | .busy => { c with busy := c.busy ++ [(x, m, k)] }
      | .lost => c.failChunk (x / 64) true
      | _ => { c with fault := true })

/-- A line of a host window access has its answer. -/
def State.windowAnswered (s : State) (id off : Nat) (r : Answer) : State :=
  match s.host.windows.find? (fun w => w.id == id) with
  | none => s
  | some w =>
    let w := { w with sent := w.sent.filter (fun y => y != off) }
    let len := (((w.pieces (s.winVa w)).find? (fun p => p.1 == off)).map (fun p => p.2)).getD 0
    match r with
    | .done data => s.finishWin { w with got := w.got ++ [(off, data)] } (s.winVa w)
    | .lost => s.failWin w 1 0x22
    | _ => s.finishWin { w with got := w.got ++ [(off, List.replicate len 0)], bad := true } (s.winVa w)

/-- The status that a relayed delivery's answer carries back to its source (R59). -/
def Answer.status (r : Answer) : Nat :=
  match r with
  | .done _ => stDone
  | .lost => stLinkLost
  | .busy => stBusy
  | _ => stFault

/-- An answer reaches whoever waits for it. -/
def State.answerExt (s : State) (e : Ext) (r : Answer) : State :=
  let s := s.dropExt e.id
  match e.kind with
  | .part id i => s.partAnswered e id i r
  | .elem id idx => s.elemAnswered e id idx r
  | .queue id => s.queueAnswered e id r
  | .flush _ => s
  | .contribution c x => s.itemAnswered c x r
  | .delivery c x =>
    s.mapColl c (fun c =>
      match r with
      | .done _ => c.undeliver x
      | .lost => (c.undeliver x).failChunk (x / 128) true
      | _ => { c.undeliver x with fault := true })
  | .forward d => s.answerRelay d r.status 0 [] []
  | .window id off => s.windowAnswered id off r
  | .hart h =>
    (match r with
     | .done data => s.hartDone h data
     | _ => s.hartBad h)
  | .fetch who a =>
    (match r with
     | .done data => s.setFetch who a (some (data, false))
     | .lost => s.dropFetch who a
     | _ => s.setFetch who a (some ([], true)))
  | .log fn =>
    (match r with
     | .done _ => (s.logDone fn).writeLogs fn s.host.logs.length
     | _ => (s.logLost fn).writeLogs fn s.host.logs.length)

/-! ## Relay responses (R59, R70) -/

/-- Another request takes the place of the one that an asker waits for. -/
def State.moveExt (s : State) (k : ExtKind) (id : Nat) : State :=
  match k with
  | .part op i => s.updPart op i (fun p => { p with state := .sent id })
  | _ => s

/-- A request that cannot be sent now is made again by its asker. -/
def State.askAgain (s : State) (k : ExtKind) : State :=
  match k with
  | .part op i => s.updPart op i (fun p => { p with state := .waiting })
  | .elem op x => s.setTxf op (fun b => { b with sent := b.sent.filter (fun y => y != x) })
  | .window id off => { s with host := { s.host with windows := s.host.windows.map (fun w =>
      if w.id = id then { w with sent := w.sent.filter (fun y => y != off) } else w) } }
  | .fetch who a => s.setFetch who a none
  | .log fn => { s with host := { s.host with logSent := s.host.logSent.filter (fun k => k != fn) } }
  | _ => s

/-- The line that a partial write of a sealed line has read: merged, it is written back (R70). A line whose tag fails is as
poisoned as before, and takes no bytes (R71, R138). -/
def State.mergeLine (s : State) (e : Ext) (off : Nat) (bs plain : List Byte) (bad : Bool) : State :=
  if bad then s.answerExt e (.done [])
  else
    let s := s.dropExt e.id
    let m := modIndex e.ppa
    let line := plain.take off ++ bs ++ plain.drop (off + bs.length)
    match s.sendRelay e.port (((s.lineOfMod (s.port e.port).modid)[e.relay]?).getD 128) e.ctx
        { id := 0, kind := e.kind, host := false, ppa := e.ppa, len := e.len, write := true, tlb := e.tlb }
        { kind := 1, src := s.pod.pkg, dst := m, sealBit := true, key := s.ctxKey e.ctx, len := 64, target := modOff e.ppa / 64 * 64, data := line } with
    | (some id, s) => s.moveExt e.kind id
    | (none, s) => s.askAgain e.kind

/-- A response that brings data: a sealed line is opened, and a tag that fails counts as poison (R71). -/
def State.relayData (s : State) (e : Ext) (data : List Byte) (tags : List Seal) : State :=
  match e.off with
  | none => if tags.any (fun q => q.iv != []) then s.answerExt e .bad else s.answerExt e (.done data)
  | some off =>
    let (plain, bad) := openBytes (s.ctxKey e.ctx) data (tags.head?.getD {})
    match e.merge with
    | some bs => s.mergeLine e off bs plain bad
    | none => if bad then s.answerExt e .bad else s.answerExt e (.done ((plain.drop off).take e.len))

/-- The oldest response that head j has put into this package's region of module m. -/
def State.responseAt (s : State) (m j : Nat) : Option (List Byte) :=
  (s.myHead m).bind (fun h => s.ringHead m (relayRegion h j + respRing))

/-- The request that a response answers: of this package, or one that it has forwarded for another. -/
def State.answered (s : State) (d : RelayDesc) (h j : Nat) : Option Ext :=
  s.pod.ext.find? (fun e => !e.host && e.port == h && e.relay == j && e.rkind == d.kind && e.seq == d.seq
    && e.dst == d.dst + (if d.kind = 4 then 128 else 0) && d.src == (match e.kind with
      | .forward x => x.src
      | _ => s.pod.pkg))

/-- The status word of a response says how its request ended. -/
def State.relayAnswered (s : State) (e : Ext) (d : RelayDesc) (data : List Byte) (tags : List Seal) : State :=
  let code := d.status / 2 ^ 24
  if code = stDone then
    (match e.kind with
     | .queue _ => s.answerExt e (.done (BitVec.ofNat 8 d.queueRes :: data))
     | _ => s.relayData e data tags)
  else s.answerExt e (if code = stLinkLost then .lost else if code = stBusy then .busy else .bad)

/-- RELAY_RESPONSE: a module, and the head whose relay has answered (R59). The response leaves the ring. -/
def execRelayResponse (s : State) : Out :=
  match s.arg with
  | .pair m j =>
    (match s.responseAt m j with
     | none => .next s
     | some b =>
       let h := (s.myHead m).getD 0
       let d := RelayDesc.parse b m j
       let region := relayRegion h j
       let (data, tags) := if d.returns ≤ 16 then ((b.drop 32).take d.returns, []) else s.payloadAt m region d.payload d.returns
       let (_, _, s) := s.queueOp m (region + respRing) 64 false []
       .next ((s.answered d h j).elim s (fun e => s.relayAnswered e d data tags)))
  | _ => .next s

/-! ## Completions of the host (R129, R169) -/

def State.extFind (s : State) (id : Nat) (host : Bool) : Option Ext := s.pod.ext.find? (fun e => e.id == id && e.host == host)

/-- Whether a request to the host is an AtomicOp: not the read with which a CAS retry loop begins. -/
def Ext.isAtomic (e : Ext) : Bool :=
  match e.kind, e.loop with
  | .hart _, _ => false
  | .flush _, _ => false
  | _, some (_, _, none) => false
  | _, _ => e.write && e.len != 0

/-- A request to the host that failed: it posts HOSTERR, with DETAIL 1 UR, 2 CA, 3 timeout (R169). -/
def State.hostFails (s : State) (e : Ext) (detail : Nat) : State :=
  (s.answerExt e .bad).post (s.ctxFn e.ctx) 7 detail e.ctx (e.ppa % 2 ^ 57)

/-- The next CAS of a retry loop, which has read a value (R129): it expects that value; one that found it there is the last. -/
def State.casLoop (s : State) (e : Ext) (aop x : Nat) (expected : Option Nat) (data : List Byte) : State :=
  let old := ofBytes data
  if expected = some old then s.answerExt e (.done data)
  else
    let ext := s.pod.ext.map (fun y => if y.id = e.id then { y with loop := some (aop, x, some old) } else y)
    ({ s with pod := { s.pod with ext := ext } } : State).send .hostAtomic
      [e.id, e.ppa % 2 ^ 57, e.len, 9, atomicNew aop e.len old x 0, old, s.pasidOf e.ctx e.kind, e.attrs]

/-- HOST_COMPLETION: the request, its status (0 SC, 1 UR, 2 CA), and the data. -/
def execHostCompletion (s : State) : Out :=
  match s.arg with
  | .completion id status data =>
    match s.extFind id true with
    | none => .next s
    | some e =>
      .next (if status = 0 then
          (match e.loop with
           | some (aop, x, y) => s.casLoop e aop x y data
           | none => s.answerExt e (.done data))
        else if status = 1 && e.isAtomic then s.answerExt e .noAtomic
        else s.hostFails e status)
  | _ => .next s

/-- HOST_REQUEST_TIMEOUT: 50 ms have passed. -/
def execHostRequestTimeout (s : State) : Out :=
  match s.arg with
  | .unit id =>
    match s.extFind id true with
    | none => .next s
    | some e => .next (s.hostFails e 3)
  | _ => .next s

end Sys2Proof.Machine
end

