-- ==== Sys2Proof/Machine/Special.lean ====
section
/-!
DEFINITION. The special functions of the SF family (13 R397, Table 13-7), correctly rounded in every mode: exact
integer arithmetic for 1/A, 1/√A and √A; for the transcendental ones a fixed-point enclosure of 640 bits, far finer
than any FP32 rounding boundary a nonexact case can come near (DEDUCED, log 22), and their exact cases by name.
-/
namespace Sys2Proof.Machine

/-- ⌊√n⌋, bit by bit from bit `k`. -/
def isqrtFrom (n : Nat) : Nat → Nat → Nat
  | 0, r => r
  | k + 1, r => if (r + 2 ^ k) * (r + 2 ^ k) ≤ n then isqrtFrom n k (r + 2 ^ k) else isqrtFrom n k r

/-- ⌊√n⌋. -/
def isqrt (n : Nat) : Nat := isqrtFrom n (bitLen n / 2 + 1) 0

/-- Fraction bits of the fixed-point numbers. -/
def fxBits : Nat := 640
def fxOne : Nat := 2 ^ fxBits

def fxMul (a b : Nat) : Nat := a * b / fxOne

/-- Σ z^(2i+1)/(2i+1), from i on, with the sign alternating if `alt`: the series of atanh z and of arctan z. -/
def oddSeries (alt : Bool) (z2 : Nat) : Nat → Nat → Nat → Int → Int
  | 0, _, _, acc => acc
  | n + 1, i, p, acc =>
    let t : Int := (p / (2 * i + 1) : Nat)
    oddSeries alt z2 n (i + 1) (fxMul p z2) (if alt && i % 2 == 1 then acc - t else acc + t)

/-- atanh z for 0 ≤ z ≤ 1/3. -/
def fxAtanh (z : Nat) : Nat := (oddSeries false (fxMul z z) 210 0 z 0).toNat

/-- arctan(1/k). -/
def fxAtanInv (k : Nat) : Int := oddSeries true (fxOne / (k * k)) 150 0 (fxOne / k) 0

/-- ln 2 = 2 atanh(1/3). -/
def fxLn2 : Nat := 2 * fxAtanh (fxOne / 3)

/-- π = 16 arctan(1/5) − 4 arctan(1/239). -/
def fxPi : Nat := (16 * fxAtanInv 5 - 4 * fxAtanInv 239).toNat

/-- Σ x^i/i! from term i on: e^x for 0 ≤ x ≤ 1. -/
def expSeries (x : Nat) : Nat → Nat → Nat → Nat → Nat
  | 0, _, _, acc => acc
  | n + 1, i, t, acc => expSeries x n (i + 1) (fxMul t x / (i + 1)) (acc + t)

def fxExp (x : Nat) : Nat := expSeries x 150 0 fxOne 0

/-- Σ (−1)^i x^(2i+k)/(2i+k)!: sine for k = 1 with first term x, cosine for k = 0 with first term 1. -/
def trigSeries (x2 : Nat) (k : Nat) : Nat → Nat → Nat → Int → Int
  | 0, _, _, acc => acc
  | n + 1, i, t, acc =>
    trigSeries x2 k n (i + 1) (fxMul t x2 / ((2 * i + k + 1) * (2 * i + k + 2)))
      (if i % 2 == 1 then acc - (t : Nat) else acc + (t : Nat))

/-- sin(π t) and cos(π t) for t in [0, 1/2] in fixed point. -/
def fxSinPi (t : Nat) : Nat := let x := fxMul t fxPi; (trigSeries (fxMul x x) 1 90 0 x 0).toNat
def fxCosPi (t : Nat) : Nat := let x := fxMul t fxPi; (trigSeries (fxMul x x) 0 90 0 fxOne 0).toNat

/-- A transcendental fixed-point value as a truncated magnitude: the low bits, which the series does not settle, are
cut off and stand as the sticky part. -/
def fxResult (f : Fmt) (md : FpMode) (neg : Bool) (v : Nat) (e : Int) : Nat × Flags :=
  f.result md neg (v / 2 ^ 24) (e + 24 - fxBits) true

/-- m × 2^e as a fixed-point number (e + fxBits is not negative for the operands this is used on, or the low bits
are 0). -/
def fxOf (m : Nat) (e : Int) : Nat :=
  let s := e + fxBits
  if 0 ≤ s then m * 2 ^ s.toNat else m / 2 ^ (-s).toNat

/-- 1/A (R397). -/
def Fmt.rcp (f : Fmt) (md : FpMode) (a : Nat) : Nat × Flags :=
  match f.unpack a with
  | .nan _ => f.nanOf [a]
  | .inf n => (f.withSign n 0, {})
  | .fin n m e =>
    if m = 0 then (f.withSign n f.infCode, { dz := true })
    else f.result md n (2 ^ 200 / m) (-200 - e) (2 ^ 200 % m != 0)

/-- √A. -/
def Fmt.sqrt (f : Fmt) (md : FpMode) (a : Nat) : Nat × Flags :=
  match f.unpack a with
  | .nan _ => f.nanOf [a]
  | .inf n => if n then f.invalid else (a, {})
  | .fin n m e =>
    if m = 0 then (a, {})
    else if n then f.invalid
    else
      let m' := if e % 2 = 0 then m * 2 ^ 200 else m * 2 ^ 201
      let e' := if e % 2 = 0 then e - 200 else e - 201
      let r := isqrt m'
      f.result md false r (e' / 2) (r * r != m')

/-- 1/√A. -/
def Fmt.rsq (f : Fmt) (md : FpMode) (a : Nat) : Nat × Flags :=
  match f.unpack a with
  | .nan _ => f.nanOf [a]
  | .inf n => if n then f.invalid else (0, {})
  | .fin n m e =>
    if m = 0 then (f.withSign n f.infCode, {})
    else if n then f.invalid
    else
      let m' := if e % 2 = 0 then m else m * 2
      let e' := if e % 2 = 0 then e else e - 1
      let r := isqrt (2 ^ 400 / m')
      f.result md false r (-200 - e' / 2) (r * r * m' != 2 ^ 400)

/-- 2^A. -/
def Fmt.exp2 (f : Fmt) (md : FpMode) (a : Nat) : Nat × Flags :=
  match f.unpack a with
  | .nan _ => f.nanOf [a]
  | .inf n => if n then (0, {}) else (a, {})
  | .fin n m e =>
    if m = 0 then f.result md false 1 0 false
    else if 0 ≤ e && m * 2 ^ e.toNat > 4096 then f.result md false 1 (if n then -4096 else 4096) false
    else if 0 ≤ e then
      let k : Int := (m * 2 ^ e.toNat : Nat)
      f.result md false 1 (if n then -k else k) false
    else
      -- A = k + t with 0 ≤ t < 1
      let d := 2 ^ (-e).toNat
      let k : Int := if n then -((m + d - 1) / d : Nat) else (m / d : Nat)
      let tm := if n then (d - m % d) % d else m % d
      if k > 4096 then f.result md false 1 4096 false
      else if k < -4096 then f.result md false 1 (-4096) false
      else if tm = 0 then f.result md false 1 k false
      else fxResult f md false (fxExp (fxMul (fxOf tm e) fxLn2)) k

/-- log2 A. -/
def Fmt.log2 (f : Fmt) (md : FpMode) (a : Nat) : Nat × Flags :=
  match f.unpack a with
  | .nan _ => f.nanOf [a]
  | .inf n => if n then f.invalid else (a, {})
  | .fin n m e =>
    if m = 0 then (f.withSign true f.infCode, { dz := true })
    else if n then f.invalid
    else
      let k : Int := e + bitLen m - 1
      if m = 2 ^ (bitLen m - 1) then
        if k = 0 then (0, {}) else f.result md (k < 0) k.natAbs 0 false
      else
        -- y = m / 2^(len−1) in (1, 2); ln y = 2 atanh((y − 1)/(y + 1))
        let p := 2 ^ (bitLen m - 1)
        let l := 2 * fxAtanh ((m - p) * fxOne / (m + p))
        let lg : Int := (l * fxOne / fxLn2 : Nat)
        let s : Int := k * fxOne + lg
        fxResult f md (s < 0) s.natAbs 0

/-- A in half turns: A mod 2 as a numerator over 2^s, for A = m × 2^e with e < 0. -/
def halfTurns (m : Nat) (e : Int) : Nat × Nat :=
  let s := (-e).toNat
  (m % (2 * 2 ^ s), 2 ^ s)

/-- sin(πA). -/
def Fmt.sinPi (f : Fmt) (md : FpMode) (a : Nat) : Nat × Flags :=
  match f.unpack a with
  | .nan _ => f.nanOf [a]
  | .inf _ => f.invalid
  | .fin n m e =>
    if m = 0 || 0 ≤ e then (f.withSign n 0, {})
    else
      let (r, d) := halfTurns m e
      if r % d = 0 then (f.withSign n 0, {})
      else
        let neg := n != (d ≤ r)
        let t := r % d                        -- in (0, d), sin is positive
        if 2 * t = d then f.result md neg 1 0 false
        else fxResult f md neg (fxSinPi (fxOf (if 2 * t < d then t else d - t) e)) 0

/-- cos(πA). -/
def Fmt.cosPi (f : Fmt) (md : FpMode) (a : Nat) : Nat × Flags :=
  match f.unpack a with
  | .nan _ => f.nanOf [a]
  | .inf _ => f.invalid
  | .fin _ m e =>
    if m = 0 then f.result md false 1 0 false
    else if 0 ≤ e then f.result md (m * 2 ^ (if e > 1 then 1 else e.toNat) % 2 == 1 && e == 0) 1 0 false
    else
      let (r, d) := halfTurns m e
      if r % d = 0 then f.result md (r == d) 1 0 false
      else
        let t := if r ≥ d then 2 * d - r else r   -- cos is even about 1: t in (0, d)
        if 2 * t = d then (0, {})
        else if 2 * t < d then fxResult f md false (fxCosPi (fxOf t e)) 0
        else fxResult f md true (fxCosPi (fxOf (d - t) e)) 0

/-- Square a fixed-point number k times. -/
def fxSquare (v : Nat) : Nat → Nat
  | 0 => v
  | k + 1 => fxSquare (fxMul v v) k

/-- tanh A. -/
def Fmt.tanh (f : Fmt) (md : FpMode) (a : Nat) : Nat × Flags :=
  match f.unpack a with
  | .nan _ => f.nanOf [a]
  | .inf n => f.result md n 1 0 false
  | .fin n m e =>
    if m = 0 then (a, {})
    else if e + bitLen m > 6 then f.result md n (2 ^ 200 - 1) (-200) true   -- |A| ≥ 64: within 2^−180 below 1
    else
      -- e^(−2|A|) by 1/e^(r), r = 2|A| / 2^7 < 1, then squared 7 times
      let r := fxOf m (e + 1 - 7)
      let v := fxSquare (fxOne * fxOne / fxExp r) 7
      let t := (fxOne - v) * fxOne / (fxOne + v)
      fxResult f md n t 0

/-- The SF family on one FP32 operand by sub-op (Table 13-7), after NA and FTZI. -/
def specialFn (k : Nat) (md : FpMode) (a : Nat) : Nat × Flags :=
  let f := Fmt.f32
  let a := f.flushIn md a
  if k = 0 then f.rcp md a else if k = 1 then f.rsq md a else if k = 2 then f.sqrt md a
  else if k = 3 then f.exp2 md a else if k = 4 then f.log2 md a else if k = 5 then f.sinPi md a
  else if k = 6 then f.cosPi md a else f.tanh md a

end Sys2Proof.Machine
end

