-- ==== Sys2Proof/Machine/LaneFp.lean ====
section
/-!
DEFINITION. The floating-point lane forms (13 R389, R392 to R401): each computes under R385 from the formats'
arithmetic and finishes with its flags (R386).
-/
namespace Sys2Proof.Machine

/-- A one-word result in each active lane, with flags. -/
def State.fpWord (s : State) (n : Nat) (d : Nat) (m : Mask) (r : Nat → Nat × Flags) : Out :=
  s.finishFp n m (fun l => (r l).2) (fun w => w.wrV d m (fun l => BitVec.ofNat 32 (r l).1))

/-- A 64-bit result in each active lane, with flags. -/
def State.fpPair (s : State) (n : Nat) (d : Nat) (m : Mask) (r : Nat → Nat × Flags) : Out :=
  s.finishFp n m (fun l => (r l).2) (fun w => w.wrV64 d m (fun l => BitVec.ofNat 64 (r l).1))

/-- The two halves of a packed operation (R389): each computes and raises on its own. -/
def packed (f : Nat → Nat × Flags) (g : Nat → Nat × Flags) (lo hi : Nat) : Nat × Flags :=
  let (x, p) := f lo
  let (y, q) := g hi
  (x + 65536 * y, p.or q)

def loHalf (x : Word) : Nat := x.toNat % 65536
def hiHalf (x : Word) : Nat := x.toNat / 65536

/-- A packed operation of two operands. -/
def packed2 (f : Nat → Nat → Nat × Flags) (a b : Word) : Nat × Flags :=
  packed (fun _ => f (loHalf a) (loHalf b)) (fun _ => f (hiHalf a) (hiHalf b)) 0 0

/-- A packed operation of three operands. -/
def packed3 (f : Nat → Nat → Nat → Nat × Flags) (a b c : Word) : Nat × Flags :=
  packed (fun _ => f (loHalf a) (loHalf b) (loHalf c)) (fun _ => f (hiHalf a) (hiHalf b) (hiHalf c)) 0 0

/-! ## LA, R389 -/

/-- An LA floating-point form: FMODE's mode at issue, operands A and B. -/
def laFpOp (o : LaOps) (s : State) (f : FpMode → Word → Word → Nat × Flags) : Out :=
  s.checked o.req <|
    let w := s.warp
    s.fpWord o.size o.d.toNat (w.active o.g) (fun l => f w.mode (w.getV o.a.toNat l) (w.lsrc o.b l))

def execFadd (o : LaOps) (s : State) : Out := laFpOp o s (fun md a b => Fmt.f32.add md a.toNat b.toNat)
def execFsub (o : LaOps) (s : State) : Out := laFpOp o s (fun md a b => Fmt.f32.sub md a.toNat b.toNat)
def execFmul (o : LaOps) (s : State) : Out := laFpOp o s (fun md a b => Fmt.f32.mul md a.toNat b.toNat)
def execFmin (o : LaOps) (s : State) : Out := laFpOp o s (fun md a b => Fmt.f32.minMax md false a.toNat b.toNat)
def execFmax (o : LaOps) (s : State) : Out := laFpOp o s (fun md a b => Fmt.f32.minMax md true a.toNat b.toNat)
def execHadd2 (o : LaOps) (s : State) : Out := laFpOp o s (fun md a b => packed2 (Fmt.f16.add md) a b)
def execHmul2 (o : LaOps) (s : State) : Out := laFpOp o s (fun md a b => packed2 (Fmt.f16.mul md) a b)
def execBadd2 (o : LaOps) (s : State) : Out := laFpOp o s (fun md a b => packed2 (Fmt.bf16.add md) a b)
def execBmul2 (o : LaOps) (s : State) : Out := laFpOp o s (fun md a b => packed2 (Fmt.bf16.mul md) a b)

/-! ## FX and SF, R392 to R397 -/

/-- Negate an encoding where a modifier bit says so (R384). -/
def Fmt.negIf (f : Fmt) (n : Bool) (x : Nat) : Nat := if n then f.negate x else x

/-- An LX floating-point form on one-word operands; NA, NB and NC are applied by `f`. -/
def lxFpOp (o : LxOps) (s : State) (f : FpMode → Word → Word → Word → Nat × Flags) : Out :=
  s.checked (o.req 1 1 1 1) <|
    let w := s.warp
    s.fpWord o.size o.d.toNat (w.active o.g)
      (fun l => f (w.modeRm o.rm) (w.getV o.a.toNat l) (w.lsrc o.b l) (w.lsrc o.c l))

def execFma (o : LxOps) (s : State) : Out :=
  lxFpOp o s (fun md a b c => Fmt.f32.fma md (Fmt.f32.negIf o.na a.toNat) (Fmt.f32.negIf o.nb b.toNat)
    (Fmt.f32.negIf o.nc c.toNat))

def execFcmp (o : LxOps) (s : State) : Out :=
  s.checked (o.req 0 1 1 0) <|
    let w := s.warp
    let r (l : Nat) := Fmt.f32.test w.mode o.cc (Fmt.f32.negIf o.na (w.getV o.a.toNat l).toNat)
      (Fmt.f32.negIf o.nb (w.lsrc o.b l).toNat)
    s.finishFp o.size (w.active o.g) (fun l => (r l).2)
      (fun x => x.wrP o.d.toNat (w.active o.g) (fun l => o.combine w l (r l).1))

def execFrnd (o : LxOps) (s : State) : Out :=
  lxFpOp o s (fun md a _ _ => Fmt.f32.roundIntegral md (Fmt.f32.negIf o.na a.toNat))
def execFfract (o : LxOps) (s : State) : Out :=
  lxFpOp o s (fun md a _ _ => Fmt.f32.fract md (Fmt.f32.negIf o.na a.toNat))
def execFscale (o : LxOps) (s : State) : Out :=
  lxFpOp o s (fun md a b _ => Fmt.f32.scale md (Fmt.f32.negIf o.na a.toNat) b.toInt)
def execFclass (o : LxOps) (s : State) : Out := lxFpOp o s (fun _ a _ _ => (Fmt.f32.classMask a.toNat, {}))

/-- An SF form (R397). -/
def sfOp (o : LxOps) (s : State) (k : Nat) : Out :=
  lxFpOp o s (fun md a _ _ => specialFn k md (Fmt.f32.negIf o.na a.toNat))

def execRcp (o : LxOps) (s : State) : Out := sfOp o s 0
def execRsq (o : LxOps) (s : State) : Out := sfOp o s 1
def execSqrt (o : LxOps) (s : State) : Out := sfOp o s 2
def execExp2 (o : LxOps) (s : State) : Out := sfOp o s 3
def execLog2 (o : LxOps) (s : State) : Out := sfOp o s 4
def execSin (o : LxOps) (s : State) : Out := sfOp o s 5
def execCos (o : LxOps) (s : State) : Out := sfOp o s 6
def execTanh (o : LxOps) (s : State) : Out := sfOp o s 7

/-! ## HX, R398 -/

def hfma2Op (o : LxOps) (s : State) (f : Fmt) : Out :=
  lxFpOp o s (fun md a b c =>
    packed3 (fun x y z => f.fma md (f.negIf o.na x) (f.negIf o.nb y) (f.negIf o.nc z)) a b c)

def hminmaxOp (o : LxOps) (s : State) (f : Fmt) (max : Bool) : Out :=
  lxFpOp o s (fun md a b _ => packed2 (fun x y => f.minMax md max (f.negIf o.na x) (f.negIf o.nb y)) a b)

/-- A half whose condition holds is 0xFFFF, else 0. -/
def hcmp2Op (o : LxOps) (s : State) (f : Fmt) : Out :=
  lxFpOp o s (fun md a b _ => packed2 (fun x y =>
    let (t, fl) := f.test md o.aux.toNat (f.negIf o.na x) (f.negIf o.nb y)
    (if t then 0xFFFF else 0, fl)) a b)

def execHfma2 (o : LxOps) (s : State) : Out := hfma2Op o s .f16
def execBfma2 (o : LxOps) (s : State) : Out := hfma2Op o s .bf16
def execHmin2 (o : LxOps) (s : State) : Out := hminmaxOp o s .f16 false
def execHmax2 (o : LxOps) (s : State) : Out := hminmaxOp o s .f16 true
def execBmin2 (o : LxOps) (s : State) : Out := hminmaxOp o s .bf16 false
def execBmax2 (o : LxOps) (s : State) : Out := hminmaxOp o s .bf16 true
def execHcmp2 (o : LxOps) (s : State) : Out := hcmp2Op o s .f16
def execBcmp2 (o : LxOps) (s : State) : Out := hcmp2Op o s .bf16

/-! ## DX, R399 -/

/-- A DX form with an FP64 result; `nc` is 2 where c is an operand. -/
def dxOp (o : LxOps) (s : State) (nc : Nat) (f : FpMode → Nat → Nat → Nat → Nat × Flags) : Out :=
  s.checked (o.req 2 2 2 nc) <|
    let w := s.warp
    let d := Fmt.f64
    s.fpPair o.size o.d.toNat (w.active o.g) (fun l =>
      f (w.modeRm o.rm) (d.negIf o.na (w.getV64 o.a.toNat l).toNat) (d.negIf o.nb (w.lsrcF64 o.b l).toNat)
        (d.negIf o.nc (w.lsrcF64 o.c l).toNat))

/-- R389, R302: the negation of an operand of a sum is applied before any other step, NaNs included. -/
def execDadd (o : LxOps) (s : State) : Out := dxOp o s 0 (fun md a b _ => Fmt.f64.add md a b)
def execDmul (o : LxOps) (s : State) : Out := dxOp o s 0 (fun md a b _ => Fmt.f64.mul md a b)
def execDfma (o : LxOps) (s : State) : Out := dxOp o s 2 (fun md a b c => Fmt.f64.fma md a b c)
def execDmin (o : LxOps) (s : State) : Out := dxOp o s 0 (fun md a b _ => Fmt.f64.minMax md false a b)
def execDmax (o : LxOps) (s : State) : Out := dxOp o s 0 (fun md a b _ => Fmt.f64.minMax md true a b)

def execDcmp (o : LxOps) (s : State) : Out :=
  s.checked (o.req 0 2 2 0) <|
    let w := s.warp
    let d := Fmt.f64
    let r (l : Nat) := d.test w.mode o.cc (d.negIf o.na (w.getV64 o.a.toNat l).toNat)
      (d.negIf o.nb (w.lsrcF64 o.b l).toNat)
    s.finishFp o.size (w.active o.g) (fun l => (r l).2)
      (fun x => x.wrP o.d.toNat (w.active o.g) (fun l => o.combine w l (r l).1))

/-! ## CVT, R400, R401 -/

/-- The source bits of a conversion, with NA applied to a floating-point source. -/
def cvtSource (o : LxOps) (w : Warp) (src l : Nat) : Nat :=
  let x := if src = 8 then (w.getV64 o.a.toNat l).toNat else (w.getV o.a.toNat l).toNat % 2 ^ cvtBits src
  match cvtFmt src with
  | some f => f.negIf o.na x
  | none => x

def execCvt (o : LxOps) (s : State) : Out :=
  let dst := (o.aux.extractLsb' 0 4).toNat
  let src := (o.aux.extractLsb' 4 4).toNat
  s.checked (o.req (if dst = 8 then 2 else 1) (if src = 8 then 2 else 1) 0 0) <|
    let w := s.warp
    let r (l : Nat) := convert (w.modeRm o.rm) dst src o.sat (cvtSource o w src l)
    if dst = 8 then s.fpPair o.size o.d.toNat (w.active o.g) r else s.fpWord o.size o.d.toNat (w.active o.g) r

end Sys2Proof.Machine
end

