-- ==== Sys2Proof/Machine/CrossLane.lean ====
section
/-!
DEFINITION. The cross-lane forms (13 R407 to R413).
-/
namespace Sys2Proof.Machine

/-- The participants of a lane's tile: its active lanes (R407). -/
def Warp.peers (w : Warp) (m : Mask) (l : Nat) : Mask := tileMask w.part l &&& m

/-- SHFL (R408): the source lane, or none outside the tile. -/
def shflSource (mode t l n : Nat) : Option Nat :=
  let base := tileBase t l
  if mode = 0 then if n < t then some (base + n) else none
  else if mode = 1 then if n ≤ l - base then some (l - n) else none
  else if mode = 2 then if n < base + t - l then some (l + n) else none
  else if n % 32 < t then some (l ^^^ (n % 32)) else none

def execShfl (o : LxOps) (s : State) : Out :=
  s.checked { o.req 1 1 1 0 with conv := .tiles } <| s.finish o.size fun w =>
    w.wrV o.d.toNat (w.active o.g) (fun l =>
      w.getV o.a.toNat ((shflSource o.aux.toNat w.part l (w.lsrc o.b l).toNat).getD l))

/-- VOTE (R409). -/
def execVote (o : LxOps) (s : State) : Out :=
  s.checked { o.req (if o.aux = 3 then 1 else 0) 0 0 0 with conv := .tiles } <| s.finish o.size fun w =>
    let m := w.active o.g
    let yes : Mask := (if o.na then ~~~(w.getP o.a.toNat) else w.getP o.a.toNat) &&& m
    let part (l : Nat) : Mask := w.peers m l
    if o.aux = 3 then w.wrV o.d.toNat m (fun l => yes &&& part l)
    else w.wrP o.d.toNat m (fun l =>
      let y := yes &&& part l
      if o.aux = 0 then y = part l else if o.aux = 1 then y ≠ 0 else y = part l || y = 0)

/-- MATCH (R410). -/
def execMatchLanes (o : LxOps) (s : State) : Out :=
  let wide := o.aux.getLsbD 1
  s.checked { o.req 1 (if wide then 2 else 1) 0 0 with conv := .tiles } <| s.finish o.size fun w =>
    let m := w.active o.g
    let val (l : Nat) : Dword := if wide then w.getV64 o.a.toNat l else (w.getV o.a.toNat l).zeroExtend 64
    let same (l : Nat) : Mask := maskOf (fun k => inMask (w.peers m l) k && val k == val l)
    w.wrV o.d.toNat m (fun l =>
      if o.aux.getLsbD 0 then (if same l = w.peers m l then w.peers m l else 0) else same l)

/-- ELECT (R409). -/
def execElect (o : LxOps) (s : State) : Out :=
  s.checked { conv := .tiles } <| s.finish o.size fun w =>
    let m := w.active o.g
    w.wrP o.d.toNat m (fun l => lowestLane (w.peers m l) == l)

/-! ## Reductions, R411, R412 -/

/-- The integer and bitwise operations of Table 13-13. -/
def redInt (op : Nat) (a b : Word) : Word :=
  if op = 0 then a + b
  else if op = 1 then (if a.toInt ≤ b.toInt then a else b)
  else if op = 2 then (if a.toNat ≤ b.toNat then a else b)
  else if op = 3 then (if b.toInt ≤ a.toInt then a else b)
  else if op = 4 then (if b.toNat ≤ a.toNat then a else b)
  else if op = 5 then a &&& b
  else if op = 6 then a ||| b
  else a ^^^ b

/-- The identities of Table 13-13. -/
def redIdentity (op : Nat) : Word :=
  if op = 1 then 0x7FFFFFFF else if op = 2 then 0xFFFFFFFF else if op = 3 then 0x80000000 else if op = 5 then 0xFFFFFFFF
  else if op = 9 then 0x7F800000 else if op = 10 then 0xFF800000 else 0

/-- The exact FP32 sum of a set of terms, rounded once (R412). -/
def redFadd (md : FpMode) (xs : List Nat) : Nat × Flags :=
  let f := Fmt.f32
  let xs := xs.map (f.flushIn md)
  let iv := xs.any f.isSnan
  let pos := xs.any (fun x => f.isInf x && !f.neg x)
  let neg := xs.any (fun x => f.isInf x && f.neg x)
  match xs.find? f.isNan with
  | some x => (f.quiet x, { iv := iv })
  | none =>
    if pos && neg then f.invalid
    else if pos || neg then (f.withSign neg f.infCode, {})
    else
      -- every finite FP32 value is a multiple of 2^−149
      let t : Int := xs.foldl (fun a x =>
        match f.unpack x with
        | .fin n m e => let v : Int := (m * 2 ^ (e + 149).toNat : Nat); if n then a - v else a + v
        | _ => a) 0
      if t = 0 then
        let allZero := xs.all f.isZero
        (f.withSign (zeroSumNeg md.rm (allZero && xs.all f.neg) (allZero && xs.all (fun x => !f.neg x))) 0, {})
      else f.result md (t < 0) t.natAbs (-149) false

/-- FP32 minimum or maximum over a set of terms (R412, R304). -/
def redMinMax (md : FpMode) (max : Bool) (xs : List Nat) : Nat × Flags :=
  let f := Fmt.f32
  let xs := xs.map (f.flushIn md)
  let fl : Flags := { iv := xs.any f.isSnan }
  match xs.filter (fun x => !f.isNan x) with
  | [] => (f.quiet (xs.headD f.nan), fl)
  | y :: ys => f.select md (ys.foldl (fun a x => if max then (if f.below a x then x else a)
      else (if f.below x a then x else a)) y) fl

/-- The reduction of a set of lanes, in ascending order (R411). -/
def redLanes (op : Nat) (md : FpMode) (val : Nat → Word) (ls : List Nat) : Nat × Flags :=
  if op = 8 then redFadd md (ls.map (fun l => (val l).toNat))
  else if op = 9 then redMinMax md false (ls.map (fun l => (val l).toNat))
  else if op = 10 then redMinMax md true (ls.map (fun l => (val l).toNat))
  else
    match ls with
    | [] => ((redIdentity op).toNat, {})
    | l :: t => ((t.foldl (fun a k => redInt op a (val k)) (val l)).toNat, {})

def execRed (o : LxOps) (s : State) : Out :=
  s.checked { o.req 1 1 0 0 with conv := .tiles } <|
    let w := s.warp
    let m := w.active o.g
    s.fpWord o.size o.d.toNat m (fun l =>
      redLanes o.aux.toNat (w.modeRm o.rm) (w.getV o.a.toNat) (lanesOf (w.peers m l)))

def execScan (o : LxOps) (s : State) : Out :=
  s.checked { o.req 1 1 0 0 with conv := .tiles } <|
    let w := s.warp
    let m := w.active o.g
    let op := (o.aux.extractLsb' 0 4).toNat
    let excl := o.aux.getLsbD 4
    s.fpWord o.size o.d.toNat m (fun l =>
      let ls := (lanesOf (w.peers m l)).filter (fun k => k < l || (!excl && k == l))
      if ls.isEmpty then ((redIdentity op).toNat, {})
      else redLanes op (w.modeRm o.rm) (w.getV o.a.toNat) ls)

/-! ## Block records, R413 -/

/-- The words of a record: 2, 3 or 5. -/
def blockWords (k : Nat) : Nat := if k = 0 then 2 else if k = 1 then 3 else 5

/-- BPACK of one half-warp: inactive lanes contribute +0. -/
def packHalf (k : Nat) (w : Warp) (a : Nat) (m : Mask) (h : Nat) : BlockOut :=
  blockEncode k w.mode.satn ((List.range 16).map (fun i =>
    if inMask m (16 * h + i) then Fmt.f32.unpack (w.getV a (16 * h + i)).toNat else .fin false 0 0))

def execBpack (o : LxOps) (s : State) : Out :=
  s.checked { o.req 1 1 0 0 with conv := .tiles } <|
    if s.warp.part < 16 then .next (s.illegal 2)
    else
      let w := s.warp
      let m := w.active o.g
      let k := o.aux.toNat
      s.fpWord o.size o.d.toNat m (fun l =>
        let r := packHalf k w o.a.toNat m (l / 16)
        (if l % 16 < blockWords k then r.code / 2 ^ (32 * (l % 16)) % 2 ^ 32 else 0, r.fl))

def execBunpk (o : LxOps) (s : State) : Out :=
  s.checked { o.req 1 1 0 0 with conv := .tiles } <|
    if s.warp.part < 16 then .next (s.illegal 2)
    else s.finish o.size fun w =>
      let k := o.aux.toNat
      let code (h : Nat) : Nat := (List.range (blockWords k)).foldl (fun x i =>
        x + (w.getV o.a.toNat (16 * h + i)).toNat * 2 ^ (32 * i)) 0
      w.wrV o.d.toNat (w.active o.g) (fun l => BitVec.ofNat 32 (blockToF32 (blockElem k (code (l / 16)) (l % 16))))

end Sys2Proof.Machine
end

