-- ==== Sys2Proof/Machine/Issue.lean ====
section
/-!
DEFINITION. Beginning a clause, instruction-memory fills and the timers of issue (08 R249 to R256, R259; 11 R319, R320,
R325; 12 R374).
-/
namespace Sys2Proof.Machine

/-- A trap at a clause boundary (R259): TPC names the header in both halves. -/
def State.trapAt (s : State) (e : Entry) (t : TrapInfo) (tier : Bool := false) : State :=
  s.takeTrap e.pc e.resume e.mask t (tpcOf e.pc e.pc) tier

/-- The report that a clause with this WAIT takes first: the earliest in issue order (R259, R319). -/
def Warp.dueReport (w : Warp) (wait : BitVec 12) : Option Report :=
  (w.reports.filter (fun r => wait.getLsbD r.flag)).foldl (fun b r =>
    match b with
    | none => some r
    | some x => if r.order < x.order then some r else b) none

/-- Begin the clause of an entry whose header is well formed and whose WAIT is met: take a report that is due, or
start to issue (R250, R259, R262). -/
def State.startClause (s : State) (e : Entry) (h : Header) (words : List Word) : State :=
  let w := s.warp
  match w.dueReport h.wait with
  | some r =>
    let s := s.setWarp { w with reports := w.reports.erase r }
    s.trapAt e ⟨r.cause, r.mask.getD e.mask, r.addr, r.info.toNat⟩ r.tier
  | none =>
    let c : Clause := { active := true, hdr := e.pc, len := h.len, pc := e.resume.getD (e.pc + 1), words := words,
                        wait := h.wait, fa := h.fa, fb := h.fb, prio := h.prio, yld := h.yld, mask := e.mask, d := e.d,
                        resume := e.resume, spin := e.spin }
    s.setWarp { w with clause := c, stall := .none }

/-- `CLAUSE_BEGIN`: the warp issues from the first entry of its frontier whose clause may begin (R250, R253, R325). A
cancelled warp takes CANCELLED instead (R204, R259). -/
def execClauseBegin (s : State) : Out :=
  match s.arg with
  | .pair g w =>
    let s : State := { s with curG := g, curW := w }
    let x := s.warp
    if !s.ready (warpKey g w) || x.clause.active then .next s
    else
      let l := s.issueOrder s.group x
      if x.cancelled then
        match l with
        | [] => .next s
        | e :: _ => .next ((s.setWarp { x with cancelled := false }).trapAt e ⟨cCancelled, e.mask, 0, 0⟩)
      else
        match l.find? (s.mayBegin s.group x) with
        | none => .next s
        | some e =>
          match s.checkHeader s.group e.pc with
          | .miss => .next s
          | .bad reason => .next (s.trapAt e ⟨cIllegalClause, e.mask, 0, reason⟩)
          | .ok h words => .next (s.startClause e h words)
  | _ => .next s

/-! ## Fills of instruction memory (R320, R131) -/

/-- The virtual address of the block that holds a code address, its number, and how many bytes of it hold code. -/
def Slot.block (sl : Slot) (a : CodeAddr) : Nat × Nat × Nat :=
  let b := wordOf a / 256
  (sl.image + 64 + 1024 * b, b, 4 * min 256 (sl.length - 256 * b))

/-- The words of a block. -/
def wordsOf (bs : List Byte) : List Word :=
  (List.range (bs.length / 4)).map (fun i => BitVec.ofNat 32 (ofBytes ((bs.drop (4 * i)).take 4)))

/-- The fill for the current warp has failed (R134, R259): FATAL_FAULT at the word that needs the block, or at the first
entry that misses it (DEDUCED, log 35). -/
def State.fillFailed (s : State) (va : Nat) (tier : Bool) : State :=
  let w := s.warp
  let s := s.setWarp { w with wordFailed := none }
  if w.clause.active then
    let c := w.clause
    s.takeTrap c.hdr c.resume c.mask ⟨cFatalFault, c.mask, va, 0⟩ (tpcOf c.hdr c.pc) tier
  else
    match (s.issueOrder s.group w).find? (fun e => s.checkHeader s.group e.pc == .miss) with
    | none => s
    | some e => s.trapAt e ⟨cFatalFault, e.mask, va, 0⟩ tier

/-- A block enters the instruction memory of its core, which keeps only what is bound there and holds 256 blocks of 1 KiB: which one
makes room is not stated. -/
def State.putBlock (s : State) (x : ImemBlock) : State :=
  let kept := s.imem.filter (fun b => b.core != x.core || s.imemBound b)
  let here := kept.filter (fun b => b.core == x.core)
  if here.length < 256 then { s with imem := kept ++ [x] }
  else
    let (k, s) := s.pick here.length
    { s with imem := (here[k]?).elim kept (fun v => kept.filter (fun b => b != v)) ++ [x] }

/-- Fill the block of code address `a` for the current warp: the words, a parked fault, or a failure. -/
def State.fillBlock (s : State) (sl : Slot) (a : CodeAddr) : State :=
  let (va, b, n) := sl.block a
  let who := whoWarp (warpKey s.curG s.curW)
  match s.engRead who s.group.ctx va n with
  | (.ok bs, s) =>
    let s := (s.endFetches who).putBlock { core := s.group.coreId, ctx := s.group.ctx, image := sl.image, blk := b, words := wordsOf bs }
    if s.warp.stall == .imem then s.setWarp { s.warp with stall := .none } else s
  | (.wait, s) => s
  | (.park code at' ppa, s) =>
    let (t, s) := s.park s.group.ctx at' code ppa .read 0
    s.setWarp { s.warp with wordTag := t }
  | (.failed, s) => s.fillFailed va false

/-- Whether the warp misses the block of a code address: it stands on a core, and either no clause of it issues or the
issuing word waits for a block. -/
def State.mayFill (s : State) (a : CodeAddr) : Bool :=
  let w := s.warp
  (match s.group.place with
    | .core _ => true
    | _ => false) && w.live != 0 && w.wordTag.isNone && s.group.loaded a && (s.imemWord s.group a).isNone
    && (if w.clause.active then w.stall == .imem else !s.group.saving)

def execImemFill (s : State) : Out :=
  match s.arg with
  | .triple g w k =>
    let s : State := { s with curG := g, curW := w }
    let a : CodeAddr := BitVec.ofNat 16 k
    if !s.mayFill a then .next s
    else
      match s.group.slot (slotOf a) with
      | none => .next s
      | some sl =>
        match s.warp.wordFailed with
        | some code => .next (s.fillFailed (sl.block a).1 (code == 0x22))
        | none => .next (s.fillBlock sl a)
  | _ => .next s

/-! ## Timers of issue (R255, R256, R374) -/

def mapEntries (l : List Entry) (pc : CodeAddr) (f : Entry → Entry) : List Entry :=
  l.map (fun e => if e.pc == pc then f e else e)

/-- 1,024 cycles after the entry at a PC was demoted. -/
def execSpinDemotionExpiry (s : State) : Out :=
  match s.arg with
  | .triple g w k =>
    let pc : CodeAddr := BitVec.ofNat 16 k
    let x := s.warpAt g w
    let c := x.clause
    .next (s.putWarp g w { x with frontier := mapEntries x.frontier pc (fun e => { e with d := false }),
                                  hfront := mapEntries x.hfront pc (fun e => { e with d := false }),
                                  clause := if c.active && c.hdr == pc then { c with d := false } else c })
  | _ => .next s

/-- The sleep of the entry at a PC has elapsed. -/
def execSleepExpiry (s : State) : Out :=
  match s.arg with
  | .triple g w k =>
    let pc : CodeAddr := BitVec.ofNat 16 k
    let x := s.warpAt g w
    .next (s.putWarp g w { x with frontier := mapEntries x.frontier pc (fun e => { e with sleep := 0 }),
                                  hfront := mapEntries x.hfront pc (fun e => { e with sleep := 0 }) })
  | _ => .next s

/-- The warp has been ready for 4,096 cycles without issuing. -/
def execFairnessBoost (s : State) : Out :=
  match s.arg with
  | .pair g w => .next (s.putWarp g w { s.warpAt g w with boosted := true })
  | _ => .next s

/-- 64 cycles have passed since the warp yielded. -/
def execYieldTimeout (s : State) : Out :=
  match s.arg with
  | .pair g w => .next (s.putWarp g w { s.warpAt g w with yieldOn := [] })
  | _ => .next s

end Sys2Proof.Machine
end

