-- ==== Sys2Proof/Machine/LaneControl.lean ====
section
/-!
DEFINITION. The lane control transfers (12 R359 to R362).
-/
namespace Sys2Proof.Machine

/-- Move the lanes of `m` to their targets and every other lane of the entry to `next` (R254, R359). -/
def State.transfer (s : State) (m : Mask) (f : Nat → CodeAddr) : State :=
  let c := s.warp.clause
  let ts := groupTargets c.mask (fun l => if inMask m l then f l else c.next)
  s.closeClause (ts.map (fun t => (t.1, t.2, t.2 &&& m != 0)))

/-- The target of a relative lane branch (R335). -/
def lbTarget (o : LbOps) (c : Clause) : CodeAddr := c.pc + o.off.signExtend 16

def execBr (o : LbOps) (s : State) : Out :=
  s.checked {} <| .next (s.transfer (s.warp.active o.g) (fun _ => lbTarget o s.warp.clause))

def execCall (o : LbOps) (s : State) : Out :=
  s.checked { vs := [(o.d.toNat, 1)] } <|
    let w := s.warp
    let m := w.active o.g
    let s := s.setWarp (w.wrV o.d.toNat m (fun _ => w.clause.next.zeroExtend 32))
    .next (s.transfer m (fun _ => lbTarget o w.clause))

def execRet (o : LbOps) (s : State) : Out :=
  s.checked { vs := [(o.d.toNat, 1)] } <|
    let w := s.warp
    .next (s.transfer (w.active o.g) (fun l => (w.getV o.d.toNat l).extractLsb' 0 16))

/-- EXIT (R360, R361): the lanes leave the frontier. -/
def execExit (o : LbOps) (s : State) : Out :=
  s.checked {} <|
    let c := s.warp.clause
    let m := s.warp.active o.g
    .next (s.closeClause [(c.next, c.mask &&& ~~~m, false)]).endReports

/-- Whether every word of a jump table lies in loaded instruction memory (R321, R362). -/
def Group.tableLoaded (g : Group) (table count : Nat) : Bool :=
  table + count ≤ 65536 && (List.range 4).all (fun k =>
    let lo := max table (16384 * k)
    let hi := min (table + count) (16384 * (k + 1))
    hi ≤ lo || (match g.slot k with
      | none => false
      | some sl => hi - 16384 * k ≤ sl.length))

/-- The table word an index selects (R362). -/
def State.tableWord (s : State) (table : CodeAddr) (i : Nat) : Option Word :=
  s.imemWord s.group (table + BitVec.ofNat 16 i)

def execJmpi (o : JmpiOps) (s : State) : Out :=
  s.checked { vs := [(o.a.toNat, 1)] } <|
    let w := s.warp
    let m := w.active o.g
    if o.count = 0 then .next (s.illegal 2)
    else if !s.group.tableLoaded o.table.toNat o.count.toNat then .next (s.illegal 2)
    else
      let bad := maskOf (fun l => inMask m l && o.count.toNat ≤ (w.getV o.a.toNat l).toNat)
      if bad ≠ 0 then .next (s.trap ⟨cJumpRange, bad, 0, o.count.toNat⟩)
      else if (lanesOf m).any (fun l => (s.tableWord o.table (w.getV o.a.toNat l).toNat).isNone) then
        .next (s.stallFor .imem)
      else .next (s.transfer m (fun l =>
        ((s.tableWord o.table (w.getV o.a.toNat l).toNat).getD 0).extractLsb' 0 16))

end Sys2Proof.Machine
end

