-- ==== Sys2Proof/Machine/UniformControl.lean ====
section
/-!
DEFINITION. The uniform control transfers (12 R363, R364).
-/
namespace Sys2Proof.Machine

/-- Move every lane of the entry to one target (R254). -/
def State.jump (s : State) (t : CodeAddr) : State := s.transfer s.warp.clause.mask (fun _ => t)

def ubTarget (o : UbOps) (c : Clause) : CodeAddr := c.pc + o.off

/-- The low 16 bits of an s register as a code address. -/
def Warp.codeOf (w : Warp) (r : Nat) : CodeAddr := (w.getS r).extractLsb' 0 16

def execBru (o : UbOps) (s : State) : Out :=
  s.checked {} <| s.guarded o.q 1 <| .next (s.jump (ubTarget o s.warp.clause))

def execCallu (o : UbOps) (s : State) : Out :=
  s.checked {} <| s.guarded o.q 1 <|
    let c := s.warp.clause
    .next ((s.setWarp (s.warp.wrS o.r.toNat (c.next.zeroExtend 32))).jump (ubTarget o c))

def execRetu (o : UbOps) (s : State) : Out :=
  s.checked {} <| s.guarded o.q 1 <| .next (s.jump (s.warp.codeOf o.r.toNat))

def execJmpu (o : JmpuOps) (s : State) : Out :=
  s.checked {} <| s.guarded o.q 2 <|
    if o.count = 0 then .next (s.illegal 2)
    else if !s.group.tableLoaded o.table.toNat o.count.toNat then .next (s.illegal 2)
    else
      let i := (s.warp.getS o.r.toNat).toNat
      if o.count.toNat ≤ i then .next (s.trapEntry cJumpRange o.count.toNat)
      else
        match s.tableWord o.table i with
        | none => .next (s.stallFor .imem)
        | some t => .next (s.jump (t.extractLsb' 0 16))

/-- The slot that overlay `k` is bound at, if it is bound (R350: an overlay is bound at its home slot alone). -/
def Group.slotWith (g : Group) (k : Nat) : Option Nat :=
  (List.range 4).find? (fun i => (g.slot i).any (fun sl => sl.ovl == k))

def execCallx (o : CallxOps) (s : State) : Out :=
  s.checked {} <| s.guarded o.q 2 <|
    let c := s.warp.clause
    match s.group.slotWith o.ovl.toNat with
    | none => .next (s.trapEntry cOverlayAbsent o.ovl.toNat)
    | some home =>
      let k := ((s.group.slot (slotOf c.pc)).map (fun sl => sl.ovl)).getD 0
      let link : Word := c.next.zeroExtend 32 ||| (BitVec.ofNat 32 k <<< 16) ||| 0x80000000
      .next ((s.setWarp (s.warp.wrS o.r.toNat link)).jump (BitVec.ofNat 16 (16384 * home + o.off.toNat)))

def execRetx (o : UbOps) (s : State) : Out :=
  s.checked {} <| s.guarded o.q 1 <|
    let l := s.warp.getS o.r.toNat
    let k := (l.extractLsb' 16 4).toNat
    if !l.getLsbD 31 || !(s.group.slot (l.extractLsb' 14 2).toNat).any (fun sl => sl.ovl == k) then
      .next (s.trapEntry cOverlayAbsent k)
    else .next (s.jump (l.extractLsb' 0 16))

def execExitw (o : UbOps) (s : State) : Out :=
  s.checked { conv := .live } <| s.guarded o.q 1 <| .next (s.closeClause []).endReports

def execNop (_ : UbOps) (s : State) : Out := s.checked {} <| .next (s.retire 1)

end Sys2Proof.Machine
end

