-- ==== Sys2Proof/Machine/XAcc.lean ====
section
/-!
DEFINITION. The exact-accumulator forms (13 R402 to R405).
-/
namespace Sys2Proof.Machine

/-- The format of an XADD or XSUB term (Table 13-11): FP32, FP16, BF16, INT32, FP64. -/
def xaTerm (fmt : Nat) (w : Warp) (b : LSrc) (l : Nat) : FVal :=
  if fmt = 0 then Fmt.f32.unpack (w.lsrc b l).toNat
  else if fmt = 1 then Fmt.f16.unpack ((w.lsrc b l).toNat % 65536)
  else if fmt = 2 then Fmt.bf16.unpack ((w.lsrc b l).toNat % 65536)
  else if fmt = 3 then let x := (w.lsrc b l).toInt; .fin (x < 0) x.natAbs 0
  else Fmt.f64.unpack (w.lsrcF64 b l).toNat

/-- Tile mode: base + 32/t must not exceed 16. -/
def tilesPast (t : Bool) (base part : Nat) : Bool := t && 16 < base + 32 / part

/-- The tiles that hold a lane of a mask. -/
def tilesOf (part : Nat) (m : Mask) : List Nat := (List.range (32 / part)).filter (fun j => (lanesOf m).any (fun l => l / part == j))

def execXclr (o : LxOps) (s : State) : Out :=
  let n := (o.aux.extractLsb' 0 4).toNat + 1
  s.checked { eBad := 16 < o.d.toNat + n } <| s.finish o.size fun w =>
    if w.active o.g = 0 then w
    else (List.range n).foldl (fun w i => w.setE (o.d.toNat + i) Acc.clear) w

/-- XADD and XSUB (R403): one-lane mode adds b of the lowest active lane; tile mode adds each tile's terms in one exact
addition. A term that signals raises IV in its lane. -/
def xaddOp (o : LxOps) (s : State) (negate : Bool) : Out :=
  let t := o.aux.getLsbD 0
  let fmt := (o.aux.extractLsb' 1 3).toNat
  let nb := if fmt = 4 then 2 else 1
  s.checked { o.req 0 0 nb 0 with eBad := tilesPast t o.d.toNat s.warp.part, conv := if t then .tiles else .none } <|
    let w := s.warp
    let m := w.active o.g
    let used : Mask := if t then m else if m = 0 then 0 else 1#32 <<< lowestLane m
    let add (w : Warp) (r : Nat) (ls : List Nat) : Warp × Flags :=
      if ls.isEmpty then (w, {})
      else
        let (a, fl) := (w.getE r).addTerms negate (ls.map (xaTerm fmt w o.b))
        (w.setE r a, fl)
    let (w', all) :=
      if t then
        (tilesOf w.part w.clause.mask).foldl (fun (p : Warp × Flags) j =>
          let (x, fl) := add p.1 (o.d.toNat + j) ((lanesOf m).filter (fun l => l / w.part == j))
          (x, p.2.or fl)) (w, {})
      else add w o.d.toNat (lanesOf used)
    s.finishFp o.size used
      (fun l => { iv := xaTerm fmt w o.b l == .nan true, xo := all.xo }) (fun _ => w')

def execXadd (o : LxOps) (s : State) : Out := xaddOp o s false
def execXsub (o : LxOps) (s : State) : Out := xaddOp o s true

/-- The register lane l reads in a reading form (R402). -/
def xaReg (t : Bool) (base part l : Nat) : Nat := if t then base + l / part else base

def execXrnd (o : LxOps) (s : State) : Out :=
  let wide := o.aux.getLsbD 0
  let t := o.aux.getLsbD 1
  s.checked { o.req (if wide then 2 else 1) 0 0 0 with eBad := tilesPast t o.a.toNat s.warp.part } <|
    let w := s.warp
    let rm := (w.modeRm o.rm).rm
    let r (l : Nat) := (w.getE (xaReg t o.a.toNat w.part l)).round (if wide then Fmt.f64 else Fmt.f32) rm
    if wide then s.fpPair o.size o.d.toNat (w.active o.g) r else s.fpWord o.size o.d.toNat (w.active o.g) r

def execXget (o : LxOps) (s : State) : Out :=
  let t := o.aux.getLsbD 4
  s.checked { o.req 1 0 0 0 with eBad := tilesPast t o.a.toNat s.warp.part } <| s.finish o.size fun w =>
    w.wrV o.d.toNat (w.active o.g) (fun l => (w.getE (xaReg t o.a.toNat w.part l)).word (o.aux.extractLsb' 0 4).toNat)

def execXset (o : LxOps) (s : State) : Out :=
  s.checked (o.req 0 0 1 0) <| s.finish o.size fun w =>
    if w.active o.g = 0 then w
    else w.setE o.d.toNat ((w.getE o.d.toNat).setWord o.aux.toNat (w.lsrc o.b (lowestLane (w.active o.g))))

/-- XMOV and XMOV.ADD (R405); the sum that leaves the range sets XO. -/
def execXmov (o : LxOps) (s : State) : Out :=
  s.checked {} <|
    let w := s.warp
    let m := w.active o.g
    let (a, fl) := if o.aux.getLsbD 0 then (w.getE o.d.toNat).addAcc (w.getE o.a.toNat) else (w.getE o.a.toNat, {})
    s.finishFp o.size m (fun _ => fl) (fun w => if m = 0 then w else w.setE o.d.toNat a)

def execXstat (o : LxOps) (s : State) : Out :=
  let t := o.aux.getLsbD 0
  s.checked { o.req 1 0 0 0 with eBad := tilesPast t o.a.toNat s.warp.part } <| s.finish o.size fun w =>
    w.wrV o.d.toNat (w.active o.g) (fun l => (w.getE (xaReg t o.a.toNat w.part l)).stat)

end Sys2Proof.Machine
end

