-- ==== Sys2Proof/Machine/Dispatch.lean ====
section
/-!
DEFINITION. One arm for each row of the opcode table: a direct call of its meaning. A word carries its fields; a device
event finds its operands in `arg`.
-/
namespace Sys2Proof.Machine

def exec (i : Instr) (s : State) : Host.Outcome State Fault Refusal :=
  match i with
  | .iadd o => Sys2Proof.Machine.execIadd o s
  | .isub o => Sys2Proof.Machine.execIsub o s
  | .imul o => Sys2Proof.Machine.execImul o s
  | .iadds o => Sys2Proof.Machine.execIadds o s
  | .isubs o => Sys2Proof.Machine.execIsubs o s
  | .iminS o => Sys2Proof.Machine.execIminS o s
  | .iminU o => Sys2Proof.Machine.execIminU o s
  | .imaxS o => Sys2Proof.Machine.execImaxS o s
  | .imaxU o => Sys2Proof.Machine.execImaxU o s
  | .and o => Sys2Proof.Machine.execAnd o s
  | .or o => Sys2Proof.Machine.execOr o s
  | .xor o => Sys2Proof.Machine.execXor o s
  | .andn o => Sys2Proof.Machine.execAndn o s
  | .shl o => Sys2Proof.Machine.execShl o s
  | .shrU o => Sys2Proof.Machine.execShrU o s
  | .shrS o => Sys2Proof.Machine.execShrS o s
  | .rotr o => Sys2Proof.Machine.execRotr o s
  | .mov o => Sys2Proof.Machine.execMov o s
  | .fadd o => Sys2Proof.Machine.execFadd o s
  | .fsub o => Sys2Proof.Machine.execFsub o s
  | .fmul o => Sys2Proof.Machine.execFmul o s
  | .fmin o => Sys2Proof.Machine.execFmin o s
  | .fmax o => Sys2Proof.Machine.execFmax o s
  | .hadd2 o => Sys2Proof.Machine.execHadd2 o s
  | .hmul2 o => Sys2Proof.Machine.execHmul2 o s
  | .badd2 o => Sys2Proof.Machine.execBadd2 o s
  | .bmul2 o => Sys2Proof.Machine.execBmul2 o s
  | .imulhiS o => Sys2Proof.Machine.execImulhiS o s
  | .imulhiU o => Sys2Proof.Machine.execImulhiU o s
  | .imad o => Sys2Proof.Machine.execImad o s
  | .bfeU o => Sys2Proof.Machine.execBfeU o s
  | .bfeS o => Sys2Proof.Machine.execBfeS o s
  | .bfi o => Sys2Proof.Machine.execBfi o s
  | .popc o => Sys2Proof.Machine.execPopc o s
  | .clz o => Sys2Proof.Machine.execClz o s
  | .brev o => Sys2Proof.Machine.execBrev o s
  | .prmt o => Sys2Proof.Machine.execPrmt o s
  | .lea o => Sys2Proof.Machine.execLea o s
  | .iadd3 o => Sys2Proof.Machine.execIadd3 o s
  | .isad o => Sys2Proof.Machine.execIsad o s
  | .icmp o => Sys2Proof.Machine.execIcmp o s
  | .sel o => Sys2Proof.Machine.execSel o s
  | .iadd64 o => Sys2Proof.Machine.execIadd64 o s
  | .fma o => Sys2Proof.Machine.execFma o s
  | .fcmp o => Sys2Proof.Machine.execFcmp o s
  | .frnd o => Sys2Proof.Machine.execFrnd o s
  | .ffract o => Sys2Proof.Machine.execFfract o s
  | .fscale o => Sys2Proof.Machine.execFscale o s
  | .fclass o => Sys2Proof.Machine.execFclass o s
  | .rcp o => Sys2Proof.Machine.execRcp o s
  | .rsq o => Sys2Proof.Machine.execRsq o s
  | .sqrt o => Sys2Proof.Machine.execSqrt o s
  | .exp2 o => Sys2Proof.Machine.execExp2 o s
  | .log2 o => Sys2Proof.Machine.execLog2 o s
  | .sin o => Sys2Proof.Machine.execSin o s
  | .cos o => Sys2Proof.Machine.execCos o s
  | .tanh o => Sys2Proof.Machine.execTanh o s
  | .hfma2 o => Sys2Proof.Machine.execHfma2 o s
  | .bfma2 o => Sys2Proof.Machine.execBfma2 o s
  | .hmin2 o => Sys2Proof.Machine.execHmin2 o s
  | .hmax2 o => Sys2Proof.Machine.execHmax2 o s
  | .bmin2 o => Sys2Proof.Machine.execBmin2 o s
  | .bmax2 o => Sys2Proof.Machine.execBmax2 o s
  | .hcmp2 o => Sys2Proof.Machine.execHcmp2 o s
  | .bcmp2 o => Sys2Proof.Machine.execBcmp2 o s
  | .dadd o => Sys2Proof.Machine.execDadd o s
  | .dmul o => Sys2Proof.Machine.execDmul o s
  | .dfma o => Sys2Proof.Machine.execDfma o s
  | .dmin o => Sys2Proof.Machine.execDmin o s
  | .dmax o => Sys2Proof.Machine.execDmax o s
  | .dcmp o => Sys2Proof.Machine.execDcmp o s
  | .cvt o => Sys2Proof.Machine.execCvt o s
  | .xclr o => Sys2Proof.Machine.execXclr o s
  | .xadd o => Sys2Proof.Machine.execXadd o s
  | .xsub o => Sys2Proof.Machine.execXsub o s
  | .xrnd o => Sys2Proof.Machine.execXrnd o s
  | .xget o => Sys2Proof.Machine.execXget o s
  | .xset o => Sys2Proof.Machine.execXset o s
  | .xmov o => Sys2Proof.Machine.execXmov o s
  | .xstat o => Sys2Proof.Machine.execXstat o s
  | .shfl o => Sys2Proof.Machine.execShfl o s
  | .vote o => Sys2Proof.Machine.execVote o s
  | .matchLanes o => Sys2Proof.Machine.execMatchLanes o s
  | .elect o => Sys2Proof.Machine.execElect o s
  | .red o => Sys2Proof.Machine.execRed o s
  | .scan o => Sys2Proof.Machine.execScan o s
  | .bpack o => Sys2Proof.Machine.execBpack o s
  | .bunpk o => Sys2Proof.Machine.execBunpk o s
  | .plop3 o => Sys2Proof.Machine.execPlop3 o s
  | .p2v o => Sys2Proof.Machine.execP2v o s
  | .v2p o => Sys2Proof.Machine.execV2p o s
  | .br o => Sys2Proof.Machine.execBr o s
  | .call o => Sys2Proof.Machine.execCall o s
  | .ret o => Sys2Proof.Machine.execRet o s
  | .exit o => Sys2Proof.Machine.execExit o s
  | .jmpi o => Sys2Proof.Machine.execJmpi o s
  | .ld o => Sys2Proof.Machine.execLd o s
  | .st o => Sys2Proof.Machine.execSt o s
  | .atom o => Sys2Proof.Machine.execAtom o s
  | .cpa o => Sys2Proof.Machine.execCpa o s
  | .ardl o => Sys2Proof.Machine.execArdl o s
  | .uiadd o => Sys2Proof.Machine.execUiadd o s
  | .uisub o => Sys2Proof.Machine.execUisub o s
  | .uimul o => Sys2Proof.Machine.execUimul o s
  | .uminS o => Sys2Proof.Machine.execUminS o s
  | .uminU o => Sys2Proof.Machine.execUminU o s
  | .umaxS o => Sys2Proof.Machine.execUmaxS o s
  | .umaxU o => Sys2Proof.Machine.execUmaxU o s
  | .uand o => Sys2Proof.Machine.execUand o s
  | .uor o => Sys2Proof.Machine.execUor o s
  | .uxor o => Sys2Proof.Machine.execUxor o s
  | .uandn o => Sys2Proof.Machine.execUandn o s
  | .ushl o => Sys2Proof.Machine.execUshl o s
  | .ushrU o => Sys2Proof.Machine.execUshrU o s
  | .ushrS o => Sys2Proof.Machine.execUshrS o s
  | .umov o => Sys2Proof.Machine.execUmov o s
  | .uimulhiS o => Sys2Proof.Machine.execUimulhiS o s
  | .uimulhiU o => Sys2Proof.Machine.execUimulhiU o s
  | .ucmp o => Sys2Proof.Machine.execUcmp o s
  | .usel o => Sys2Proof.Machine.execUsel o s
  | .upopc o => Sys2Proof.Machine.execUpopc o s
  | .uclz o => Sys2Proof.Machine.execUclz o s
  | .ubfeU o => Sys2Proof.Machine.execUbfeU o s
  | .ubfi o => Sys2Proof.Machine.execUbfi o s
  | .uiadd64 o => Sys2Proof.Machine.execUiadd64 o s
  | .ulea64 o => Sys2Proof.Machine.execUlea64 o s
  | .uqlop o => Sys2Proof.Machine.execUqlop o s
  | .urdl o => Sys2Proof.Machine.execUrdl o s
  | .uwrl o => Sys2Proof.Machine.execUwrl o s
  | .bru o => Sys2Proof.Machine.execBru o s
  | .callu o => Sys2Proof.Machine.execCallu o s
  | .retu o => Sys2Proof.Machine.execRetu o s
  | .jmpu o => Sys2Proof.Machine.execJmpu o s
  | .callx o => Sys2Proof.Machine.execCallx o s
  | .retx o => Sys2Proof.Machine.execRetx o s
  | .exitw o => Sys2Proof.Machine.execExitw o s
  | .nop o => Sys2Proof.Machine.execNop o s
  | .trap o => Sys2Proof.Machine.execTrap o s
  | .brkpt o => Sys2Proof.Machine.execBrkpt o s
  | .svc o => Sys2Proof.Machine.execSvc o s
  | .eret o => Sys2Proof.Machine.execEret o s
  | .srd o => Sys2Proof.Machine.execSrd o s
  | .swr o => Sys2Proof.Machine.execSwr o s
  | .smode o => Sys2Proof.Machine.execSmode o s
  | .part o => Sys2Proof.Machine.execPart o s
  | .ovlld o => Sys2Proof.Machine.execOvlld o s
  | .yield o => Sys2Proof.Machine.execYield o s
  | .sleep o => Sys2Proof.Machine.execSleep o s
  | .waitmem o => Sys2Proof.Machine.execWaitmem o s
  | .fence o => Sys2Proof.Machine.execFence o s
  | .pub o => Sys2Proof.Machine.execPub o s
  | .barInit o => Sys2Proof.Machine.execBarInit o s
  | .barArrive o => Sys2Proof.Machine.execBarArrive o s
  | .barExpect o => Sys2Proof.Machine.execBarExpect o s
  | .barWait o => Sys2Proof.Machine.execBarWait o s
  | .barTest o => Sys2Proof.Machine.execBarTest o s
  | .barInval o => Sys2Proof.Machine.execBarInval o s
  | .launch o => Sys2Proof.Machine.execLaunch o s
  | .cntadd o => Sys2Proof.Machine.execCntadd o s
  | .cancel o => Sys2Proof.Machine.execCancel o s
  | .cntwait o => Sys2Proof.Machine.execCntwait o s
  | .uld o => Sys2Proof.Machine.execUld o s
  | .ust o => Sys2Proof.Machine.execUst o s
  | .uatom o => Sys2Proof.Machine.execUatom o s
  | .txf o => Sys2Proof.Machine.execTxf o s
  | .txcan o => Sys2Proof.Machine.execTxcan o s
  | .mqEnq o => Sys2Proof.Machine.execMqEnq o s
  | .mqDeq o => Sys2Proof.Machine.execMqDeq o s
  | .qfuse o => Sys2Proof.Machine.execQfuse o s
  | .wload o => Sys2Proof.Machine.execWload o s
  | .wswap o => Sys2Proof.Machine.execWswap o s
  | .mms o => Sys2Proof.Machine.execMms o s
  | .aclr o => Sys2Proof.Machine.execAclr o s
  | .adrn o => Sys2Proof.Machine.execAdrn o s
  | .mstat o => Sys2Proof.Machine.execMstat o s
  | .coldReset => Sys2Proof.Machine.execColdReset s
  | .pwrgoodFall => Sys2Proof.Machine.execPwrgoodFall s
  | .perstNAssert => Sys2Proof.Machine.execPerstNAssert s
  | .rstctlWarm => Sys2Proof.Machine.execRstctlWarm s
  | .bootRom => Sys2Proof.Machine.execBootRom s
  | .bootStage1 => Sys2Proof.Machine.execBootStage1 s
  | .bootStage2Load => Sys2Proof.Machine.execBootStage2Load s
  | .bootStage2 => Sys2Proof.Machine.execBootStage2 s
  | .bootReady => Sys2Proof.Machine.execBootReady s
  | .configurationRequest => Sys2Proof.Machine.execConfigurationRequest s
  | .thermalSensorReading => Sys2Proof.Machine.execThermalSensorReading s
  | .throtNChange => Sys2Proof.Machine.execThrotNChange s
  | .heatFluxWindow => Sys2Proof.Machine.execHeatFluxWindow s
  | .pwrlimWindowEnd => Sys2Proof.Machine.execPwrlimWindowEnd s
  | .pwrlimWrite => Sys2Proof.Machine.execPwrlimWrite s
  | .clockStepDown => Sys2Proof.Machine.execClockStepDown s
  | .throttleExitTimer => Sys2Proof.Machine.execThrottleExitTimer s
  | .clockStepUp => Sys2Proof.Machine.execClockStepUp s
  | .rollbackRaise => Sys2Proof.Machine.execRollbackRaise s
  | .getVersion => Sys2Proof.Machine.execGetVersion s
  | .getCapabilities => Sys2Proof.Machine.execGetCapabilities s
  | .negotiateAlgorithms => Sys2Proof.Machine.execNegotiateAlgorithms s
  | .getDigests => Sys2Proof.Machine.execGetDigests s
  | .getCertificate => Sys2Proof.Machine.execGetCertificate s
  | .challenge => Sys2Proof.Machine.execChallenge s
  | .getMeasurements => Sys2Proof.Machine.execGetMeasurements s
  | .keyExchange => Sys2Proof.Machine.execKeyExchange s
  | .finish => Sys2Proof.Machine.execFinish s
  | .keyUpdate => Sys2Proof.Machine.execKeyUpdate s
  | .boardIdentityMessage => Sys2Proof.Machine.execBoardIdentityMessage s
  | .portRetrain => Sys2Proof.Machine.execPortRetrain s
  | .portTrainingDone => Sys2Proof.Machine.execPortTrainingDone s
  | .podcfgEn => Sys2Proof.Machine.execPodcfgEn s
  | .flitReceive => Sys2Proof.Machine.execFlitReceive s
  | .idleFlit => Sys2Proof.Machine.execIdleFlit s
  | .linkTimeout => Sys2Proof.Machine.execLinkTimeout s
  | .rekeyStart => Sys2Proof.Machine.execRekeyStart s
  | .rekeyBankErase => Sys2Proof.Machine.execRekeyBankErase s
  | .bisnpcur => Sys2Proof.Machine.execBisnpcur s
  | .bisnpdata => Sys2Proof.Machine.execBisnpdata s
  | .bisnpinv => Sys2Proof.Machine.execBisnpinv s
  | .homeReadShared => Sys2Proof.Machine.execHomeReadShared s
  | .homeReadOwn => Sys2Proof.Machine.execHomeReadOwn s
  | .homeWriteBack => Sys2Proof.Machine.execHomeWriteBack s
  | .homeCleanEvict => Sys2Proof.Machine.execHomeCleanEvict s
  | .farAtomic => Sys2Proof.Machine.execFarAtomic s
  | .moduleQueueEnqueue => Sys2Proof.Machine.execModuleQueueEnqueue s
  | .moduleQueueDequeue => Sys2Proof.Machine.execModuleQueueDequeue s
  | .snoopTimeout => Sys2Proof.Machine.execSnoopTimeout s
  | .moduleHeadLoss => Sys2Proof.Machine.execModuleHeadLoss s
  | .moduleFailure => Sys2Proof.Machine.execModuleFailure s
  | .podRecordArrival => Sys2Proof.Machine.execPodRecordArrival s
  | .relayWrite => Sys2Proof.Machine.execRelayWrite s
  | .relayRead => Sys2Proof.Machine.execRelayRead s
  | .relayFarAtomic => Sys2Proof.Machine.execRelayFarAtomic s
  | .relayQueueEnqueue => Sys2Proof.Machine.execRelayQueueEnqueue s
  | .relayQueueDequeue => Sys2Proof.Machine.execRelayQueueDequeue s
  | .relayDelivery => Sys2Proof.Machine.execRelayDelivery s
  | .deliveryStore => Sys2Proof.Machine.execDeliveryStore s
  | .relayContribution => Sys2Proof.Machine.execRelayContribution s
  | .relayResponse => Sys2Proof.Machine.execRelayResponse s
  | .moduleContribution => Sys2Proof.Machine.execModuleContribution s
  | .contributionRetry => Sys2Proof.Machine.execContributionRetry s
  | .slotNotification => Sys2Proof.Machine.execSlotNotification s
  | .readyNotification => Sys2Proof.Machine.execReadyNotification s
  | .chunkWaitTimeout => Sys2Proof.Machine.execChunkWaitTimeout s
  | .slotLinkLost => Sys2Proof.Machine.execSlotLinkLost s
  | .tlbinvStart => Sys2Proof.Machine.execTlbinvStart s
  | .tlbinvDone => Sys2Proof.Machine.execTlbinvDone s
  | .move => Sys2Proof.Machine.execMove s
  | .movesb => Sys2Proof.Machine.execMovesb s
  | .evict => Sys2Proof.Machine.execEvict s
  | .migrationDrainDone => Sys2Proof.Machine.execMigrationDrainDone s
  | .migrationCopyDone => Sys2Proof.Machine.execMigrationCopyDone s
  | .sbrmctlClr => Sys2Proof.Machine.execSbrmctlClr s
  | .heatScan => Sys2Proof.Machine.execHeatScan s
  | .fqreplayReplay => Sys2Proof.Machine.execFqreplayReplay s
  | .fqreplayFail => Sys2Proof.Machine.execFqreplayFail s
  | .faultQueuePost => Sys2Proof.Machine.execFaultQueuePost s
  | .parkedAccessAdmit => Sys2Proof.Machine.execParkedAccessAdmit s
  | .dirtySwitch => Sys2Proof.Machine.execDirtySwitch s
  | .dirtyDrainDone => Sys2Proof.Machine.execDirtyDrainDone s
  | .hostWindowRead => Sys2Proof.Machine.execHostWindowRead s
  | .hostWindowWrite => Sys2Proof.Machine.execHostWindowWrite s
  | .hostWindowAtomic => Sys2Proof.Machine.execHostWindowAtomic s
  | .windowParkTimeout => Sys2Proof.Machine.execWindowParkTimeout s
  | .submissionWrite => Sys2Proof.Machine.execSubmissionWrite s
  | .nodeRecord => Sys2Proof.Machine.execNodeRecord s
  | .graphRecord => Sys2Proof.Machine.execGraphRecord s
  | .cancelRecord => Sys2Proof.Machine.execCancelRecord s
  | .fncfgEnable => Sys2Proof.Machine.execFncfgEnable s
  | .fncfgDisable => Sys2Proof.Machine.execFncfgDisable s
  | .fncfgPause => Sys2Proof.Machine.execFncfgPause s
  | .fncfgUnpause => Sys2Proof.Machine.execFncfgUnpause s
  | .functionLevelReset => Sys2Proof.Machine.execFunctionLevelReset s
  | .flrComplete => Sys2Proof.Machine.execFlrComplete s
  | .tstampRead => Sys2Proof.Machine.execTstampRead s
  | .msixModerationExpiry => Sys2Proof.Machine.execMsixModerationExpiry s
  | .hostCompletion => Sys2Proof.Machine.execHostCompletion s
  | .hostRequestTimeout => Sys2Proof.Machine.execHostRequestTimeout s
  | .svcReply => Sys2Proof.Machine.execSvcReply s
  | .serviceQueuePost => Sys2Proof.Machine.execServiceQueuePost s
  | .hartAccess => Sys2Proof.Machine.execHartAccess s
  | .controlWindowWrite => Sys2Proof.Machine.execControlWindowWrite s
  | .dispatch => Sys2Proof.Machine.execDispatch s
  | .reservationTake => Sys2Proof.Machine.execReservationTake s
  | .groupComplete => Sys2Proof.Machine.execGroupComplete s
  | .nodeDone => Sys2Proof.Machine.execNodeDone s
  | .eventSignal => Sys2Proof.Machine.execEventSignal s
  | .eventSignalAdd => Sys2Proof.Machine.execEventSignalAdd s
  | .eventWait => Sys2Proof.Machine.execEventWait s
  | .eventWaitRecheck => Sys2Proof.Machine.execEventWaitRecheck s
  | .serviceFunction => Sys2Proof.Machine.execServiceFunction s
  | .tileTransferNode => Sys2Proof.Machine.execTileTransferNode s
  | .collectiveNode => Sys2Proof.Machine.execCollectiveNode s
  | .starvationRemedy => Sys2Proof.Machine.execStarvationRemedy s
  | .starvationRestore => Sys2Proof.Machine.execStarvationRestore s
  | .starvationLimit => Sys2Proof.Machine.execStarvationLimit s
  | .clearingDeclare => Sys2Proof.Machine.execClearingDeclare s
  | .clearingMigrate => Sys2Proof.Machine.execClearingMigrate s
  | .gladeGrow => Sys2Proof.Machine.execGladeGrow s
  | .gladeShrink => Sys2Proof.Machine.execGladeShrink s
  | .gladeCommit => Sys2Proof.Machine.execGladeCommit s
  | .gladeAbort => Sys2Proof.Machine.execGladeAbort s
  | .gladeReset => Sys2Proof.Machine.execGladeReset s
  | .rehashSweep => Sys2Proof.Machine.execRehashSweep s
  | .rehashDone => Sys2Proof.Machine.execRehashDone s
  | .undoDone => Sys2Proof.Machine.execUndoDone s
  | .canopyCopyDone => Sys2Proof.Machine.execCanopyCopyDone s
  | .commitDrainDone => Sys2Proof.Machine.execCommitDrainDone s
  | .scrubDone => Sys2Proof.Machine.execScrubDone s
  | .sliceEnd => Sys2Proof.Machine.execSliceEnd s
  | .drainDeadline => Sys2Proof.Machine.execDrainDeadline s
  | .groupSave => Sys2Proof.Machine.execGroupSave s
  | .groupRestore => Sys2Proof.Machine.execGroupRestore s
  | .clauseBegin => Sys2Proof.Machine.execClauseBegin s
  | .imemFill => Sys2Proof.Machine.execImemFill s
  | .spinDemotionExpiry => Sys2Proof.Machine.execSpinDemotionExpiry s
  | .fairnessBoost => Sys2Proof.Machine.execFairnessBoost s
  | .yieldTimeout => Sys2Proof.Machine.execYieldTimeout s
  | .sleepExpiry => Sys2Proof.Machine.execSleepExpiry s
  | .waitmemRecheck => Sys2Proof.Machine.execWaitmemRecheck s
  | .accessPerformed => Sys2Proof.Machine.execAccessPerformed s
  | .cpaCompletion => Sys2Proof.Machine.execCpaCompletion s
  | .txfCompletion => Sys2Proof.Machine.execTxfCompletion s
  | .mqResult => Sys2Proof.Machine.execMqResult s
  | .pubFlip => Sys2Proof.Machine.execPubFlip s
  | .ovlldCompletion => Sys2Proof.Machine.execOvlldCompletion s
  | .launchAccept => Sys2Proof.Machine.execLaunchAccept s
  | .matrixCommandCompletion => Sys2Proof.Machine.execMatrixCommandCompletion s
  | .quadrantStallSave => Sys2Proof.Machine.execQuadrantStallSave s
  | .arrayRowFailure => Sys2Proof.Machine.execArrayRowFailure s
  | .msixVectorUnmask => Sys2Proof.Machine.execMsixVectorUnmask s

end Sys2Proof.Machine
end

