-- ==== Sys2Proof/Machine/Enabled.lean ====
section
/-!
DEFINITION. What may happen next (DESIGN CHOICE, log 2): the word or clause that each sub-core selects (08 R253, R256), every internal
event of the device whose condition holds, and the first event that waits from outside. Timers and inputs come through
`inbox` only (DESIGN CHOICE, log 3).
-/
namespace Sys2Proof.Machine

/-- What one step of the machine does. -/
inductive Cand where
  /-- The next word of a warp issues. -/
  | word (g w : Nat)
  /-- A device event. -/
  | event (i : Instr) (a : EventArg)
  /-- The first event that waits from outside. -/
  | outer (i : Instr) (a : EventArg)
  /-- What waits to be posted, or to be written, goes on. -/
  | posts
  deriving DecidableEq, Repr

def ev (i : Instr) (a : EventArg) (b : Bool) : List Cand := if b then [.event i a] else []

/-! ## Selection in a sub-core (R256) -/

def State.coreOf (s : State) (key : Nat) : Nat := (s.groupAt (key / 64)).coreId

/-- Whether the next word of a warp goes to the uniform pipe (R239, R332); a clause that begins with a trap counts so. -/
def State.uniformNext (s : State) (key : Nat) : Bool :=
  let g := s.groupAt (key / 64)
  let w := s.warpAt (key / 64) (key % 64)
  let bit (x : Option Word) : Bool := (x.map (fun v => v.getLsbD 31)).getD true
  if w.clause.active then bit (w.clause.words.drop (w.clause.pc - w.clause.hdr - 1).toNat).head?
  else
    match (s.issueOrder g w).find? (s.mayBegin g w) with
    | some e => bit (s.imemWord g (e.resume.getD (e.pc + 1)))
    | none => true

/-- Whether warp `b` goes before warp `a` in the selection of their sub-core for one pipe. -/
def State.outranks (s : State) (b a : Nat) : Bool :=
  let x := s.warpAt (a / 64) (a % 64)
  let y := s.warpAt (b / 64) (b % 64)
  s.coreOf a == s.coreOf b && x.subcore == y.subcore && s.uniformNext a == s.uniformNext b &&
    (if x.boosted == y.boosted then y.lastIssue < x.lastIssue || (y.lastIssue == x.lastIssue && b < a) else y.boosted)

def State.readyWarps (s : State) : List Nat := (s.warps.map (fun p => p.1)).filter s.ready

/-- The warps that their sub-cores select, one for each pipe (R239). -/
def State.selected (s : State) : List Nat :=
  let r := s.readyWarps
  r.filter (fun k => !r.any (fun b => s.outranks b k))

/-- Whether a stalled word may try again: one that waits for a block is released by the fill. When a stalled word is seen to be
able to issue is not stated (DESIGN CHOICE, log 2): it tries whenever no ready warp of its pipe goes before it. -/
def Warp.retries (w : Warp) : Bool :=
  w.clause.active && w.live != 0 && (match w.stall with
    | .none => false
    | .imem => false
    | .xlat => w.wordTag.isNone
    | _ => true)

def State.onCore (s : State) (g : Nat) : Bool :=
  match (s.groupAt g).place with
  | .core _ => true
  | _ => false

def State.issues (s : State) : List Cand :=
  (s.selected.map (fun k =>
    if (s.warpAt (k / 64) (k % 64)).clause.active then Cand.word (k / 64) (k % 64)
    else .event .clauseBegin (.pair (k / 64) (k % 64)))) ++
  s.warps.filterMap (fun p =>
    if p.2.retries && s.onCore (p.1 / 64) && !s.readyWarps.any (fun b => s.outranks b p.1) then some (Cand.word (p.1 / 64) (p.1 % 64)) else none)

/-! ## Fills (R320) -/

/-- The first word of an entry's clause that is loaded but not filled. -/
def State.missOf (s : State) (g : Group) (e : Entry) : Option CodeAddr :=
  if !g.loaded e.pc then none
  else
    match s.imemWord g e.pc with
    | none => some e.pc
    | some w =>
      let at' := (List.range (Header.ofWord w).len).map (fun k => e.pc + 1 + BitVec.ofNat 16 k)
      (at'.takeWhile g.loaded).find? (fun a => (s.imemWord g a).isNone)

/-- The blocks of bound slots that are not filled. -/
def State.missBlocks (s : State) (g : Group) : List CodeAddr :=
  (List.range 4).flatMap (fun k =>
    match g.slot k with
    | none => []
    | some sl => ((List.range ((sl.length + 255) / 256)).map (fun b => BitVec.ofNat 16 (16384 * k + 256 * b))).filter
        (fun a => (s.imemWord g a).isNone))

def State.fills (s : State) : List Cand :=
  s.warps.flatMap (fun p =>
    let g := s.groupAt (p.1 / 64)
    let w := p.2
    if !s.onCore (p.1 / 64) || w.live = 0 || w.wordTag.isSome then []
    else
      let miss := if w.clause.active then (if w.stall == .imem then s.missBlocks g else [])
        else if g.saving then [] else w.front.filterMap (s.missOf g)
      miss.map (fun a => .event .imemFill (.triple (p.1 / 64) (p.1 % 64) a.toNat)))

/-! ## Operations -/

/-- Whether a part may move: it can be performed, or the flush it waits for can be sent. -/
def State.partMoves (s : State) (o : Op) (i : Nat) (p : Part) : Bool :=
  (s.partReady o i p).1 || (p.state == .waiting && s.hostDirty.any (fun h => h.1 == o.hostKey))

/-- What an access may do next; a cacheable load takes the line, with or without a fill, or a copy. -/
def State.accessCands (s : State) (o : Op) (b : AccessBody) : List Cand :=
  let n := o.parts.length
  let parts := ((List.range n).zip o.parts).flatMap (fun x =>
    if s.partMoves o x.1 x.2 then (if s.cacheable b x.2 then [0, 1, 2] else [0]).map (fun c => Cand.event .accessPerformed (.op o.id x.1 c))
    else [])
  let regs := (o.toWrite b).map (fun r => Cand.event .accessPerformed (.op o.id (n + 4 * r.1 + r.2) 0))
  parts ++ regs ++ ev .accessPerformed (.op o.id (n + 128) 0) (!o.parts.any Part.pending && (o.toWrite b).isEmpty)

/-- Whether a part needs its operation's attention, rather than an answer from elsewhere. -/
def Part.here (p : Part) : Bool := p.state == .waiting || p.state == .performed || p.state == .failed

/-- Whether a transfer can move. -/
def State.txfMoves (s : State) (o : Op) (b : TxfBody) : Bool :=
  o.failed || (o.cancelled && b.stage = 0) || (!s.txfHeld o b &&
    (b.stage != 0 || b.ending != 0 || b.shape.kind != 3 ||
      (match s.coll b.coll with
       | none => true
       | some c => c.fault || c.over || (s.nextItem c).isSome || !c.toOwn.isEmpty || !c.ready.isEmpty || !c.due.isEmpty)))

def State.opCands (s : State) (o : Op) : List Cand :=
  let one (i : Instr) (b : Bool) : List Cand := ev i (.unit o.id) b
  let done' (b : Bool) : List Cand := ev .accessPerformed (.op o.id 0 0) b
  let waits (ps : List Part) : List Cand := one .parkedAccessAdmit (s.xlat.pend.length < 1024 && ps.any (fun p => p.state.waitsEntry))
  match o.body with
  | .access b => waits o.parts ++ (if o.cancelled then done' true else s.accessCands o b)
  | .nothing => done' true
  | .barWait b => done' (if b.answer.isSome then s.resident o else o.cancelled)
  | .cntWait b => done' (if b.answer.isSome then (s.opCore o).isSome else o.cancelled)
  | .txcan b => done' (!s.ops.any (fun x => b.targets.contains x.id))
  | .svc _ => done' o.cancelled
  | .result todo =>
    if s.resident o then (List.range (max 1 todo.length)).map (fun i => Cand.event .accessPerformed (.op o.id i 0)) else []
  | .cpa b =>
    waits (b.lanes.map (fun l => l.src)) ++
      (match o.owner with
       | .warp g _ => one .cpaCompletion (o.cancelled || (s.resident o && s.cpaHead g o.id b.chan &&
           (match b.next with
            | none => true
            | some (_, l) => l.src.here)))
       | .node _ => [])
  | .txf b => ev .txfCompletion (.op o.id (Config.schedule s.tick / 2 ^ 32) 0) (s.txfMoves o b)
  | .mq b => waits o.parts ++ one .mqResult (o.cancelled || b.answer.isSome || o.parts.any Part.here)
  | .pub _ => waits o.parts ++ one .pubFlip (o.cancelled || o.parts.any Part.here)
  | .ovlld _ => one .ovlldCompletion (o.cancelled || o.failed || (o.park.isNone && o.queuedCode != some 0))
  | .waitmem b => waits [b.part] ++ one .waitmemRecheck (o.cancelled || (s.resident o && b.part.here))
  | .launch _ => one .launchAccept (o.cancelled || o.failed || (o.park.isNone && o.queuedCode.isNone))
  | .matrix => one .matrixCommandCompletion ((s.mxFind o.id).any (fun x => s.mxReady x.1 x.2))

/-! ## The graph engine -/

/-- The event that takes a record of a queue context. -/
def recordInstr (b : List Byte) : Instr :=
  if subKind b = 2 then .graphRecord else if subKind b = 3 then .cancelRecord else .nodeRecord

def State.recordCands (s : State) : List Cand :=
  let qs := s.host.intake.foldl (fun l r => insertNat r.1 l) []
  qs.filterMap (fun q =>
    match (s.intakeOf q).head? with
    | some b => if s.recPark.any (fun r => r.1 == q) then none else some (.event (recordInstr b) (.unit q))
    | none => none) ++
    s.host.counts.flatMap (fun c => ev .nodeRecord (.unit c.1) (s.spilled c.1 != 0 && (s.intakeOf c.1).isEmpty))

/-- The event that starts a node of another kind. -/
def nodeInstr (n : Node) : Instr :=
  if n.nkind = 2 then .tileTransferNode
  else if n.nkind = 3 then .collectiveNode
  else if n.nkind = 5 then .serviceFunction
  else if n.eventOp = 0 then .eventSignal
  else if n.eventOp = 1 then .eventSignalAdd else .eventWait

def State.nodeCands (s : State) (n : Node) : List Cand :=
  ev .nodeDone (.unit n.id) (n.st == .publishing) ++
    ev (nodeInstr n) (.unit n.id) (n.nkind != 1 && (s.idleNode n.id n.nkind).isSome) ++
    ev .eventWaitRecheck (.unit n.id) (n.st == .running && s.graph.watches.contains n.id && n.park.isNone)

/-- The glades that have nodes. -/
def State.busyGlades (s : State) : List Nat := s.graph.nodes.foldl (fun l n => insertNat n.glade l) []

def State.gladeWork (s : State) (g : Nat) : List Cand :=
  ev .dispatch (.unit g) (!(s.gladePlots g).isEmpty && (!(s.readyNodes g).isEmpty ||
      s.graph.nodes.any (fun n => n.st == .running && n.glade == g && !n.unplaced.isEmpty))) ++
    ev .reservationTake (.unit g) (s.holderFree g && (s.byPrio (s.waitingLaunches g)).head?.any (fun n =>
      ticksPerUs * s.graph.reswait < s.now - n.readyAt))

def State.groupCands (s : State) (p : Nat × Group) : List Cand :=
  ev .groupComplete (.unit p.1) (s.groupOver p.1) ++
    ev .groupSave (.unit p.1) (p.2.saving && s.savable p.1) ++
    ev .starvationRestore (.pair p.2.node p.2.gang) (p.2.place == .saved && p.2.saveCause == .starvation) ++
    ev .groupRestore (.pair p.2.node p.2.gang) (p.2.place == .saved && s.mayRestore p.2.node p.2.gang)

/-! ## Glades -/

def State.gladeCands (s : State) (p : Nat × Glade) : List Cand :=
  let (g, x) := p
  (match x.st with
   | .evacuate => ev .rehashSweep (.unit g) (s.evac g = 0)
   | .rehash => if (s.strayLines g).isEmpty then [.event .rehashDone (.unit g)] else [.event .rehashSweep (.unit g)]
   | .undo => if (s.strayLines g).isEmpty then [.event .undoDone (.unit g)] else [.event .rehashSweep (.unit g)]
   | _ => []) ++
    x.copies.map (fun c => .event .canopyCopyDone (.pair g c.j)) ++ ev .commitDrainDone (.unit g) x.committing

/-! ## Translation, the host interface, the pod -/

def State.xlatCands (s : State) : List Cand :=
  ev .faultQueuePost .none (s.nextPost.isSome && s.fqRoom) ++
    ev .tlbinvDone .none (s.xlat.invBusy && !s.tlbUsed s.dyingIds) ++ ev .dirtyDrainDone .none s.xlat.dirtyDrain ++
    (match s.xlat.mig with
     | [] => []
     | c :: _ =>
       match c.stage with
       | .start => [.event (if c.op = 2 then .movesb else if c.op = 3 then .evict else .move) .none]
       | .drain => ev .migrationDrainDone .none (s.migDrained c)
       | .copy => ev .migrationCopyDone .none (c.op = 2 || !s.tlbUsed (s.migReads c)))

/-- Whether a window access can move. -/
def State.winMoves (s : State) (w : WinAcc) : Bool :=
  w.tag.isNone && !s.winBehind w && (w.pieces (s.winVa w)).any (fun p => !w.sent.contains p.1 && !w.got.any (fun g => g.1 == p.1))

def State.hostCands (s : State) : List Cand :=
  s.host.windows.flatMap (fun w => ev (if w.kind = 0 then .hostWindowRead else if w.kind = 1 then .hostWindowWrite else .hostWindowAtomic)
      (.unit w.id) (s.winMoves w)) ++
    ev .serviceQueuePost .none (!s.host.svcWait.isEmpty && s.svcRoom) ++
    s.host.harts.flatMap (fun h => ev .hartAccess (.unit h.1) (!h.2.busy.isEmpty && !s.pod.ext.any (fun e => e.kind == .hart h.1))) ++
    s.host.fns.flatMap (fun f => ev .flrComplete (.unit f.1) (f.2.resetting && s.resetOver f.1))

/-- The event that answers a snoop. -/
def Snoop.instr : Snoop → Instr
  | .cur => .bisnpcur
  | .data => .bisnpdata
  | .inv => .bisnpinv

/-- What the home of a module does next: requests of other heads that waited, and snoops of this package. -/
def State.homeCands (s : State) (m : Nat) (x : Module) : List Cand :=
  x.reqs.flatMap (fun r =>
    match r.who with
    | .event i _ => ev i (.queued m r.id) (!x.snoops.any (fun q => r.lines.contains q.line))
    | _ => []) ++
    (x.snoops.filter (fun q => s.pod.en && s.myHead m == some q.head)).map (fun q => .event q.kind.instr (.pair m q.line))

/-- What stands in the rings of a module that concern this package, on port k: descriptors to take, and responses. -/
def State.ringCands (s : State) (k : Nat) : List Cand :=
  let m := (s.port k).modid
  if (s.port k).state != .up || !s.pod.en then []
  else
    ((List.range (podSet s.pod.order).length).filter (fun i => i != k)).flatMap (fun i =>
      (match s.relayHead m i with
       | some d => ev (s.relayInstr d) (.pair m i) (s.relayRoom m i)
       | none => []) ++
      ev .relayResponse (.pair m i) (s.responseAt m i).isSome)

def State.podCands (s : State) : List Cand :=
  s.pod.heldBack.flatMap (fun d => ev (s.relayInstr d) (.relay d) (d.seq == s.nextRelay d)) ++
    s.pod.modules.flatMap (fun x => s.homeCands x.1 x.2) ++ (List.range 9).flatMap s.ringCands ++
    s.pod.keys.flatMap (fun k => ev .rekeyStart (.triple k.port k.kid (if k.out then 1 else 0))
      (k.step = 0 && (k.bank k.gen).any (fun b => 2 ^ 40 ≤ b.counter)))

def State.bootCands (s : State) : List Cand :=
  ev .bootRom (.unit 0) (s.boot.phase == .rom) ++ ev .bootReady .none (s.boot.phase == .ready)

/-! ## All of them -/

/-- Whether the device runs: it has power, and a thermal trip has not stopped its clocks (R18, R21). -/
def State.alive (s : State) : Bool := s.boot.powered && !s.boot.clocksStopped

def State.inner (s : State) : List Cand :=
  s.issues ++ s.fills ++ s.ops.flatMap s.opCands ++ s.recordCands ++ s.graph.nodes.flatMap s.nodeCands
    ++ s.busyGlades.flatMap s.gladeWork ++ s.groups.flatMap s.groupCands ++ s.glades.flatMap s.gladeCands ++ s.xlatCands
    ++ s.hostCands ++ s.podCands ++ s.bootCands ++ (if s.hasPosts then [.posts] else [])

/-- The first event that waits from outside; a word of the program is none. -/
def State.waitingEvent (s : State) : Option (Instr × EventArg) := s.inbox.find? (fun e => !isWord e.1)

def State.candidates (s : State) : List Cand :=
  (s.waitingEvent.toList.map (fun e => Cand.outer e.1 e.2)) ++ (if s.alive then s.inner else [])

/-- Whether a dead device still takes an event: the pins of Table 1-4. -/
def aliveWithout (i : Instr) : Bool := i == .coldReset || i == .pwrgoodFall || i == .perstNAssert

/-- An event from outside leaves the inbox as it is taken. -/
def State.takeOuter (s : State) (i : Instr) (a : EventArg) : State := { s with inbox := s.inbox.erase (i, a), arg := a }

/-! ## One word of a warp -/

/-- The words of a clause from the present one on. -/
def Clause.rest (c : Clause) : List Word := c.words.drop (c.pc - c.hdr - 1).toNat

/-- R256: a warp whose word has issued goes to the back, and no other warp waits for it any more. -/
def State.noteIssue (s : State) (key : Nat) : State :=
  let last := s.warps.foldl (fun n p => max n p.2.lastIssue) 0
  if ((Map.get {} s.warps key : Warp).stall != .none) then s
  else { s with warps := s.warps.map (fun p =>
    if p.1 = key then (p.1, { p.2 with lastIssue := last + 1, boosted := false })
    else (p.1, { p.2 with yieldOn := p.2.yieldOn.filter (fun k => k != key) })) }

/-- A word that decodes to no instruction traps (11 Table 11-7, rows 1 and 2; R249 reason 3). -/
def State.trapWord (s : State) (e : DecodeError) : State :=
  match e with
  | .short => s.trapEntry cIllegalClause 3
  | e => s.illegal e.reason

end Sys2Proof.Machine
end

