-- ==== Sys2Proof/Machine/Step.lean ====
section
/-!
DEFINITION. One step of the machine: one word, clause or event among those that may happen next (DESIGN CHOICE, log 2).
-/
namespace Sys2Proof.Machine

/-- Issue the next word of a warp: the decoded instruction runs, or its encoding traps. -/
def stepWord (g w : Nat) (s : State) : Host.Outcome State Fault Refusal :=
  let s : State := { s with curG := g, curW := w }
  match decode s.warp.clause.rest with
  | .error e => .next ((s.trapWord e).noteIssue (warpKey g w))
  | .ok (i, _) =>
    match exec i s with
    | .next t => .next (t.noteIssue (warpKey g w))
    | .fault f => .fault f
    | .refused r => .refused r

/-- Do one of the things that may happen next. An event from outside that reaches a device without power, or with its
clocks stopped, has no effect unless it is one of the pins. -/
def stepCand (c : Cand) (s : State) : Host.Outcome State Fault Refusal :=
  match c with
  | .word g w => stepWord g w s
  | .event i a => exec i { s with arg := a }
  | .posts => .next s.settlePosts
  | .outer i a => if s.alive || aliveWithout i then exec i (s.takeOuter i a) else .next (s.takeOuter i a)

def step (s : State) : Host.Outcome State Fault Refusal :=
  let (k, t) := s.pick s.candidates.length
  match s.candidates[k]? with
  | none => .next t
  | some c => stepCand c t

/-- The state in which the next step runs one instruction, the words of an opcode-table word, as the first of its
program: a device that has booted, on whose core 0 one warp of 32 lanes issues a clause of those words (DESIGN CHOICE, log 12). Memory,
plots, quadrants and caches stay as they are; no other unit has work. -/
def State.withFetchWord (s : State) (nbits w : Nat) : State :=
  { State.reset with
    mem := s.mem, poison := s.poison, latent := s.latent, l2 := s.l2, rcache := s.rcache, imem := s.imem, quads := s.quads,
    clocks := s.clocks, plots := s.plots, savens := s.savens, tick := s.tick, now := s.now, outbox := s.outbox,
    boot := { s.boot with powered := true, clocksStopped := false, phase := .done },
    groups := [(0, { place := .core 0, nwarps := 1, nm := 1 })],
    warps := [(0, { role := .m, budget := 16, live := BitVec.allOnes 32,
                    frontier := [{ pc := 0, mask := BitVec.allOnes 32 }],
                    clause := { active := true, hdr := 0, len := 4, pc := 1, words := tableWords (w % 2 ^ nbits), fa := 0, fb := 0,
                                mask := BitVec.allOnes 32 } })] }

end Sys2Proof.Machine
end

