-- ==== Sys2Proof/Safety.lean ====
section
/-!
DEFINITION. The terms in which claims about this machine are made: a step that goes on, the canonical memory, and what a
word of a warp leaves alone.
-/
namespace Sys2Proof.Machine

/-- The machine goes on: its next step is no fault and no refusal. -/
def State.goesOn (s : State) : Prop := ∃ t, step s = .next t

/-- The canonical form of a memory: its addresses rise strictly, and no entry is the byte that an unlisted address reads as. -/
abbrev Memory.wf (m : List Host.Cell) : Bool := Map.wf (0 : Byte) m

/-- The memory is in its canonical form. -/
def State.canonical (s : State) : Prop := Memory.wf s.mem = true

/-- The registers that a word names are there (08 R244, R245; 11 Table 11-7, rows 3 and 4): each span (lowest register,
count) is aligned to its size, v spans lie below 8 × the warp's budget and below v128, s spans below s64. -/
def Warp.has (w : Warp) (r : Req) : Prop :=
  (∀ p ∈ r.vs, p.1 % p.2 = 0 ∧ p.1 + p.2 ≤ 8 * w.budget ∧ p.1 + p.2 ≤ 128) ∧
    (∀ p ∈ r.ss, p.1 % p.2 = 0 ∧ p.1 + p.2 ≤ 64)

/-- Rows 3 to 7 of 11 Table 11-7 find nothing wrong with a word: its registers are there, it names no e register past e15,
it selects a flag (a plain store may select none), a matrix command is a matrix warp's, and its entry has the convergence
that 08 R257 and R258 ask for. -/
def Warp.passes (w : Warp) (r : Req) : Prop :=
  w.has r ∧ r.eBad = false ∧ (∀ fs, r.fs = some fs → w.clause.flagOf fs ≠ 15 ∨ r.plainStore = true) ∧
    (r.mx = true → w.role = .m) ∧ (r.conv = .live → w.clause.mask = w.live) ∧ (r.conv = .tiles → w.strays = 0)

/-- What the spec keeps in a warp, without its place in the program: its clause, its frontiers, its live lanes, whether it
is inside its handler, and why it waits. -/
def Warp.regs (w : Warp) : Warp :=
  { w with clause := {}, frontier := [], hfront := [], handler := none, live := 0, stall := .none, yieldOn := [] }

/-- Nothing differs but the issuing warp: no memory, no group, no other warp, nothing of the device. -/
def OnlyWarp (s t : State) : Prop :=
  t = { s with warps := t.warps } ∧ ∀ k, k ≠ warpKey s.curG s.curW → Map.get {} t.warps k = Map.get ({} : Warp) s.warps k

/-- Nothing differs but the issuing warp and its group. -/
def OnlyWarpAndGroup (s t : State) : Prop :=
  t = { s with warps := t.warps, groups := t.groups } ∧
    (∀ k, k ≠ warpKey s.curG s.curW → Map.get {} t.warps k = Map.get ({} : Warp) s.warps k) ∧
    ∀ g, g ≠ s.curG → t.groupAt g = s.groupAt g

/-- Whether an entry of a frontier holds lane `l` at `pc`. -/
def standsAt (fr : List Entry) (pc : CodeAddr) (l : Nat) : Bool := fr.any (fun e => e.pc == pc && inMask e.mask l)

/-- The entries that the issuing warp of `s` issues from, as they are in `w`: the handler's inside a handler. -/
def State.frontOf (s : State) (w : Warp) : List Entry := if s.warp.handler.isSome then w.hfront else w.frontier

/-- The clause has ended (08 R254): lane l of its entry now stands at `goes l`, or has left the frontier; every other entry
stands where it stood, the live lanes are those of some entry, and the handler is left with its last lane (12 R361). -/
def Moved (s t : State) (goes : Nat → Option CodeAddr) : Prop :=
  let c := s.warp.clause
  let w := t.warp
  w.clause = {} ∧ w.stall = .none ∧
    (if s.warp.handler.isSome then w.frontier = s.warp.frontier else w.hfront = s.warp.hfront) ∧
    (∀ pc l, l < 32 → standsAt (s.frontOf w) pc l =
      (standsAt (dropEntry c.hdr c.resume c.mask (s.frontOf s.warp)) pc l || (inMask c.mask l && goes l == some pc))) ∧
    (∀ l, l < 32 → inMask w.live l = (w.frontier ++ w.hfront).any (fun e => inMask e.mask l)) ∧
    w.handler = if s.warp.handler.isSome ∧ w.hfront = [] then none else s.warp.handler

/-- After a word of `n` words: if it is not the last of its clause, the warp stands at the next word, and its entries, its
live lanes and its handler are as before; if it is the last, every lane of the entry stands at the next header. -/
def StepsPast (s t : State) (n : Nat) : Prop :=
  let c := s.warp.clause
  if (c.pc + BitVec.ofNat 16 n - c.hdr - 1).toNat < c.len then
    t.warp.clause = { c with pc := c.pc + BitVec.ofNat 16 n, spin := t.warp.clause.spin } ∧
    t.warp.frontier = s.warp.frontier ∧ t.warp.hfront = s.warp.hfront ∧ t.warp.handler = s.warp.handler ∧
    t.warp.live = s.warp.live ∧ t.warp.yieldOn = s.warp.yieldOn ∧ t.warp.stall = .none
  else Moved s t (fun _ => some (c.hdr + 1 + BitVec.ofNat 16 c.len))

/-- The word has gone: the warp stands at the next word of its clause, or has ended it. -/
def Advanced (s t : State) (n : Nat) : Prop :=
  let c := s.warp.clause
  if (c.pc + BitVec.ofNat 16 n - c.hdr - 1).toNat < c.len then t.warp.clause.pc = c.pc + BitVec.ofNat 16 n ∧ t.warp.stall = .none
  else t.warp.clause = {}

/-- A long-latency word has issued (08 R251): from the state `u` of its checks, the operation is added with the next
number, the selected flag counts it, and of the issuing warp nothing else changes but its place. -/
def Issued (s u t : State) (n : Nat) (fs : Bool) (o : Op) : Prop :=
  t = { u with ops := u.ops ++ [o], nextOp := u.nextOp + 1, warps := t.warps } ∧
    (∀ k, k ≠ warpKey s.curG s.curW → Map.get {} t.warps k = Map.get ({} : Warp) u.warps k) ∧
    t.warp.regs = (u.warp.flagUp (s.warp.clause.flagOf fs)).regs ∧ Advanced s t n

/-- The same for a word that raises sticky bits of its group's GNSTAT (08 R248). -/
def CompletedFlags (s t : State) (n : Nat) (w : Warp) (f : Flags) : Prop :=
  OnlyWarpAndGroup s t ∧ t.group = { s.group with gnstat := s.group.gnstat ||| f.bits } ∧ t.warp.regs = w.regs ∧ StepsPast s t n

/-- A word of `n` words has completed and left the registers of `w`: nothing but the warp has changed, and of the warp
nothing but those registers and its place. -/
def Completed (s t : State) (n : Nat) (w : Warp) : Prop := OnlyWarp s t ∧ t.warp.regs = w.regs ∧ StepsPast s t n

end Sys2Proof.Machine
end

