-- ==== Sys2Proof/Certificates/Slice0/Obligations.lean ====
section
/-!
DEFINITION. What is claimed of the machine: one statement for each family of words and of events, what reset leaves, what
taking an exception saves, the two round trips of the encoding, and the invariant that every step keeps. The tables in
`Claims` say the results of the words a second time, from the spec.
-/
namespace Sys2Proof.Claims

open Sys2Proof.Machine

/-! ## Results of the integer words (13 Table 13-3, R391; 12 R355, R357) -/

/-- An integer clamped to a word's signed range. -/
def clampWord (x : Int) : Word := BitVec.ofInt 32 (max (-2147483648) (min 2147483647 x))

/-- 13 Table 13-3. -/
def laInt : Instr → Option (LaOps × (Word → Word → Word))
  | .iadd o => some (o, fun a b => a + b)
  | .isub o => some (o, fun a b => a - b)
  | .imul o => some (o, fun a b => a * b)
  | .iadds o => some (o, fun a b => clampWord (a.toInt + b.toInt))
  | .isubs o => some (o, fun a b => clampWord (a.toInt - b.toInt))
  | .iminS o => some (o, fun a b => if b.slt a then b else a)
  | .iminU o => some (o, fun a b => if b.ult a then b else a)
  | .imaxS o => some (o, fun a b => if a.slt b then b else a)
  | .imaxU o => some (o, fun a b => if a.ult b then b else a)
  | .and o => some (o, fun a b => a &&& b)
  | .or o => some (o, fun a b => a ||| b)
  | .xor o => some (o, fun a b => a ^^^ b)
  | .andn o => some (o, fun a b => a &&& ~~~b)
  | .shl o => some (o, fun a b => a <<< b.toNat)
  | .shrU o => some (o, fun a b => a >>> b.toNat)
  | .shrS o => some (o, fun a b => a.sshiftRight b.toNat)
  | .rotr o => some (o, fun a b => a.rotateRight (b.toNat % 32))
  | .mov o => some (o, fun _ b => b)
  | _ => none

/-- 12 R355. -/
def uaInt : Instr → Option (UaOps × (Word → Word → Word))
  | .uiadd o => some (o, fun a b => a + b)
  | .uisub o => some (o, fun a b => a - b)
  | .uimul o => some (o, fun a b => a * b)
  | .uminS o => some (o, fun a b => if b.slt a then b else a)
  | .uminU o => some (o, fun a b => if b.ult a then b else a)
  | .umaxS o => some (o, fun a b => if a.slt b then b else a)
  | .umaxU o => some (o, fun a b => if a.ult b then b else a)
  | .uand o => some (o, fun a b => a &&& b)
  | .uor o => some (o, fun a b => a ||| b)
  | .uxor o => some (o, fun a b => a ^^^ b)
  | .uandn o => some (o, fun a b => a &&& ~~~b)
  | .ushl o => some (o, fun a b => a <<< b.toNat)
  | .ushrU o => some (o, fun a b => a >>> b.toNat)
  | .ushrS o => some (o, fun a b => a.sshiftRight b.toNat)
  | .umov o => some (o, fun _ b => b)
  | _ => none

/-- The high 32 bits of a 64-bit product. -/
def mulHighS (a b : Word) : Word := (a.signExtend 64 * b.signExtend 64).extractLsb' 32 32
def mulHighU (a b : Word) : Word := (a.zeroExtend 64 * b.zeroExtend 64).extractLsb' 32 32

/-- The position and the length that the control value of BFE and BFI gives. -/
def fieldPos (b : Word) : Nat := (b.extractLsb' 0 8).toNat
def fieldLen (b : Word) : Nat := min 32 (b.extractLsb' 8 8).toNat

/-- `n` low ones. -/
def onesBelow (n : Nat) : Word := BitVec.ofNat 32 (2 ^ n - 1)

def extractU (a b : Word) : Word := (a >>> fieldPos b) &&& onesBelow (fieldLen b)
def insertField (a b c : Word) : Word :=
  let m := onesBelow (fieldLen b) <<< fieldPos b
  (c &&& ~~~m) ||| ((a <<< fieldPos b) &&& m)

/-- The number of ones, and of zeros above the highest one. -/
def onesOf (a : Word) : Word := BitVec.ofNat 32 ((List.range 32).countP (fun i => a.getLsbD i))
def zerosAbove (a : Word) : Word := BitVec.ofNat 32 ((List.range 32).countP (fun i => decide (a.toNat < 2 ^ (31 - i))))

/-- Negate where a modifier bit says so. -/
def negated (n : Bool) (a : Word) : Word := if n then 0 - a else a

/-- 13 R391: the forms with a word result of A, B and C. -/
def ixInt : Instr → Option (LxOps × (Word → Word → Word → Word))
  | .imulhiS o => some (o, fun a b _ => mulHighS a b)
  | .imulhiU o => some (o, fun a b _ => mulHighU a b)
  | .imad o => some (o, fun a b c => if o.sat then clampWord (a.toInt * b.toInt + c.toInt) else a * b + c)
  | .bfeU o => some (o, fun a b _ => extractU a b)
  | .bfeS o => some (o, fun a b _ =>
      if fieldPos b < 32 then BitVec.ofInt 32 ((a.sshiftRight (fieldPos b)).extractLsb' 0 (fieldLen b)).toInt else 0)
  | .bfi o => some (o, insertField)
  | .popc o => some (o, fun a _ _ => onesOf a)
  | .clz o => some (o, fun a _ _ => zerosAbove a)
  | .brev o => some (o, fun a _ _ => a.reverse)
  | .prmt o => some (o, prmtF)
  | .lea o => some (o, fun a b _ => a + (b <<< o.aux.toNat))
  | .iadd3 o => some (o, fun a b c =>
      if o.sat then clampWord ((negated o.na a).toInt + (negated o.nb b).toInt + (negated o.nc c).toInt)
      else negated o.na a + negated o.nb b + negated o.nc c)
  | .isad o => some (o, fun a b c =>
      if o.aux = 1 then (if a.slt b then b - a else a - b) + c else (if a.ult b then b - a else a - b) + c)
  | _ => none

/-- 12 R357: the forms with a word result. -/
def uixInt : Instr → Option (UxOps × (Word → Word → Word → Word))
  | .uimulhiS o => some (o, fun a b _ => mulHighS a b)
  | .uimulhiU o => some (o, fun a b _ => mulHighU a b)
  | .upopc o => some (o, fun a _ _ => onesOf a)
  | .uclz o => some (o, fun a _ _ => zerosAbove a)
  | .ubfeU o => some (o, fun a b _ => extractU a b)
  | .ubfi o => some (o, insertField)
  | _ => none

/-- 12 Table 12-3. -/
def meets (cc : Nat) (a b : Word) : Bool :=
  match cc with
  | 0 => a == b
  | 1 => !(a == b)
  | 2 => a.slt b
  | 3 => a.sle b
  | 4 => b.slt a
  | 5 => b.sle a
  | 6 => a.ult b
  | 7 => a.ule b
  | 8 => b.ult a
  | _ => b.ule a

/-! ## Lane forms with word results -/

/-- A lane word that writes `n` registers per active lane from v(d) on: its words, what rows 3 to 7 ask of it, its guard,
and the value of register d + k in lane l. -/
structure LaneForm where
  size : Nat
  req : Req
  g : BitVec 3
  d : Nat
  n : Nat
  val : Nat → Nat → Word

/-- Word k of a 64-bit result. -/
def half (k : Nat) (x : Dword) : Word := x.extractLsb' (32 * k) 32

/-- What an LX form writes: `n` registers, whose d, a and b name `nd`, `na` and `nb` registers. -/
def lxForm (o : LxOps) (nd na nb nc : Nat) (val : Nat → Nat → Word) : LaneForm := ⟨o.size, o.req nd na nb nc, o.g, o.d.toNat, nd, val⟩

/-- The v registers after a lane form: d to d + n − 1 in the active lanes, and no other. -/
def LaneForm.wrote (f : LaneForm) (w w' : Warp) : Prop :=
  ∀ r l, l < 32 → w'.getV r l =
    if f.d ≤ r ∧ r < f.d + f.n ∧ inMask (w.active f.g) l = true then f.val (r - f.d) l else w.getV r l

/-- 13 R391 (SEL, IADD64), R414 (P2V). -/
def selectForms (w : Warp) : Instr → Option LaneForm
  | .sel o => some (lxForm o 1 1 1 0 fun _ l => if o.c.pred w l then w.getV o.a.toNat l else w.lsrc o.b l)
  | .iadd64 o => some (lxForm o 2 2 2 0 fun k l => half k (w.getV64 o.a.toNat l + w.lsrcI64 o.b l))
  | .p2v o => some (lxForm o 1 0 0 0 fun _ l =>
      BitVec.ofNat 32 (((List.range 7).map (fun i => if inMask (w.getP i) l then 2 ^ i else 0)).sum))
  | _ => none

/-- Whether lane k takes part in the tile of lane l (13 R407): it is active, and of the same tile. -/
def peer (w : Warp) (g : BitVec 3) (l k : Nat) : Bool := inMask (w.active g) k && k / w.part == l / w.part

/-- The mask of the lanes that meet a condition, bit by bit. -/
def maskIf (p : Nat → Bool) : Mask := BitVec.ofNat 32 (((List.range 32).map (fun k => if p k then 2 ^ k else 0)).sum)

/-- 13 R408: the lane that SHFL reads; lane l itself where the source lies outside the tile. -/
def shuffled (mode t l n : Nat) : Nat :=
  let base := l / t * t
  match mode with
  | 0 => if n < t then base + n else l
  | 1 => if base + n ≤ l then l - n else l
  | 2 => if l + n < base + t then l + n else l
  | _ => if n % 32 < t then l ^^^ (n % 32) else l

/-- The value MATCH compares. -/
def matched (w : Warp) (o : LxOps) (l : Nat) : Dword :=
  if o.aux.getLsbD 1 then w.getV64 o.a.toNat l else (w.getV o.a.toNat l).zeroExtend 64

/-- The predicate VOTE reads, after NA. -/
def voted (w : Warp) (o : LxOps) (k : Nat) : Bool := inMask (w.getP o.a.toNat) k != o.na

/-- 13 R408 to R410, R413: the cross-lane forms with a word result and no flag. -/
def crossForms (w : Warp) : Instr → Option LaneForm
  | .shfl o => some { lxForm o 1 1 1 0 (fun _ l =>
      w.getV o.a.toNat (shuffled o.aux.toNat w.part l (w.lsrc o.b l).toNat)) with req := { o.req 1 1 1 0 with conv := .tiles } }
  | .vote o => if o.aux = 3 then
      some { lxForm o 1 0 0 0 (fun _ l => maskIf (fun k => peer w o.g l k && voted w o k)) with
             req := { o.req 1 0 0 0 with conv := .tiles } }
    else none
  | .matchLanes o => some { lxForm o 1 (if o.aux.getLsbD 1 then 2 else 1) 0 0 (fun _ l =>
      let same := fun k => peer w o.g l k && matched w o k == matched w o l
      if o.aux.getLsbD 0 then
        (if (List.range 32).all (fun k => !peer w o.g l k || matched w o k == matched w o l) then maskIf (peer w o.g l) else 0)
      else maskIf same) with
      req := { o.req 1 (if o.aux.getLsbD 1 then 2 else 1) 0 0 with conv := .tiles } }
  | _ => none

/-! ## Lane forms with predicate results -/

/-- A lane word that writes predicates: the value of p(i) in active lane l, or none where it leaves p(i) alone. -/
structure PredForm where
  size : Nat
  req : Req
  g : BitVec 3
  val : Nat → Nat → Option Bool

def PredForm.wrote (f : PredForm) (w w' : Warp) : Prop :=
  ∀ i l, l < 32 → inMask (w'.getP i) l =
    if inMask (w.active f.g) l then (f.val i l).getD (inMask (w.getP i) l) else inMask (w.getP i) l

/-- A form whose one destination is p(d). -/
def onP (o : LxOps) (f : Nat → Bool) : Nat → Nat → Option Bool := fun i l => if i = o.d.toNat then some (f l) else none

/-- 13 R391, R395: the condition joined with p(c) by the combine field. -/
def joined (w : Warp) (o : LxOps) (l : Nat) (t : Bool) : Bool :=
  match (o.aux.extractLsb' 4 2).toNat with
  | 0 => t
  | 1 => t && o.c.pred w l
  | _ => t || o.c.pred w l

/-- 13 R391 (ICMP), R414 (PLOP3, V2P), R409 (VOTE, ELECT). -/
def predForms (w : Warp) : Instr → Option PredForm
  | .icmp o => some ⟨o.size, o.req 0 1 1 0, o.g, onP o fun l =>
      joined w o l (meets (o.aux.extractLsb' 0 4).toNat (w.getV o.a.toNat l) (w.lsrc o.b l))⟩
  | .plop3 o => some ⟨o.size, {}, o.g, onP o fun l =>
      o.aux.getLsbD (4 * (inMask (w.getP o.a.toNat) l).toNat + 2 * (o.b.pred w l).toNat + (o.c.pred w l).toNat)⟩
  | .v2p o => some ⟨o.size, o.req 0 1 0 0, o.g, fun i l =>
      if i < 7 ∧ o.aux.getLsbD i = true then some ((w.getV o.a.toNat l).getLsbD i) else none⟩
  | .vote o => if o.aux = 3 then none else
      some ⟨o.size, { o.req 0 0 0 0 with conv := .tiles }, o.g, onP o fun l =>
        let every := (List.range 32).all (fun k => !peer w o.g l k || voted w o k)
        let some' := (List.range 32).any (fun k => peer w o.g l k && voted w o k)
        if o.aux = 0 then every else if o.aux = 1 then some' else every || !some'⟩
  | .elect o => some ⟨o.size, { conv := .tiles }, o.g, onP o fun l =>
      (List.range 32).all (fun k => !peer w o.g l k || decide (l ≤ k))⟩
  | _ => none

/-! ## Floating-point forms (13 R385, R386) -/

/-- A lane form that may raise flags in a lane; `lanes`: the lanes whose flags count. -/
structure FlagForm extends LaneForm where
  lanes : Mask
  fl : Nat → Flags

/-- A form whose lane l computes a number and flags; 64-bit results fill two registers. -/
def fpForm (w : Warp) (size : Nat) (req : Req) (g : BitVec 3) (d n : Nat) (r : Nat → Nat × Flags) : FlagForm :=
  { size := size, req := req, g := g, d := d, n := n, val := fun k l => BitVec.ofNat 32 ((r l).1 / 2 ^ (32 * k)),
    lanes := w.active g, fl := fun l => (r l).2 }

/-- The two halves of a packed result. -/
def twoHalves (r : Bool → Nat × Flags) : Nat × Flags := ((r false).1 + 65536 * (r true).1, (r false).2.or (r true).2)

/-- Half of an operand. -/
def part16 (hi : Bool) (x : Word) : Nat := if hi then x.toNat / 65536 else x.toNat % 65536

/-- An operand with its sign bit inverted where a modifier bit says so (13 R384). -/
def signed (f : Fmt) (n : Bool) (x : Nat) : Nat := if n then f.negate x else x

/-- 13 R389: FMODE's mode, A and B. -/
def laFp (w : Warp) : Instr → Option (LaOps × (Word → Word → Nat × Flags))
  | .fadd o => some (o, fun a b => Fmt.f32.add w.mode a.toNat b.toNat)
  | .fsub o => some (o, fun a b => Fmt.f32.sub w.mode a.toNat b.toNat)
  | .fmul o => some (o, fun a b => Fmt.f32.mul w.mode a.toNat b.toNat)
  | .fmin o => some (o, fun a b => Fmt.f32.minMax w.mode false a.toNat b.toNat)
  | .fmax o => some (o, fun a b => Fmt.f32.minMax w.mode true a.toNat b.toNat)
  | .hadd2 o => some (o, fun a b => twoHalves fun h => Fmt.f16.add w.mode (part16 h a) (part16 h b))
  | .hmul2 o => some (o, fun a b => twoHalves fun h => Fmt.f16.mul w.mode (part16 h a) (part16 h b))
  | .badd2 o => some (o, fun a b => twoHalves fun h => Fmt.bf16.add w.mode (part16 h a) (part16 h b))
  | .bmul2 o => some (o, fun a b => twoHalves fun h => Fmt.bf16.mul w.mode (part16 h a) (part16 h b))
  | _ => none

/-- The mode with the rounding override of an LX form (10 R298): 0 keeps FMODE's. -/
def overridden (w : Warp) (o : LxOps) : FpMode :=
  match o.rm.toNat with
  | 0 => w.mode
  | 1 => { w.mode with rm := .rne }
  | 2 => { w.mode with rm := .rtz }
  | 3 => { w.mode with rm := .rup }
  | _ => { w.mode with rm := .rdn }

/-- 13 R393 to R398: A, B and C under the form's mode. -/
def lxFp (w : Warp) : Instr → Option (LxOps × (Word → Word → Word → Nat × Flags))
  | .fma o => some (o, fun a b c => Fmt.f32.fma (overridden w o) (signed .f32 o.na a.toNat) (signed .f32 o.nb b.toNat)
      (signed .f32 o.nc c.toNat))
  | .frnd o => some (o, fun a _ _ => Fmt.f32.roundIntegral (overridden w o) (signed .f32 o.na a.toNat))
  | .ffract o => some (o, fun a _ _ => Fmt.f32.fract (overridden w o) (signed .f32 o.na a.toNat))
  | .fscale o => some (o, fun a b _ => Fmt.f32.scale (overridden w o) (signed .f32 o.na a.toNat) b.toInt)
  | .fclass o => some (o, fun a _ _ => (Fmt.f32.classMask a.toNat, {}))
  | .rcp o => some (o, fun a _ _ => specialFn 0 (overridden w o) (signed .f32 o.na a.toNat))
  | .rsq o => some (o, fun a _ _ => specialFn 1 (overridden w o) (signed .f32 o.na a.toNat))
  | .sqrt o => some (o, fun a _ _ => specialFn 2 (overridden w o) (signed .f32 o.na a.toNat))
  | .exp2 o => some (o, fun a _ _ => specialFn 3 (overridden w o) (signed .f32 o.na a.toNat))
  | .log2 o => some (o, fun a _ _ => specialFn 4 (overridden w o) (signed .f32 o.na a.toNat))
  | .sin o => some (o, fun a _ _ => specialFn 5 (overridden w o) (signed .f32 o.na a.toNat))
  | .cos o => some (o, fun a _ _ => specialFn 6 (overridden w o) (signed .f32 o.na a.toNat))
  | .tanh o => some (o, fun a _ _ => specialFn 7 (overridden w o) (signed .f32 o.na a.toNat))
  | .hfma2 o => some (o, fun a b c => twoHalves fun h => Fmt.f16.fma (overridden w o) (signed .f16 o.na (part16 h a))
      (signed .f16 o.nb (part16 h b)) (signed .f16 o.nc (part16 h c)))
  | .bfma2 o => some (o, fun a b c => twoHalves fun h => Fmt.bf16.fma (overridden w o) (signed .bf16 o.na (part16 h a))
      (signed .bf16 o.nb (part16 h b)) (signed .bf16 o.nc (part16 h c)))
  | .hmin2 o => some (o, fun a b _ => twoHalves fun h =>
      Fmt.f16.minMax (overridden w o) false (signed .f16 o.na (part16 h a)) (signed .f16 o.nb (part16 h b)))
  | .hmax2 o => some (o, fun a b _ => twoHalves fun h =>
      Fmt.f16.minMax (overridden w o) true (signed .f16 o.na (part16 h a)) (signed .f16 o.nb (part16 h b)))
  | .bmin2 o => some (o, fun a b _ => twoHalves fun h =>
      Fmt.bf16.minMax (overridden w o) false (signed .bf16 o.na (part16 h a)) (signed .bf16 o.nb (part16 h b)))
  | .bmax2 o => some (o, fun a b _ => twoHalves fun h =>
      Fmt.bf16.minMax (overridden w o) true (signed .bf16 o.na (part16 h a)) (signed .bf16 o.nb (part16 h b)))
  | .hcmp2 o => some (o, fun a b _ => twoHalves fun h =>
      let t := Fmt.f16.test (overridden w o) o.aux.toNat (signed .f16 o.na (part16 h a)) (signed .f16 o.nb (part16 h b))
      (if t.1 then 65535 else 0, t.2))
  | .bcmp2 o => some (o, fun a b _ => twoHalves fun h =>
      let t := Fmt.bf16.test (overridden w o) o.aux.toNat (signed .bf16 o.na (part16 h a)) (signed .bf16 o.nb (part16 h b))
      (if t.1 then 65535 else 0, t.2))
  | _ => none

/-- A, B and C of a DX form, as FP64 encodings. -/
def dA (w : Warp) (o : LxOps) (l : Nat) : Nat := signed .f64 o.na (w.getV64 o.a.toNat l).toNat
def dB (w : Warp) (o : LxOps) (l : Nat) : Nat := signed .f64 o.nb (w.lsrcF64 o.b l).toNat
def dC (w : Warp) (o : LxOps) (l : Nat) : Nat := signed .f64 o.nc (w.lsrcF64 o.c l).toNat

/-- 13 R399 to R401, R404, R411 to R413: pairs, conversions, roundings of accumulators, reductions, and block records. -/
def wideFp (w : Warp) : Instr → Option FlagForm
  | .dadd o => some (fpForm w o.size (o.req 2 2 2 0) o.g o.d.toNat 2 fun l => Fmt.f64.add (overridden w o) (dA w o l) (dB w o l))
  | .dmul o => some (fpForm w o.size (o.req 2 2 2 0) o.g o.d.toNat 2 fun l => Fmt.f64.mul (overridden w o) (dA w o l) (dB w o l))
  | .dfma o => some (fpForm w o.size (o.req 2 2 2 2) o.g o.d.toNat 2 fun l =>
      Fmt.f64.fma (overridden w o) (dA w o l) (dB w o l) (dC w o l))
  | .dmin o => some (fpForm w o.size (o.req 2 2 2 0) o.g o.d.toNat 2 fun l =>
      Fmt.f64.minMax (overridden w o) false (dA w o l) (dB w o l))
  | .dmax o => some (fpForm w o.size (o.req 2 2 2 0) o.g o.d.toNat 2 fun l =>
      Fmt.f64.minMax (overridden w o) true (dA w o l) (dB w o l))
  | .cvt o =>
    let dst := o.aux.toNat % 16
    let src := o.aux.toNat / 16
    let nd := if dst = 8 then 2 else 1
    some (fpForm w o.size (o.req nd (if src = 8 then 2 else 1) 0 0) o.g o.d.toNat nd fun l =>
      convert (overridden w o) dst src o.sat (cvtSource o w src l))
  | .xrnd o =>
    let nd := if o.aux.getLsbD 0 then 2 else 1
    let e := fun l => w.getE (if o.aux.getLsbD 1 then o.a.toNat + l / w.part else o.a.toNat)
    some (fpForm w o.size { o.req nd 0 0 0 with eBad := o.aux.getLsbD 1 && decide (16 < o.a.toNat + 32 / w.part) } o.g o.d.toNat nd
      fun l => (e l).round (if o.aux.getLsbD 0 then .f64 else .f32) (overridden w o).rm)
  | .red o => some (fpForm w o.size { o.req 1 1 0 0 with conv := .tiles } o.g o.d.toNat 1 fun l =>
      redLanes o.aux.toNat (overridden w o) (w.getV o.a.toNat) ((List.range 32).filter (peer w o.g l)))
  | .scan o => some (fpForm w o.size { o.req 1 1 0 0 with conv := .tiles } o.g o.d.toNat 1 fun l =>
      let op := o.aux.toNat % 16
      let ks := (List.range 32).filter fun k => peer w o.g l k && (decide (k < l) || (!o.aux.getLsbD 4 && k == l))
      if ks = [] then ((redIdentity op).toNat, {}) else redLanes op (overridden w o) (w.getV o.a.toNat) ks)
  | .bpack o => if w.part < 16 then none else
      some (fpForm w o.size { o.req 1 1 0 0 with conv := .tiles } o.g o.d.toNat 1 fun l =>
        let r := packHalf o.aux.toNat w o.a.toNat (w.active o.g) (l / 16)
        (if l % 16 < blockWords o.aux.toNat then r.code / 2 ^ (32 * (l % 16)) % 2 ^ 32 else 0, r.fl))
  | _ => none

/-- Every floating-point lane form with register results. -/
def flagForms (w : Warp) (i : Instr) : Option FlagForm :=
  match laFp w i, lxFp w i with
  | some (o, f), _ => some (fpForm w o.size o.req o.g o.d.toNat 1 fun l => f (w.getV o.a.toNat l) (w.lsrc o.b l))
  | _, some (o, f) => some (fpForm w o.size (o.req 1 1 1 1) o.g o.d.toNat 1 fun l =>
      f (w.getV o.a.toNat l) (w.lsrc o.b l) (w.lsrc o.c l))
  | none, none => wideFp w i

/-- 13 R395, R399: the floating-point compares. Each lane has a truth value and flags. -/
def compareForms (w : Warp) : Instr → Option (LxOps × Req × (Nat → Bool × Flags))
  | .fcmp o => some (o, o.req 0 1 1 0, fun l => Fmt.f32.test w.mode (o.aux.toNat % 16) (signed .f32 o.na (w.getV o.a.toNat l).toNat)
      (signed .f32 o.nb (w.lsrc o.b l).toNat))
  | .dcmp o => some (o, o.req 0 2 2 0, fun l => Fmt.f64.test w.mode (o.aux.toNat % 16) (dA w o l) (dB w o l))
  | _ => none

/-- The lanes that raise a condition whose trap FMODE enables (13 R386; 08 Table 8-4): TIV, TOF, TDZ. -/
def trapping (w : Warp) (m : Mask) (fl : Nat → Flags) : Mask :=
  maskIf fun l => inMask m l &&
    ((w.fmode.getLsbD 6 && (fl l).iv) || (w.fmode.getLsbD 7 && (fl l).ovf) || (w.fmode.getLsbD 8 && (fl l).dz))

/-- Whether some lane of a mask raises a condition. -/
def some32 (m : Mask) (p : Nat → Bool) : Bool := (List.range 32).any (fun l => inMask m l && p l)

/-- The flags that the lanes of a mask raise together. -/
def union (m : Mask) (fl : Nat → Flags) : Flags where
  iv := some32 m fun l => (fl l).iv
  dz := some32 m fun l => (fl l).dz
  ovf := some32 m fun l => (fl l).ovf
  uf := some32 m fun l => (fl l).uf
  nx := some32 m fun l => (fl l).nx
  mn := some32 m fun l => (fl l).mn
  ms := some32 m fun l => (fl l).ms
  xo := some32 m fun l => (fl l).xo

/-! ## Exact accumulators (13 R402 to R405; 10 R309 to R311) -/

/-- The term that XADD and XSUB take from lane l: FP32, FP16, BF16, INT32 or FP64 (Table 13-11). -/
def termOf (w : Warp) (o : LxOps) (l : Nat) : FVal :=
  match o.aux.toNat / 2 % 8 with
  | 0 => Fmt.f32.unpack (w.lsrc o.b l).toNat
  | 1 => Fmt.f16.unpack ((w.lsrc o.b l).toNat % 65536)
  | 2 => Fmt.bf16.unpack ((w.lsrc o.b l).toNat % 65536)
  | 3 => .fin (decide ((w.lsrc o.b l).toInt < 0)) (w.lsrc o.b l).toInt.natAbs 0
  | _ => Fmt.f64.unpack (w.lsrcF64 o.b l).toNat

/-- A finite term times 2^160, rounded down to an integer, negated first for XSUB; 0 for a term that is not finite. -/
def onGrid (neg : Bool) : FVal → Int
  | .fin n m e =>
    let x : Int := if n = neg then (m : Int) else -(m : Int)
    if 0 ≤ e + 160 then x * 2 ^ (e + 160).toNat else Int.fdiv x (2 ^ (-(e + 160)).toNat)
  | _ => 0

/-- Whether a finite term lies between two points of the grid. -/
def offGrid : FVal → Bool
  | .fin _ m e => decide (e + 160 < 0) && m % 2 ^ (-(e + 160)).toNat != 0
  | _ => false

/-- An accumulator after an exact addition of an integer to V (10 R311). -/
def plusExact (a : Acc) (x : Int) : Acc :=
  { a with v := BitVec.ofInt 320 (a.v.toInt + x),
           ovf := a.ovf || decide (a.v.toInt + x < -(2 ^ 319)) || decide (2 ^ 319 ≤ a.v.toInt + x) }

/-- The terms of the lanes of a list added to an accumulator (13 R403): sticky bits by term, V by one addition. -/
def plusTerms (neg : Bool) (a : Acc) (ts : List FVal) : Acc :=
  plusExact { a with nan := a.nan || ts.any (fun t => t == .nan true || t == .nan false),
                     pinf := a.pinf || ts.any (fun t => t == .inf neg),
                     ninf := a.ninf || ts.any (fun t => t == .inf (!neg)),
                     inx := a.inx || ts.any offGrid } (ts.map (onGrid neg)).sum

/-- Whether an addition leaves the 320-bit range. -/
def leaves (a : Acc) (x : Int) : Bool := decide (a.v.toInt + x < -(2 ^ 319)) || decide (2 ^ 319 ≤ a.v.toInt + x)

/-- The lanes whose terms go to e(r): in one-lane mode the lowest active lane's to e(d); in tile mode those of tile r − d. -/
def feeds (w : Warp) (o : LxOps) (r : Nat) : List Nat :=
  let act := (List.range 32).filter (inMask (w.active o.g))
  if o.aux.getLsbD 0 then act.filter (fun l => decide (l / w.part < 32 / w.part ∧ r = o.d.toNat + l / w.part))
  else if r = o.d.toNat then act.take 1 else []

/-- The lanes whose terms are added at all. -/
def fed (w : Warp) (o : LxOps) : List Nat :=
  let act := (List.range 32).filter (inMask (w.active o.g))
  if o.aux.getLsbD 0 then act else act.take 1

/-- The flags of lane l: IV for a signalling NaN; XO, for every lane, where some sum leaves the range. -/
def sumFlags (w : Warp) (o : LxOps) (neg : Bool) (l : Nat) : Flags :=
  { iv := termOf w o l == .nan true,
    xo := (List.range 160).any fun r => feeds w o r != [] &&
      leaves (w.getE r) ((feeds w o r).map (fun k => onGrid neg (termOf w o k))).sum }

/-- XADD and XSUB: (operands, whether terms are negated). -/
def addForms : Instr → Option (LxOps × Bool)
  | .xadd o => some (o, false)
  | .xsub o => some (o, true)
  | _ => none

/-- What rows 3 to 7 ask of XADD and XSUB. -/
def addReq (w : Warp) (o : LxOps) : Req :=
  { o.req 0 0 (if o.aux.toNat / 2 % 8 = 4 then 2 else 1) 0 with
    eBad := o.aux.getLsbD 0 && decide (16 < o.d.toNat + 32 / w.part), conv := if o.aux.getLsbD 0 then .tiles else .none }

/-- 13 R404, R413: XGET, XSTAT and BUNPK. -/
def accForms (w : Warp) : Instr → Option LaneForm
  | .xget o => some { lxForm o 1 0 0 0 (fun _ l =>
      (w.getE (if o.aux.getLsbD 4 then o.a.toNat + l / w.part else o.a.toNat)).v.extractLsb' (32 * (o.aux.toNat % 16)) 32) with
      req := { o.req 1 0 0 0 with eBad := o.aux.getLsbD 4 && decide (16 < o.a.toNat + 32 / w.part) } }
  | .xstat o => some { lxForm o 1 0 0 0 (fun _ l =>
      let a := w.getE (if o.aux.getLsbD 0 then o.a.toNat + l / w.part else o.a.toNat)
      BitVec.ofNat 32 (a.pinf.toNat + 2 * a.ninf.toNat + 4 * a.nan.toNat + 8 * a.ovf.toNat + 16 * a.inx.toNat)) with
      req := { o.req 1 0 0 0 with eBad := o.aux.getLsbD 0 && decide (16 < o.a.toNat + 32 / w.part) } }
  | .bunpk o => if w.part < 16 then none else
      some { lxForm o 1 1 0 0 (fun _ l =>
        let code := ((List.range (blockWords o.aux.toNat)).map fun i => (w.getV o.a.toNat (16 * (l / 16) + i)).toNat * 2 ^ (32 * i)).sum
        BitVec.ofNat 32 (blockToF32 (blockElem o.aux.toNat code (l % 16)))) with req := { o.req 1 1 0 0 with conv := .tiles } }
  | _ => none

/-! ## Uniform words (12 R353 to R358) -/

/-- A uniform word that writes `n` s registers from s(d) on. -/
structure UniForm where
  size : Nat
  req : Req
  q : BitVec 3
  d : Nat
  n : Nat
  val : Nat → Word

def uxForm (o : UxOps) (req : Req) (n : Nat) (val : Nat → Word) : UniForm := ⟨o.size, req, o.q, o.d.toNat, n, val⟩

/-- The s registers after it. -/
def UniForm.wrote (f : UniForm) (w w' : Warp) : Prop :=
  ∀ r, w'.getS r = if f.d ≤ r ∧ r < f.d + f.n then f.val (r - f.d) else w.getS r

/-- The c operand of UBFI: an s register, or with ck = 1 a number. -/
def uc (w : Warp) (o : UxOps) : Word := if o.ck then BitVec.ofNat 32 o.c.toNat else w.getS o.c.toNat

/-- The v register of URDL and UWRL: 64 higher with MOD [0]. -/
def lane64 (o : UxOps) : Nat := o.a.toNat + 64 * (o.md.toNat % 2)

/-- The forms that write s registers. -/
def uniForms (w : Warp) (i : Instr) : Option UniForm :=
  match uaInt i, uixInt i with
  | some (o, f), _ => some ⟨o.size, {}, o.q, o.d.toNat, 1, fun _ => f (w.getS o.a.toNat) (w.usrc o.b)⟩
  | _, some (o, f) => some (uxForm o {} 1 fun _ => f (w.getS o.a.toNat) (w.usrc o.b) (uc w o))
  | none, none =>
    match i with
    | .usel o => some (uxForm o {} 1 fun _ => if w.getQ o.c.toNat then w.getS o.a.toNat else w.usrc o.b)
    | .uiadd64 o =>
      let x : Dword := match o.b with
        | .sreg r => w.getS64 r.toNat
        | .imm n => n.signExtend 64
        | .lit k => k.signExtend 64
      some (uxForm o { ss := [(o.d.toNat, 2), (o.a.toNat, 2)] ++ o.b.sSpan 2 } 2 fun k => half k (w.getS64 o.a.toNat + x))
    | .ulea64 o =>
      let x : Dword := if o.md.toNat % 2 = 1 then (w.usrc o.b).signExtend 64 else (w.usrc o.b).zeroExtend 64
      some (uxForm o { ss := [(o.d.toNat, 2), (o.a.toNat, 2)] } 2 fun k => half k (w.getS64 o.a.toNat + x <<< o.aux.toNat))
    | .urdl o => some (uxForm o { vs := [(lane64 o, 1)] } 1 fun _ => w.getV (lane64 o) ((w.usrc o.b).toNat % 32))
    | _ => none

/-- The forms that write q(d). -/
def uniPreds (w : Warp) : Instr → Option (UxOps × Bool)
  | .ucmp o => some (o, meets o.md.toNat (w.getS o.a.toNat) (w.usrc o.b))
  | .uqlop o =>
    let b := match o.b with
      | .sreg r => w.getQ r.toNat
      | _ => false
    some (o, o.aux.getLsbD (4 * (w.getQ o.a.toNat).toNat + 2 * b.toNat + (w.getQ o.c.toNat).toNat))
  | _ => none

/-- The flag a matrix command selects, and its descriptor's span. -/
def mxReq (o : UxOps) (n : Nat) : Req :=
  { ss := if n = 0 then [] else [(o.a.toNat, n)], fs := some o.fs, mx := true, conv := .live }

/-- The flag and the pair or word of a memory form. -/
def umReq (o : UmOps) (nb : Nat) (store live : Bool) : Req :=
  { ss := o.memReq (regsFor o.m.nbytes) nb, fs := some o.m.fs, plainStore := store && o.m.ord == 0,
    conv := if live then .live else .none }

/-- A queue operation's address pair and its entry of 8, 16, 32 or 64 bytes (14 R443). -/
def mqReq (o : UxOps) : Req :=
  let b := match o.b with
    | .sreg r => r.toNat
    | _ => 0
  { ss := [(o.a.toNat, 2), (b, 2 * 2 ^ (o.md.toNat % 4))], fs := some o.fs, conv := .live }

/-- Every uniform word with a q guard but ERET (12 R367) and the NOP: guard, words, and what rows 3 to 7 ask of it. -/
def uniGuard (w : Warp) (i : Instr) : Option (BitVec 3 × Nat × Req) :=
  match uniForms w i, uniPreds w i with
  | some f, _ => some (f.q, f.size, f.req)
  | _, some (o, _) => some (o.q, o.size, {})
  | none, none =>
    match i with
    | .uwrl o => some (o.q, o.size, { vs := [(lane64 o, 1)], conv := .live })
    | .bru o => some (o.q, 1, {})
    | .callu o => some (o.q, 1, {})
    | .retu o => some (o.q, 1, {})
    | .jmpu o => some (o.q, 2, {})
    | .callx o => some (o.q, 2, {})
    | .retx o => some (o.q, 1, {})
    | .exitw o => some (o.q, 1, { conv := .live })
    | .trap o => some (o.q, o.size, {})
    | .brkpt o => some (o.q, o.size, {})
    | .svc o => some (o.q, o.size, { ss := [(o.a.toNat, 8), (o.d.toNat, 4)], fs := some o.fs, conv := .live })
    | .srd o =>
      let x := o.aux.toNat % 64
      let n := if x = 24 ∨ x = 26 ∨ x = 27 then 2 else 1
      let d := o.d.toNat + (if o.md.toNat / 2 % 2 = 1 then 64 else 0)
      some (o.q, o.size, if o.md.toNat % 2 = 1 then { vs := [(d, n)] } else { ss := [(d, n)] })
    | .swr o =>
      let x := o.aux.toNat % 64
      some (o.q, o.size, { ss := [(o.a.toNat, if x = 24 ∨ x = 26 ∨ x = 27 then 2 else 1)],
                           conv := if x = 16 ∨ x = 17 ∨ x = 18 then .live else .none })
    | .smode o => some (o.q, o.size, { conv := .live })
    | .part o => some (o.q, o.size, { conv := .live })
    | .ovlld o => some (o.q, o.size, { fs := some o.fs, conv := .live })
    | .yield o => some (o.q, o.size, {})
    | .sleep o => some (o.q, o.size, {})
    | .fence o => some (o.q, o.size, { conv := .live })
    | .pub o => some (o.q, o.size, { fs := some o.fs, conv := .live, ss := [(o.a.toNat, 2)] })
    | .waitmem o =>
      let wide := o.md.toNat / 4 % 2 = 1
      some (o.q, o.size, { ss := [(o.a.toNat, if o.md.toNat % 4 = 0 then 2 else 1)] ++
                                (if wide then [(o.d.toNat, 2)] ++ o.b.sSpan 2 else []),
                           fs := some o.fs, conv := .live })
    | .barInit o => some (o.q, o.size, { conv := .live })
    | .barArrive o => some (o.q, o.size, { conv := .live })
    | .barExpect o => some (o.q, o.size, { conv := .live })
    | .barTest o => some (o.q, o.size, { conv := .live })
    | .barInval o => some (o.q, o.size, { conv := .live })
    | .barWait o => some (o.q, o.size, { fs := some o.fs, conv := .live })
    | .launch o => some (o.q, o.size, { ss := [(o.a.toNat, 2)], fs := some o.fs, conv := .live })
    | .cntadd o => some (o.q, o.size, { conv := .live })
    | .cancel o => some (o.q, o.size, { conv := .live })
    | .cntwait o => some (o.q, o.size, { fs := some o.fs, conv := .live })
    | .uld o => some (o.q, o.size, umReq o 0 false false)
    | .ust o => some (o.q, o.size, umReq o 0 true true)
    | .uatom o => some (o.q, o.size, umReq o (atomRegs o.m.aop.toNat o.m.nbytes) false true)
    | .mqEnq o => some (o.q, o.size, mqReq o)
    | .mqDeq o => some (o.q, o.size, mqReq o)
    | .txf o => some (o.q, o.size, { ss := [(o.a.toNat, 2)], fs := some o.fs, conv := .live })
    | .txcan o => some (o.q, o.size, { fs := some o.fs, conv := .live })
    | .qfuse o => some (o.q, o.size, mxReq o 0)
    | .wload o => some (o.q, o.size, mxReq o 4)
    | .wswap o => some (o.q, o.size, mxReq o 0)
    | .mms o => some (o.q, o.size, mxReq o 8)
    | .aclr o => some (o.q, o.size, mxReq o 0)
    | .adrn o => some (o.q, o.size, mxReq o 8)
    | .mstat o => some (o.q, o.size, mxReq o 0)
    | _ => none

/-- What rows 3 to 7 ask of any word (11 Table 11-7). -/
def wordReq (w : Warp) (i : Instr) : Option Req :=
  match laInt i, ixInt i, selectForms w i, crossForms w i, predForms w i, flagForms w i, compareForms w i, addForms i with
  | some (o, _), _, _, _, _, _, _, _ => some o.req
  | _, some (o, _), _, _, _, _, _, _ => some (o.req 1 1 1 1)
  | _, _, some f, _, _, _, _, _ => some f.req
  | _, _, _, some f, _, _, _, _ => some f.req
  | _, _, _, _, some f, _, _, _ => some f.req
  | _, _, _, _, _, some f, _, _ => some f.req
  | _, _, _, _, _, _, some (_, r, _), _ => some r
  | _, _, _, _, _, _, _, some (o, _) => some (addReq w o)
  | _, _, _, _, _, _, _, _ =>
    match accForms w i, uniGuard w i with
    | some f, _ => some f.req
    | _, some (_, _, r) => some r
    | none, none =>
      match i with
      | .bpack o => some { o.req 1 1 0 0 with conv := .tiles }
      | .bunpk o => some { o.req 1 1 0 0 with conv := .tiles }
      | .xclr o => some { eBad := decide (16 < o.d.toNat + (o.aux.toNat % 16 + 1)) }
      | .xset o => some (o.req 0 0 1 0)
      | .xmov _ => some {}
      | .br _ => some {}
      | .call o => some { vs := [(o.d.toNat, 1)] }
      | .ret o => some { vs := [(o.d.toNat, 1)] }
      | .exit _ => some {}
      | .jmpi o => some { vs := [(o.a.toNat, 1)] }
      | .ld o => some { vs := o.memReq (regsFor o.m.nbytes) 0, fs := some o.m.fs }
      | .st o => some { vs := o.memReq (regsFor o.m.nbytes) 0, fs := some o.m.fs, plainStore := o.m.ord == 0 }
      | .atom o => some { vs := o.memReq (regsFor o.m.nbytes) (atomRegs o.m.aop.toNat o.m.nbytes), fs := some o.m.fs }
      | .cpa o => some { vs := o.memReq 1 0, fs := some o.m.fs }
      | .ardl o => some { o.req 1 1 0 0 with fs := some o.fs, mx := true }
      | .eret _ => some {}
      | .nop _ => some {}
      | _ => none

/-- The first of rows 3 to 7 of 11 Table 11-7 that finds something wrong: its cause, TMASK and reason. -/
def firstFault (w : Warp) (r : Req) : Option (Nat × Mask × Nat) :=
  let m := w.clause.mask
  -- row 3: a v register at or above 8b
  if ∃ p ∈ r.vs, 8 * w.budget < min (p.1 + p.2) 128 then some (0x01, m, 3)
  -- row 4: a pair or quad that is not aligned, or that reaches past v127 or s63; e registers past e15
  else if (∃ p ∈ r.vs, p.1 % p.2 ≠ 0 ∨ 128 < p.1 + p.2) ∨ (∃ p ∈ r.ss, p.1 % p.2 ≠ 0 ∨ 64 < p.1 + p.2) ∨ r.eBad = true then
    some (0x01, m, 4)
  -- row 5: no flag, and not a plain store
  else if r.plainStore = false ∧ ∃ fs ∈ r.fs, (if fs then w.clause.fb else w.clause.fa) = 15 then some (0x01, m, 5)
  -- row 6: a matrix command outside an M warp
  else if r.mx = true ∧ w.role ≠ .m then some (0x12, m, 0)
  -- row 7: an entry that is not converged
  else if r.conv = .live ∧ m ≠ w.live then some (0x03, m, 0)
  else if r.conv = .tiles ∧ w.strays ≠ 0 then some (0x03, w.strays, 0)
  else none

/-! ## Special registers (08 Table 8-3) -/

/-- What the registers without a clock read, for the issuing warp: index 26 and 27 are none, and so is an index past 44. -/
def specialValue (s : State) (x : Nat) : Option Nat :=
  let g := s.group
  let w := s.warp
  let core := match g.place with
    | .core c => c
    | _ => 0
  match x with
  | 0 => some 0
  | 1 => some s.curW
  | 2 => some w.subcore
  | 3 => some core
  | 4 => some (core / 8)
  | 5 => some (match w.role with | .c => 0 | .m => 1 | .v => 2)
  | 6 => some g.nwarps
  | 7 => some g.idx.1
  | 8 => some g.idx.2.1
  | 9 => some g.idx.2.2
  | 10 => some g.dim.1
  | 11 => some g.dim.2.1
  | 12 => some g.dim.2.2
  | 13 => some g.launchId
  | 14 => some g.jobId
  | 15 => some g.phaseId
  | 16 => some w.fmode.toNat
  | 17 => some w.part
  | 18 => some g.gnstat.toNat
  | 19 => some g.glade
  | 20 => some g.ctx
  | 21 => some w.tcause.toNat
  | 22 => some w.tpc.toNat
  | 23 => some w.tmask.toNat
  | 24 => some w.taddr.toNat
  | 25 => some w.tinfo.toNat
  | 26 => none
  | 27 => none
  | 28 => some (((List.range 12).map (fun i => (if w.getF i = 0 then 0 else 2 ^ i) + 4096 * w.getF i)).sum)
  | 29 => some ((s.frontOf w).length + 256 * w.clause.prio + (if w.clause.d then 2 ^ 14 else 0))
  | 42 => some g.rank
  | 43 => some g.gangSize
  | 44 => some g.nodeId
  | x => if 30 ≤ x ∧ x ≤ 37 then some (s.wpos s.curG (x - 30)) else if 38 ≤ x ∧ x ≤ 41 then some (s.awm s.curG (x - 38)) else none

/-! ## Memory words (14 R415 to R424) -/

/-- A load, store or atomic at issue: its guard (true for the lane forms), its fields, the destination, and its accesses. -/
structure MemForm where
  size : Nat
  req : Req
  go : Bool
  m : MemFields
  kind : AccessKind
  tk : AccKind
  /-- Bits [7:4] of TINFO: 0 read, 1 write, 2 atomic. -/
  code : Nat
  /-- Whether it must be naturally aligned on every page. -/
  strict : Bool
  uniform : Bool
  dst : Nat
  as : List Acc1

/-- The address: a pair and the offset in G space, else 32 bits and the offset (11 R328). -/
def address (m : MemFields) (pair : Dword) (low : Word) : Nat :=
  if m.space = 0 then (pair + m.off.signExtend 64).toNat else (low + m.off.signExtend 32).toNat

/-- The first `n` bytes of registers, each read by `r`. -/
def registerBytes (n : Nat) (r : Nat → Word) : List Byte :=
  (List.range n).map fun k => BitVec.ofNat 8 ((r (k / 4)).toNat / 256 ^ (k % 4))

/-- The number that `n` bytes of registers hold. -/
def registerNumber (n : Nat) (r : Nat → Word) : Nat :=
  ((List.range n).map fun k => (r (k / 4)).toNat / 256 ^ (k % 4) % 256 * 256 ^ k).sum

/-- The operands of an atomic: (x or the new value, the compare value); CAS has the compare value first (14 Table 14-3). -/
def atomicPair (m : MemFields) (r : Nat → Word) : Nat × Nat :=
  let n := m.nbytes
  let k := if n ≤ 4 then 1 else n / 4
  if m.aop = 9 then (registerNumber n (fun i => r (k + i)), registerNumber n r) else (registerNumber n r, 0)

/-- What the i-th operand register of b holds in lane l: an immediate stands for itself. -/
def operandReg (w : Warp) (b : LSrc) (l i : Nat) : Word :=
  match b with
  | .vreg r => w.getV (r.toNat + i) l
  | b => if i = 0 then w.lsrc b l else 0

def operandSReg (w : Warp) (b : USrc) (i : Nat) : Word :=
  match b with
  | .sreg r => w.getS (r.toNat + i)
  | b => if i = 0 then w.usrc b else 0

/-- The active lanes of a lane form, ascending. -/
def activeLanes (w : Warp) (g : BitVec 3) : List Nat := (List.range 32).filter (inMask (w.active g))

def memForms (w : Warp) : Instr → Option MemForm
  | .ld o => some { size := o.size, req := { vs := o.memReq (regsFor o.m.nbytes) 0, fs := some o.m.fs }, go := true, m := o.m,
                    kind := .load, tk := .read, code := 0, strict := o.m.ord != 0, uniform := false, dst := o.d.toNat,
                    as := (activeLanes w o.g).map fun l =>
                      { lane := l, addr := address o.m (w.getV64 o.a.toNat l) (w.getV o.a.toNat l) } }
  | .st o => some { size := o.size, go := true, m := o.m, kind := .store, tk := .write, code := 1, strict := o.m.ord != 0,
                    req := { vs := o.memReq (regsFor o.m.nbytes) 0, fs := some o.m.fs, plainStore := o.m.ord == 0 },
                    uniform := false, dst := 0, as := (activeLanes w o.g).map fun l =>
                      { lane := l, addr := address o.m (w.getV64 o.a.toNat l) (w.getV o.a.toNat l),
                        data := registerBytes o.m.nbytes (fun i => w.getV (o.d.toNat + i) l) } }
  | .atom o => some { size := o.size, go := true, m := o.m, kind := .atomic o.m.aop.toNat, tk := .atomic, code := 2, strict := true,
                      req := { vs := o.memReq (regsFor o.m.nbytes) (atomRegs o.m.aop.toNat o.m.nbytes), fs := some o.m.fs },
                      uniform := false, dst := o.d.toNat, as := (activeLanes w o.g).map fun l =>
                        { lane := l, addr := address o.m (w.getV64 o.a.toNat l) (w.getV o.a.toNat l),
                          x := (atomicPair o.m (operandReg w o.b l)).1, cmp := (atomicPair o.m (operandReg w o.b l)).2 } }
  | .uld o => some { size := o.size, req := umReq o 0 false false, go := w.guard o.q, m := o.m, kind := .load, tk := .read, code := 0,
                     strict := o.m.ord != 0, uniform := true, dst := o.d.toNat,
                     as := [{ lane := lowestLane w.clause.mask, addr := address o.m (w.getS64 o.a.toNat) (w.getS o.a.toNat) }] }
  | .ust o => some { size := o.size, req := umReq o 0 true true, go := w.guard o.q, m := o.m, kind := .store, tk := .write, code := 1,
                     strict := o.m.ord != 0, uniform := true, dst := 0,
                     as := [{ lane := lowestLane w.clause.mask, addr := address o.m (w.getS64 o.a.toNat) (w.getS o.a.toNat),
                              data := registerBytes o.m.nbytes (fun i => w.getS (o.d.toNat + i)) }] }
  | .uatom o => some { size := o.size, req := umReq o (atomRegs o.m.aop.toNat o.m.nbytes) false true, go := w.guard o.q, m := o.m,
                       kind := .atomic o.m.aop.toNat, tk := .atomic, code := 2, strict := true, uniform := true, dst := o.d.toNat,
                       as := [{ lane := lowestLane w.clause.mask, addr := address o.m (w.getS64 o.a.toNat) (w.getS o.a.toNat),
                                x := (atomicPair o.m (operandSReg w o.b)).1, cmp := (atomicPair o.m (operandSReg w o.b)).2 }] }
  | _ => none

/-- Nothing holds a memory word: no fence is pending, and the flag it selects has room (08 R251; 14 R425). -/
def free (w : Warp) (fs : Bool) : Prop := w.fence = none ∧ (w.clause.flagOf fs = 15 ∨ w.getF (w.clause.flagOf fs) ≠ 63)

/-- What its operation does when a part is performed. -/
def MemForm.body (f : MemForm) : AccessBody where
  kind := f.kind
  uniform := f.uniform
  space := f.m.space.toNat
  bytes := f.m.nbytes
  sx := f.m.sx
  policy := f.m.policy.toNat
  dst := f.dst

/-- The operation of an access with parts. -/
def MemForm.op (f : MemForm) (s u : State) (parts : List Part) : Op :=
  { id := u.nextOp, owner := .warp s.curG s.curW, flag := s.warp.clause.flagOf f.m.fs, ord := f.m.ord.toNat, scope := f.m.scope.toNat,
    parts := parts, body := if f.as = [] then .nothing else .access f.body }

/-- The part of an aligned access outside G space. -/
def MemForm.part (f : MemForm) (s : State) (a : Acc1) : Part :=
  { lane := a.lane, addr := a.addr, len := f.m.nbytes, place := s.placeOf s.curG s.curW a.lane f.m.space.toNat a.addr,
    data := a.data, x := a.x, cmp := a.cmp }

/-- An operation of the issuing warp without parts. -/
def plainOp (s u : State) (fs : Bool) (ord scope : Nat) (body : OpBody) : Op :=
  { id := u.nextOp, owner := .warp s.curG s.curW, flag := s.warp.clause.flagOf fs, ord := ord, scope := scope, body := body }

/-! ## Barriers (14 R429 to R431) -/

/-- The object that a BAR form names: its address in s(a), in C space or, with MOD [0], in V space. -/
def barSpaceOf (o : UxOps) : Nat := if o.md.toNat % 2 = 1 then 2 else 1
def barAddr (s : State) (o : UxOps) : Nat := (s.warp.getS o.a.toNat).toNat
def barAt (s : State) (o : UxOps) : Nat × Nat := s.barLoc s.curG (barSpaceOf o) (barAddr s o)

/-- A BAR form may act on its object: the address is in its space and aligned, and no fence holds the word. -/
def barGoes (s : State) (o : UxOps) : Prop :=
  s.warp.clause.mask = s.warp.live ∧ s.warp.guard o.q = true ∧ s.warp.fence = none ∧
    s.inSpace s.group (barSpaceOf o) (barAddr s o) 16 = true ∧ barAddr s o % 16 = 0 ∧ (s.groupAt (barAt s o).1).place ≠ .none

/-- The sixteen bytes of the object are now those of `b`, and no other byte of a scratchpad and nothing else of a group has
changed. -/
def barBecomes (s t : State) (l : Nat × Nat) (b : Bar) : Prop :=
  (∀ k, k < 16 → Map.get 0 (t.groupAt l.1).cmem (l.2 + k) = b.bytes.getD k 0) ∧
    (∀ a, a < l.2 ∨ l.2 + 16 ≤ a → Map.get 0 (t.groupAt l.1).cmem a = Map.get 0 (s.groupAt l.1).cmem a) ∧
    t.groupAt l.1 = { s.groupAt l.1 with cmem := (t.groupAt l.1).cmem } ∧ ∀ g, g ≠ l.1 → t.groupAt g = s.groupAt g

/-- check(o) finds nothing wrong. -/
def barSound (b : Bar) : Prop := b.st ≠ 3 ∧ b.cls ≠ 3 ∧ b.scope ≤ 2 ∧ b.resv = 0 ∧ b.pa ≤ b.ex

/-- complete_if_due: with nothing pending the phase turns and the arrivals begin anew. -/
def ifDue (b : Bar) : Bar := if b.pa = 0 ∧ b.pb = 0 then { b with ph := !b.ph, pa := b.ex, w := 0 } else b

/-- The waiters of an object that still wait. -/
def waitsOn (s : State) (l : Nat × Nat) (o : Op) : Bool :=
  match o.body, o.owner with
  | .barWait b, .warp g _ => s.barLoc g b.space b.addr == l && b.answer.isNone && (s.groupAt g).place != .saved
  | _, _ => false

/-- The operations after an object's waiters have been released with `x`, or not. -/
def released (s : State) (l : Nat × Nat) (x : Option Bool) : List Op :=
  match x with
  | none => s.ops
  | some x => s.ops.map fun o =>
    if waitsOn s l o then
      match o.body with
      | .barWait b => { o with body := .barWait { b with answer := some x } }
      | _ => o
    else o

/-- A fixed-latency BAR form has acted: on the object, on its waiters, and on the issuing warp's registers `w`. -/
def barActed (s t : State) (o : UxOps) (b : Bar) (x : Option Bool) (w : Warp) : Prop :=
  barBecomes s t (barAt s o) b ∧ t.ops = released s (barAt s o) x ∧ t = { s with groups := t.groups, ops := t.ops, warps := t.warps } ∧
    (∀ k, k ≠ warpKey s.curG s.curW → Map.get {} t.warps k = Map.get ({} : Warp) s.warps k) ∧ t.warp.regs = w.regs ∧
    Advanced s t o.size

/-! ## Matrix commands (15 R447 to R462) -/

/-- The number in the k-th register of a descriptor. -/
def field (s : State) (o : UxOps) (k : Nat) : Nat := (s.warp.getS (o.a.toNat + k)).toNat

/-- A signed number in a register. -/
def fieldInt (s : State) (o : UxOps) (k : Nat) : Int := (s.warp.getS (o.a.toNat + k)).toInt

/-- The descriptors of 15 Tables 15-4 to 15-6. -/
def wloadOf (s : State) (o : UxOps) : WloadDesc where
  saddr := field s o 0
  stride := fieldInt s o 1
  scale := s.warp.getS (o.a.toNat + 2)
  space := if field s o 3 / 16 = 1 then 2 else 1
  fmt := field s o 3 % 16

def mmsOf (s : State) (o : UxOps) (seq : Nat) : MmsDesc where
  addr := field s o 0
  stride := fieldInt s o 1
  ascale := s.warp.getS (o.a.toNat + 2)
  space := if field s o 3 / 2 ^ 18 = 1 then 2 else 1
  row0 := field s o 3 / 2 ^ 9 % 2 ^ 9
  rows := field s o 3 % 2 ^ 9 + 1
  kmask := BitVec.ofNat 64 (field s o 4 + 2 ^ 32 * field s o 5)
  afmt := o.md.toNat % 16
  ovw := o.md.getLsbD 4
  seq := seq

def adrnOf (s : State) (o : UxOps) (bsp : Nat) (gen : Option Nat) : AdrnDesc where
  daddr := field s o 0
  stride := fieldInt s o 1
  oscale := s.warp.getS (o.a.toNat + 2)
  bspace := bsp
  be := decide (field s o 3 / 2 ^ 14 % 2 = 1)
  clr := decide (field s o 3 / 2 ^ 13 % 2 = 1)
  dspace := if field s o 3 / 2 ^ 12 % 2 = 1 then 2 else 1
  ofmt := field s o 3 / 2 ^ 8 % 16
  ntiles := field s o 3 / 16 % 16 + 1
  tile0 := field s o 3 % 16
  baddr := field s o 4
  gen := gen

/-- Every row of `n` bytes lies in its space, and base and stride are multiples of 4. -/
def rowsLie (s : State) (space base : Nat) (stride : Int) (rows n : Nat) : Prop :=
  (∀ r, r < rows → 0 ≤ (base : Int) + r * stride ∧ s.inSpace s.group space ((base : Int) + r * stride).toNat n = true) ∧
    base % 4 = 0 ∧ stride % 4 = 0

/-- The quadrant of the issuing warp's sub-core. -/
def ownQuad (s : State) : Nat := 4 * s.group.coreId + s.warp.subcore

/-- A quadrant as the command's group sees it: cleared where it is free (15 R447). -/
def seen (s : State) (q : Quad) : Quad :=
  if q.holder = none then { spares := q.spares, offline := q.offline, holder := some s.curG } else q

/-- The warp may issue a matrix command to its own quadrant: an M warp, converged, not on the odd side of a pair its group
has fused, and no other group holds the quadrant, or its partner where they are fused. -/
def mxGoes (s : State) (o : UxOps) (n : Nat) : Prop :=
  let k := ownQuad s
  s.warp.passes (mxReq o n) ∧ s.warp.guard o.q = true ∧ s.warp.getF (s.warp.clause.flagOf o.fs) ≠ 63 ∧
    s.warp.clause.flagOf o.fs ≠ 15 ∧
    (s.warp.subcore % 2 = 1 → (s.quadAt (k - 1)).viewF = false ∨ (s.quadAt (k - 1)).holder ≠ some s.curG) ∧
    ((s.quadAt k).holder = none ∨ (s.quadAt k).holder = some s.curG) ∧
    ((s.quadAt k).viewF = true → (s.quadAt (k + 1)).holder = none ∨ (s.quadAt (k + 1)).holder = some s.curG)

/-- A command has joined the queue of its quadrant, as an operation of the warp; `view` is what the group's later commands
see of the quadrant. No other quadrant has changed. -/
def queued (s t : State) (o : UxOps) (body : MxBody) (view : Quad → Quad) : Prop :=
  ∃ u, Issued s u t o.size o.fs (plainOp s s o.fs 0 1 .matrix) ∧ u = { s with quads := u.quads } ∧
    (∀ k, k ≠ ownQuad s → u.quadAt k = s.quadAt k) ∧
    u.quadAt (ownQuad s) = { view (seen s (s.quadAt (ownQuad s))) with
      queue := (view (seen s (s.quadAt (ownQuad s)))).queue ++
        [{ op := s.nextOp, gid := s.curG, wid := s.curW, body := body, fmode := s.warp.fmode }] }

end Sys2Proof.Claims

open Sys2Proof Sys2Proof.Machine Sys2Proof.Claims

/-! ## Lane integer words -/

/-- 13 R381, R388, Table 13-3: each LA integer form writes its result into v(d) of the active lanes, keeps every other
register and all the rest of the machine, and steps past its words. -/
def Sys2Proof.Claims.laneIntegerResultsClaim : Prop :=
  ∀ (i : Instr) (o : LaOps) (f : Word → Word → Word) (s : State), laInt i = some (o, f) → s.warp.passes o.req →
    ∃ t, exec i s = .next t ∧ Completed s t o.size { s.warp with v := t.warp.v } ∧
      ∀ r l, l < 32 → t.warp.getV r l =
        if r = o.d.toNat ∧ inMask (s.warp.active o.g) l = true then f (s.warp.getV o.a.toNat l) (s.warp.lsrc o.b l)
        else s.warp.getV r l

/-- 13 R391: the same for the IX forms with a word result. -/
def Sys2Proof.Claims.laneExtendedResultsClaim : Prop :=
  ∀ (i : Instr) (o : LxOps) (f : Word → Word → Word → Word) (s : State), ixInt i = some (o, f) → s.warp.passes (o.req 1 1 1 1) →
    ∃ t, exec i s = .next t ∧ Completed s t o.size { s.warp with v := t.warp.v } ∧
      ∀ r l, l < 32 → t.warp.getV r l =
        if r = o.d.toNat ∧ inMask (s.warp.active o.g) l = true then
          f (s.warp.getV o.a.toNat l) (s.warp.lsrc o.b l) (s.warp.lsrc o.c l)
        else s.warp.getV r l

/-- The LA and IX forms with a word result. -/
def Obligations.LaneIntegerResults : Prop := laneIntegerResultsClaim ∧ laneExtendedResultsClaim

/-- 13 R391, R414: SEL, IADD64 and P2V write their destination in the active lanes and nothing else. -/
def Sys2Proof.Claims.laneSelectResultsClaim : Prop :=
  ∀ (i : Instr) (f : LaneForm) (s : State), selectForms s.warp i = some f → s.warp.passes f.req →
    ∃ t, exec i s = .next t ∧ Completed s t f.size { s.warp with v := t.warp.v } ∧ f.wrote s.warp t.warp

/-- 13 R391, R409, R414: ICMP, PLOP3, V2P, VOTE and ELECT write predicates in the active lanes and nothing else. -/
def Obligations.LanePredicateResults : Prop :=
  ∀ (i : Instr) (f : PredForm) (s : State), predForms s.warp i = some f → s.warp.passes f.req →
    ∃ t, exec i s = .next t ∧ Completed s t f.size { s.warp with p := t.warp.p } ∧ f.wrote s.warp t.warp

/-- 13 R407 to R410: SHFL, VOTE.BALLOT and MATCH: every source is read before any destination is written. -/
def Sys2Proof.Claims.crossLaneResultsClaim : Prop :=
  ∀ (i : Instr) (f : LaneForm) (s : State), crossForms s.warp i = some f → s.warp.passes f.req →
    ∃ t, exec i s = .next t ∧ Completed s t f.size { s.warp with v := t.warp.v } ∧ f.wrote s.warp t.warp

/-! ## Floating-point lane words -/

/-- 13 R385, R386; 08 R248, R308: a floating-point form none of whose active lanes raises an enabled condition writes its
results in the active lanes, sets the GNSTAT bits that they raise, and changes nothing else. -/
def Obligations.FloatResults : Prop :=
  ∀ (i : Instr) (f : FlagForm) (s : State), flagForms s.warp i = some f → s.warp.passes f.req →
    trapping s.warp f.lanes f.fl = 0 →
    ∃ t, exec i s = .next t ∧ CompletedFlags s t f.size { s.warp with v := t.warp.v } (union f.lanes f.fl) ∧
      f.toLaneForm.wrote s.warp t.warp

/-- 13 R395, R399: FCMP and DCMP write p(d) in the active lanes. -/
def Obligations.FloatCompares : Prop :=
  ∀ (i : Instr) (o : LxOps) (r : Req) (c : Nat → Bool × Flags) (s : State), compareForms s.warp i = some (o, r, c) →
    s.warp.passes r → trapping s.warp (s.warp.active o.g) (fun l => (c l).2) = 0 →
    ∃ t, exec i s = .next t ∧
      CompletedFlags s t o.size { s.warp with p := t.warp.p } (union (s.warp.active o.g) (fun l => (c l).2)) ∧
      PredForm.wrote ⟨o.size, r, o.g, onP o fun l => joined s.warp o l (c l).1⟩ s.warp t.warp

/-- 13 R386, 08 R265, Table 8-5: a form some of whose lanes raise an enabled condition takes FP_TRAP: GNSTAT takes the
bits, no destination is written, TMASK holds the lanes, and TINFO says which conditions. -/
def Obligations.FloatTraps : Prop :=
  ∀ (i : Instr) (r : Req) (m : Mask) (fl : Nat → Flags) (s : State),
    ((∃ f : FlagForm, flagForms s.warp i = some f ∧ f.req = r ∧ f.lanes = m ∧ f.fl = fl) ∨
      (∃ o c, compareForms s.warp i = some (o, r, c) ∧ m = s.warp.active o.g ∧ fl = fun l => (c l).2) ∨
      (∃ o neg, addForms i = some (o, neg) ∧ r = addReq s.warp o ∧ m = maskIf (fun l => (fed s.warp o).contains l) ∧
        fl = sumFlags s.warp o neg)) →
    s.warp.passes r → trapping s.warp m fl ≠ 0 →
    exec i s = .next ((s.setGroup { s.group with gnstat := s.group.gnstat ||| (union m fl).bits }).trap
      ⟨0x0D, trapping s.warp m fl, 0,
        (s.warp.fmode.getLsbD 6 && (union m fl).iv).toNat + 2 * (s.warp.fmode.getLsbD 7 && (union m fl).ovf).toNat +
          4 * (s.warp.fmode.getLsbD 8 && (union m fl).dz).toNat⟩)

/-! ## Exact accumulators -/

/-- 13 R403: XADD and XSUB add exactly, one lane's term or a tile's; XO when a sum leaves the range, IV for a signalling
NaN, and FP_TRAP if TIV is set. -/
def Sys2Proof.Claims.accumulatorSumsClaim : Prop :=
  ∀ (i : Instr) (o : LxOps) (neg : Bool) (s : State), addForms i = some (o, neg) → s.warp.passes (addReq s.warp o) →
    trapping s.warp (maskIf fun l => (fed s.warp o).contains l) (sumFlags s.warp o neg) = 0 →
    ∃ t, exec i s = .next t ∧
      CompletedFlags s t o.size { s.warp with e := t.warp.e }
        (union (maskIf fun l => (fed s.warp o).contains l) (sumFlags s.warp o neg)) ∧
      ∀ r, t.warp.getE r = if feeds s.warp o r = [] then s.warp.getE r
        else plusTerms neg (s.warp.getE r) ((feeds s.warp o r).map (termOf s.warp o))

/-- 13 R403, R405: XCLR clears, XSET replaces one word of V, XMOV copies. Each acts once, if some lane is active. -/
def Sys2Proof.Claims.accumulatorWritesClaim : Prop :=
  ∀ (o : LxOps) (s : State),
    (∀ n, n = o.aux.toNat % 16 + 1 → s.warp.passes { eBad := decide (16 < o.d.toNat + n) } →
      ∃ t, exec (.xclr o) s = .next t ∧ Completed s t o.size { s.warp with e := t.warp.e } ∧
        ∀ r, t.warp.getE r =
          if s.warp.active o.g ≠ 0 ∧ o.d.toNat ≤ r ∧ r < o.d.toNat + n then {} else s.warp.getE r) ∧
    (s.warp.passes (o.req 0 0 1 0) →
      ∃ t, exec (.xset o) s = .next t ∧ Completed s t o.size { s.warp with e := t.warp.e } ∧
        (∀ r, r ≠ o.d.toNat ∨ s.warp.active o.g = 0 → t.warp.getE r = s.warp.getE r) ∧
        (s.warp.active o.g ≠ 0 → ∃ v : BitVec 320, t.warp.getE o.d.toNat = { s.warp.getE o.d.toNat with v := v } ∧
          ∀ k, k < 320 → v.getLsbD k =
            if 32 * o.aux.toNat ≤ k ∧ k < 32 * o.aux.toNat + 32 then
              (s.warp.lsrc o.b (lowestLane (s.warp.active o.g))).getLsbD (k - 32 * o.aux.toNat)
            else (s.warp.getE o.d.toNat).v.getLsbD k)) ∧
    (s.warp.passes {} → o.aux.getLsbD 0 = false →
      ∃ t, exec (.xmov o) s = .next t ∧ CompletedFlags s t o.size { s.warp with e := t.warp.e } {} ∧
        ∀ r, t.warp.getE r = if r = o.d.toNat ∧ s.warp.active o.g ≠ 0 then s.warp.getE o.a.toNat else s.warp.getE r) ∧
    (s.warp.passes {} → o.aux.getLsbD 0 = true →
      ∃ t, exec (.xmov o) s = .next t ∧
        CompletedFlags s t o.size { s.warp with e := t.warp.e }
          { xo := decide (s.warp.active o.g ≠ 0) && leaves (s.warp.getE o.d.toNat) (s.warp.getE o.a.toNat).v.toInt } ∧
        ∀ r, t.warp.getE r =
          if r = o.d.toNat ∧ s.warp.active o.g ≠ 0 then
            let a := s.warp.getE o.a.toNat
            let d := plusExact (s.warp.getE o.d.toNat) a.v.toInt
            { d with pinf := d.pinf || a.pinf, ninf := d.ninf || a.ninf, nan := d.nan || a.nan, ovf := d.ovf || a.ovf,
                     inx := d.inx || a.inx }
          else s.warp.getE r)

/-- The forms that write the exact accumulators. -/
def Obligations.AccumulatorWrites : Prop := accumulatorSumsClaim ∧ accumulatorWritesClaim

/-- 13 R404, R413: XGET, XSTAT and BUNPK write v(d) and set no flag. -/
def Sys2Proof.Claims.accumulatorReadsClaim : Prop :=
  ∀ (i : Instr) (f : LaneForm) (s : State), accForms s.warp i = some f → s.warp.passes f.req →
    ∃ t, exec i s = .next t ∧ Completed s t f.size { s.warp with v := t.warp.v } ∧ f.wrote s.warp t.warp

/-- The selections, the forms that read other lanes, and the reads of the exact accumulators. -/
def Obligations.LaneSelectionResults : Prop := laneSelectResultsClaim ∧ crossLaneResultsClaim ∧ accumulatorReadsClaim

/-! ## Uniform words -/

/-- 12 R353, R355, R357, R358: the uniform forms with s results, guard true: s(d), or the pair, and nothing else. -/
def Sys2Proof.Claims.uniformResultsClaim : Prop :=
  ∀ (i : Instr) (f : UniForm) (s : State), uniForms s.warp i = some f → s.warp.passes f.req → s.warp.guard f.q = true →
    ∃ t, exec i s = .next t ∧ Completed s t f.size { s.warp with s := t.warp.s } ∧ f.wrote s.warp t.warp

/-- 12 R357: UCMP and UQLOP write q(d); UWRL writes one lane of one v register, live or not. -/
def Sys2Proof.Claims.uniformPredicatesClaim : Prop :=
  (∀ (i : Instr) (o : UxOps) (b : Bool) (s : State), uniPreds s.warp i = some (o, b) → s.warp.guard o.q = true →
    ∃ t, exec i s = .next t ∧ Completed s t o.size { s.warp with q := t.warp.q } ∧
      ∀ k, t.warp.getQ k = if k = o.d.toNat then b else s.warp.getQ k) ∧
  ∀ (o : UxOps) (s : State), s.warp.passes { vs := [(lane64 o, 1)], conv := .live } → s.warp.guard o.q = true →
    ∃ t, exec (.uwrl o) s = .next t ∧ Completed s t o.size { s.warp with v := t.warp.v } ∧
      ∀ r l, l < 32 → t.warp.getV r l =
        if r = lane64 o ∧ l = (s.warp.usrc o.b).toNat % 32 then uc s.warp o else s.warp.getV r l

/-- The uniform forms with an s, q or lane destination. -/
def Obligations.UniformResults : Prop := uniformResultsClaim ∧ uniformPredicatesClaim

/-- 12 R353: a uniform word whose q guard is false has no effect on any register, flag, memory or unit. -/
def Sys2Proof.Claims.uniformGuardFalseClaim : Prop :=
  ∀ (i : Instr) (q : BitVec 3) (n : Nat) (r : Req) (s : State), uniGuard s.warp i = some (q, n, r) → s.warp.passes r →
    s.warp.guard q = false → ∃ t, exec i s = .next t ∧ Completed s t n s.warp

/-- 11 Table 11-7, rows 3 to 7; 08 R245, R251, R257, R258: a word that fails one of the checks traps with the cause and the
reason of the first that it fails, whatever its guard. -/
def Sys2Proof.Claims.wordChecksClaim : Prop :=
  ∀ (i : Instr) (r : Req) (s : State) (cause info : Nat) (m : Mask), wordReq s.warp i = some r →
    firstFault s.warp r = some (cause, m, info) → exec i s = .next (s.trap ⟨cause, m, 0, info⟩)

/-- What a word does before its own effect: its guard and its checks. -/
def Obligations.WordChecks : Prop := uniformGuardFalseClaim ∧ wordChecksClaim

/-! ## Control transfers -/

/-- 12 R359, R360; 08 R254: BR, CALL and RET move the lanes whose guard is true to their targets and the others to the
next header; CALL writes the return address in the lanes that it moves. -/
def Obligations.LaneTransfers : Prop :=
  ∀ (o : LbOps) (s : State),
    let c := s.warp.clause
    let next : CodeAddr := c.hdr + 1 + BitVec.ofNat 16 c.len
    let takes := inMask (s.warp.active o.g)
    (∃ t, exec (.br o) s = .next t ∧ OnlyWarp s t ∧ t.warp.regs = s.warp.regs ∧
      Moved s t (fun l => some (if takes l then c.pc + o.off.signExtend 16 else next))) ∧
    (s.warp.passes { vs := [(o.d.toNat, 1)] } →
      (∃ t, exec (.call o) s = .next t ∧ OnlyWarp s t ∧ t.warp.regs = ({ s.warp with v := t.warp.v } : Warp).regs ∧
        (∀ r l, l < 32 → t.warp.getV r l = if r = o.d.toNat ∧ takes l = true then next.zeroExtend 32 else s.warp.getV r l) ∧
        Moved s t (fun l => some (if takes l then c.pc + o.off.signExtend 16 else next))) ∧
      ∃ t, exec (.ret o) s = .next t ∧ OnlyWarp s t ∧ t.warp.regs = s.warp.regs ∧
        Moved s t (fun l => some (if takes l then (s.warp.getV o.d.toNat l).extractLsb' 0 16 else next)))

/-- 12 R360, R361, R364: EXIT takes the lanes whose guard is true out of the warp, EXITW every lane. The report of a matrix
NaN that no clause waited for is left to the end of the warp (08 R265). -/
def Obligations.Exits : Prop :=
  (∀ (o : LbOps) (s : State), ∃ t, exec (.exit o) s = .next t.endReports ∧ OnlyWarp s t ∧ t.warp.regs = s.warp.regs ∧
    Moved s t (fun l => if inMask (s.warp.active o.g) l then none
      else some (s.warp.clause.hdr + 1 + BitVec.ofNat 16 s.warp.clause.len))) ∧
  ∀ (o : UbOps) (s : State), s.warp.clause.mask = s.warp.live → s.warp.guard o.q = true →
    ∃ t, exec (.exitw o) s = .next t.endReports ∧ OnlyWarp s t ∧ t.warp.regs = s.warp.regs ∧ Moved s t (fun _ => none)

/-- 12 R362, R363: JMPI and JMPU. A count of 0 or a table outside loaded memory is ILLEGAL_OP, reason 2; an index past the
table is JUMP_RANGE for the lanes that have one; otherwise each lane goes to the word its index selects, once the block
that holds it is in instruction memory. -/
def Sys2Proof.Claims.jumpTablesClaim : Prop :=
  (∀ (o : JmpiOps) (s : State), s.warp.passes { vs := [(o.a.toNat, 1)] } →
    let act := s.warp.active o.g
    let index := fun l => (s.warp.getV o.a.toNat l).toNat
    let word := fun l => s.imemWord s.group (o.table + BitVec.ofNat 16 (index l))
    let bad := maskIf (fun l => inMask act l && decide (o.count.toNat ≤ index l))
    if o.count = 0 ∨ s.group.tableLoaded o.table.toNat o.count.toNat = false then
      exec (.jmpi o) s = .next (s.trap ⟨0x01, s.warp.clause.mask, 0, 2⟩)
    else if bad ≠ 0 then exec (.jmpi o) s = .next (s.trap ⟨0x05, bad, 0, o.count.toNat⟩)
    else (∀ l, l < 32 → inMask act l = true → (word l).isSome = true) →
      ∃ t, exec (.jmpi o) s = .next t ∧ OnlyWarp s t ∧ t.warp.regs = s.warp.regs ∧
        Moved s t (fun l => some (if inMask act l then ((word l).getD 0).extractLsb' 0 16
          else s.warp.clause.hdr + 1 + BitVec.ofNat 16 s.warp.clause.len))) ∧
  ∀ (o : JmpuOps) (s : State), s.warp.guard o.q = true →
    let index := (s.warp.getS o.r.toNat).toNat
    if o.count = 0 ∨ s.group.tableLoaded o.table.toNat o.count.toNat = false then
      exec (.jmpu o) s = .next (s.trap ⟨0x01, s.warp.clause.mask, 0, 2⟩)
    else if o.count.toNat ≤ index then exec (.jmpu o) s = .next (s.trap ⟨0x05, s.warp.clause.mask, 0, o.count.toNat⟩)
    else ∀ x, s.imemWord s.group (o.table + BitVec.ofNat 16 index) = some x →
      ∃ t, exec (.jmpu o) s = .next t ∧ OnlyWarp s t ∧ t.warp.regs = s.warp.regs ∧ Moved s t (fun _ => some (x.extractLsb' 0 16))

/-- 12 R363: the uniform transfers whose guard is true move every lane of the entry to one target; CALLU and CALLX write the
link, CALLX with the caller's overlay; CALLX and RETX to an overlay that is not bound take OVERLAY_ABSENT. NOP has no
effect. -/
def Sys2Proof.Claims.uniformTransfersClaim : Prop :=
  (∀ (o : UbOps) (s : State), s.warp.guard o.q = true →
    let c := s.warp.clause
    let next : CodeAddr := c.hdr + 1 + BitVec.ofNat 16 c.len
    let link := s.warp.getS o.r.toNat
    (∃ t, exec (.bru o) s = .next t ∧ OnlyWarp s t ∧ t.warp.regs = s.warp.regs ∧ Moved s t (fun _ => some (c.pc + o.off))) ∧
    (∃ t, exec (.callu o) s = .next t ∧ OnlyWarp s t ∧ t.warp.regs = ({ s.warp with s := t.warp.s } : Warp).regs ∧
      (∀ r, t.warp.getS r = if r = o.r.toNat then next.zeroExtend 32 else s.warp.getS r) ∧
      Moved s t (fun _ => some (c.pc + o.off))) ∧
    (∃ t, exec (.retu o) s = .next t ∧ OnlyWarp s t ∧ t.warp.regs = s.warp.regs ∧
      Moved s t (fun _ => some (link.extractLsb' 0 16))) ∧
    (if link.getLsbD 31 = true ∧ ∃ sl, s.group.slot (link.toNat / 2 ^ 14 % 4) = some sl ∧ sl.ovl = link.toNat / 2 ^ 16 % 16 then
      ∃ t, exec (.retx o) s = .next t ∧ OnlyWarp s t ∧ t.warp.regs = s.warp.regs ∧
        Moved s t (fun _ => some (link.extractLsb' 0 16))
    else exec (.retx o) s = .next (s.trap ⟨0x0B, c.mask, 0, link.toNat / 2 ^ 16 % 16⟩))) ∧
  (∀ (o : CallxOps) (s : State), s.warp.guard o.q = true →
    let c := s.warp.clause
    let next : CodeAddr := c.hdr + 1 + BitVec.ofNat 16 c.len
    match s.group.slotWith o.ovl.toNat with
    | none => exec (.callx o) s = .next (s.trap ⟨0x0B, c.mask, 0, o.ovl.toNat⟩)
    | some home => ∀ caller, s.group.slot (c.pc.toNat / 2 ^ 14) = some caller → caller.ovl < 16 →
      ∃ t, exec (.callx o) s = .next t ∧ OnlyWarp s t ∧ t.warp.regs = ({ s.warp with s := t.warp.s } : Warp).regs ∧
        (∀ r, t.warp.getS r = if r = o.r.toNat then BitVec.ofNat 32 (next.toNat + 2 ^ 16 * caller.ovl + 2 ^ 31) else s.warp.getS r) ∧
        Moved s t (fun _ => some (BitVec.ofNat 16 (2 ^ 14 * home + o.off.toNat)))) ∧
  ∀ (o : UbOps) (s : State), ∃ t, exec (.nop o) s = .next t ∧ Completed s t 1 s.warp

/-- The jump tables and the uniform transfers. -/
def Obligations.UniformTransfers : Prop := jumpTablesClaim ∧ uniformTransfersClaim

/-! ## Exceptions -/

/-- 08 R259, R260, Table 8-3: taking a trap at a word, in a warp that is outside its handler and whose kernel names one: the
five trap registers are written, TPC with the header and the word; the entry is set aside; the warp runs the handler, as one
entry of the same lanes, from word 0 of overlay slot 3; its registers, flags and FMODE, every other entry, and every other
warp are as before. -/
def Sys2Proof.Claims.exceptionEntryClaim : Prop :=
  ∀ (s : State) (x : TrapInfo), s.warp.handler = none → s.group.handler ≠ 0xFF →
    OnlyWarp s (s.trap x) ∧
    (s.trap x).warp = { s.warp with
      tcause := BitVec.ofNat 32 x.cause, tpc := s.warp.clause.hdr ++ s.warp.clause.pc, tmask := x.mask,
      taddr := BitVec.ofNat 64 x.addr, tinfo := BitVec.ofNat 32 x.info,
      frontier := dropEntry s.warp.clause.hdr s.warp.clause.resume s.warp.clause.mask s.warp.frontier,
      hfront := [{ pc := 0xC000, mask := s.warp.clause.mask }], handler := some ⟨x.cause⟩, clause := {}, stall := .none }

/-- 08 R260, R262; 06 R207: a trap of a kernel that names no handler, and a trap inside the handler, stop the warp, and the
launch fails with the trap's cause. -/
def Sys2Proof.Claims.exceptionWithoutHandlerClaim : Prop :=
  ∀ (s : State) (x : TrapInfo), s.warp.handler.isSome = true ∨ s.group.handler = 0xFF →
    ∃ u, s.trap x = u.failNode s.group.node x.cause false false ∧ OnlyWarp s u ∧
      u.warp.live = 0 ∧ u.warp.frontier = [] ∧ u.warp.hfront = [] ∧ u.warp.handler = none ∧ u.warp.clause = {} ∧
      u.warp.tcause = BitVec.ofNat 32 x.cause

/-- Taking an exception, with a handler and without. -/
def Obligations.ExceptionEntry : Prop := exceptionEntryClaim ∧ exceptionWithoutHandlerClaim

/-- 12 R365: TRAP and BRKPT. With a true guard they take USER_TRAP (0x0E) with the immediate in TINFO, and BREAKPOINT (0x0F) with 0, as
any trap is taken (with a handler: it is entered, at word 0 of overlay slot 3, with the entry's lanes); TPC resumes after the two words, or
at the next header, in both halves, where the instruction is the last of its clause. With a false guard neither traps nor has any effect. -/
def Obligations.SoftwareTraps : Prop :=
  ∀ (o : UxOps) (s : State),
    let c := s.warp.clause
    let after := c.pc + 2
    let next : CodeAddr := c.hdr + 1 + BitVec.ofNat 16 c.len
    let tpc : Word := if (after - c.hdr - 1).toNat < c.len then c.hdr ++ after else next ++ next
    let taken := fun (cause info : Nat) => s.takeTrap c.hdr c.resume c.mask ⟨cause, c.mask, 0, info⟩ tpc
    let entered := fun (cause : Nat) (info : Word) (t : State) => OnlyWarp s t ∧ t.warp = { s.warp with
      tcause := BitVec.ofNat 32 cause, tpc := tpc, tmask := c.mask, taddr := 0, tinfo := info,
      frontier := dropEntry c.hdr c.resume c.mask s.warp.frontier, hfront := [{ pc := 0xC000, mask := c.mask }],
      handler := some ⟨cause⟩, clause := {}, stall := .none }
    (s.warp.guard o.q = true →
      exec (.trap o) s = .next (taken 0x0E o.aux.toNat) ∧ exec (.brkpt o) s = .next (taken 0x0F 0) ∧
      (s.warp.handler = none → s.group.handler ≠ 0xFF →
        entered 0x0E (o.aux.zeroExtend 32) (taken 0x0E o.aux.toNat) ∧ entered 0x0F 0 (taken 0x0F 0))) ∧
    (s.warp.guard o.q = false →
      (∃ t, exec (.trap o) s = .next t ∧ Completed s t o.size s.warp) ∧ ∃ t, exec (.brkpt o) s = .next t ∧ Completed s t o.size s.warp)

/-- 08 R262, 12 R367: ERET. Outside a handler it is ILLEGAL_OP, reason 8; from a handler that has more than one entry,
DIVERGED; with a false guard the handler goes on. Otherwise the handler's lanes return to the word that TPC names: at the
header where both halves are equal, else inside that clause, whose length is checked. A return from CANCELLED ends the
warp's lanes. -/
def Obligations.ExceptionReturn : Prop :=
  ∀ (o : UxOps) (s : State),
    let c := s.warp.clause
    let hdr : CodeAddr := s.warp.tpc.extractLsb' 16 16
    let word : CodeAddr := s.warp.tpc.extractLsb' 0 16
    let returned (resume : Option CodeAddr) : Prop := ∃ t, exec (.eret o) s = .next t ∧ OnlyWarp s t ∧
      t.warp = { s.warp with handler := none, hfront := [], clause := {}, stall := .none,
                             frontier := arrive { pc := hdr, mask := c.mask, resume := resume } s.warp.frontier }
    if s.warp.guard o.q = false then
      ∃ t, exec (.eret o) s = .next t ∧ OnlyWarp s t ∧ t.warp.regs = s.warp.regs ∧
        Moved s t (fun _ => some (c.hdr + 1 + BitVec.ofNat 16 c.len))
    else match s.warp.handler with
      | none => exec (.eret o) s = .next (s.trap ⟨0x01, c.mask, 0, 8⟩)
      | some h =>
        if s.warp.hfront.length ≠ 1 then exec (.eret o) s = .next (s.trap ⟨0x03, c.mask, 0, 0⟩)
        else if h.cause = 0x11 then
          ∃ t, exec (.eret o) s = .next t ∧ OnlyWarp s t ∧ t.warp.live = 0 ∧ t.warp.frontier = [] ∧ t.warp.hfront = [] ∧
            t.warp.handler = none
        else if word = hdr then returned none
        else ∀ x, s.imemWord s.group hdr = some x →
          if (word - hdr).toNat ≤ (Header.ofWord x).len then returned (some word)
          else exec (.eret o) s = .next (s.trap ⟨0x02, c.mask, 0, 6⟩)

/-! ## Special registers -/

/-- 08 R247, Table 8-3; 12 R368: SRD reads a special register into an s register, or into v(d) of every lane of the entry,
where LANEID is each lane's own number; a 64-bit register fills a pair. An index past 44 is ILLEGAL_OP, reason 6. The two
clocks are read after some time has passed (the model's choice: log 10). -/
def Obligations.SpecialReads : Prop :=
  ∀ (o : UxOps) (q : BitVec 3) (n : Nat) (r : Req) (s : State), uniGuard s.warp (.srd o) = some (q, n, r) → s.warp.passes r →
    s.warp.guard q = true →
    let x := o.aux.toNat % 64
    let lane := o.md.toNat % 2 = 1
    let d := o.d.toNat + (if o.md.toNat / 2 % 2 = 1 then 64 else 0)
    let regs := if x = 24 ∨ x = 26 ∨ x = 27 then 2 else 1
    let written (u t : State) (val : Nat) : Prop :=
      if lane then Completed u t n { s.warp with v := t.warp.v } ∧ ∀ k l, l < 32 → t.warp.getV k l =
        if d ≤ k ∧ k < d + regs ∧ inMask s.warp.clause.mask l = true then
          (if x = 0 then BitVec.ofNat 32 l else half (k - d) (BitVec.ofNat 64 val)) else s.warp.getV k l
      else Completed u t n { s.warp with s := t.warp.s } ∧ ∀ k, t.warp.getS k =
        if d ≤ k ∧ k < d + regs then half (k - d) (BitVec.ofNat 64 val) else s.warp.getS k
    if 44 < x then exec (.srd o) s = .next (s.trap ⟨0x01, s.warp.clause.mask, 0, 6⟩)
    else if x = 26 then
      ∃ t, exec (.srd o) s = .next t ∧
        let cycles := Map.get 0 s.clocks s.group.coreId + Config.elapsed s.tick
        written { s with clocks := Map.set 0 s.clocks s.group.coreId cycles, tick := s.tick + 1 } t
          (((cycles : Int) + s.group.clockAdd).toNat % 2 ^ 64)
    else if x = 27 then
      ∃ t, exec (.srd o) s = .next t ∧ written (s.tstamp s.group.fn).2 t (s.tstamp s.group.fn).1
    else ∃ t val, specialValue s x = some val ∧ exec (.srd o) s = .next t ∧ written s t val

/-- 08 R247, R248; 12 R369: SWR writes FMODE, PART, GNSTAT (a write clears the bits it names), and inside a handler the trap
registers; any other index is ILLEGAL_OP, reason 6, and a value that FMODE or PART does not take is reason 2. -/
def Sys2Proof.Claims.specialWritesClaim : Prop :=
  ∀ (o : UxOps) (q : BitVec 3) (n : Nat) (r : Req) (s : State), uniGuard s.warp (.swr o) = some (q, n, r) → s.warp.passes r →
    s.warp.guard q = true →
    let x := s.warp.getS o.a.toNat
    let trap := fun reason => exec (.swr o) s = .next (s.trap ⟨0x01, s.warp.clause.mask, 0, reason⟩)
    let becomes := fun w => ∃ t, exec (.swr o) s = .next t ∧ Completed s t n w
    match o.aux.toNat % 64 with
    | 16 => if 512 ≤ x.toNat then trap 2 else becomes { s.warp with fmode := x.extractLsb' 0 9 }
    | 17 => if x.toNat = 2 ∨ x.toNat = 4 ∨ x.toNat = 8 ∨ x.toNat = 16 ∨ x.toNat = 32 then becomes { s.warp with part := x.toNat }
      else trap 2
    | 18 => ∃ t, exec (.swr o) s = .next t ∧ OnlyWarpAndGroup s t ∧ t.warp.regs = s.warp.regs ∧ StepsPast s t n ∧
        t.group = { s.group with gnstat := s.group.gnstat &&& ~~~(x.extractLsb' 0 8) }
    | 21 => if s.warp.handler.isSome then becomes { s.warp with tcause := x } else trap 6
    | 22 => if s.warp.handler.isSome then becomes { s.warp with tpc := x } else trap 6
    | 23 => if s.warp.handler.isSome then becomes { s.warp with tmask := x } else trap 6
    | 24 => if s.warp.handler.isSome then becomes { s.warp with taddr := s.warp.getS (o.a.toNat + 1) ++ x } else trap 6
    | 25 => if s.warp.handler.isSome then becomes { s.warp with tinfo := x } else trap 6
    | _ => trap 6

/-- 12 R370, R371: SMODE sets the FMODE bits that its mask names, PART the tile size; other values are ILLEGAL_OP, reason 2. -/
def Sys2Proof.Claims.modeWordsClaim : Prop :=
  ∀ (o : UxOps) (s : State), s.warp.clause.mask = s.warp.live → s.warp.guard o.q = true →
    let b := s.warp.usrc o.b
    (if 512 ≤ b.toNat then exec (.smode o) s = .next (s.trap ⟨0x01, s.warp.clause.mask, 0, 2⟩)
    else ∃ t m, exec (.smode o) s = .next t ∧ Completed s t o.size { s.warp with fmode := m } ∧
      ∀ k, k < 9 → m.getLsbD k =
        if (if k = 8 then o.md.getLsbD 0 else o.aux.getLsbD k) then b.getLsbD k else s.warp.fmode.getLsbD k) ∧
    if b.toNat = 2 ∨ b.toNat = 4 ∨ b.toNat = 8 ∨ b.toNat = 16 ∨ b.toNat = 32 then
      ∃ t, exec (.part o) s = .next t ∧ Completed s t o.size { s.warp with part := b.toNat }
    else exec (.part o) s = .next (s.trap ⟨0x01, s.warp.clause.mask, 0, 2⟩)

/-- The writes of special registers and modes. -/
def Obligations.SpecialWrites : Prop := specialWritesClaim ∧ modeWordsClaim

/-! ## Issue control -/

/-- 08 R250, R254, R256; 12 R353, R373, R374; 14 R425: YIELD, SLEEP and FENCE execute whenever their guard is true, FENCE from a converged
entry. YIELD marks its clause as a YLD bit does: with the clause's last word the warp begins to wait for the other warps of its sub-core that
are ready. SLEEP gives its entry's clause a count of at most 1,048,575 cycles, which its successor carries. FENCE holds the memory words of the
warp behind every earlier access, at the wider of its own and a pending fence's scope. Each steps past its words, and changes nothing else. -/
def Obligations.IssueControl : Prop :=
  ∀ (o : UxOps) (s : State),
    let c := s.warp.clause
    let pc := c.pc + BitVec.ofNat 16 o.size
    let next : CodeAddr := c.hdr + 1 + BitVec.ofNat 16 c.len
    let more := (pc - c.hdr - 1).toNat < c.len
    (s.warp.guard o.q = true → ∃ t, exec (.yield o) s = .next t ∧ OnlyWarp s t ∧ t.warp.regs = s.warp.regs ∧
      (more → t.warp = { s.warp with clause := { c with yld := true, pc := pc }, stall := .none }) ∧
      (¬ more → Moved s t (fun _ => some next) ∧ ∀ k, k ∈ t.warp.yieldOn ↔
        k ≠ 64 * s.curG + s.curW ∧ k ∈ s.subcoreWarps s.group.coreId s.warp.subcore ∧ s.ready k = true)) ∧
    (s.warp.guard o.q = true → ∃ t, exec (.sleep o) s = .next t ∧ OnlyWarp s t ∧ t.warp.regs = s.warp.regs ∧
      let count := min (s.warp.usrc o.b).toNat 1048575
      (more → t.warp = { s.warp with clause := { c with sleep := count, pc := pc }, stall := .none }) ∧
      (¬ more → Moved s t (fun _ => some next) ∧
        (c.mask ≠ 0 → ∃ e ∈ s.frontOf t.warp, e.pc = next ∧ e.mask &&& c.mask = c.mask ∧ count ≤ e.sleep))) ∧
    (s.warp.guard o.q = true → c.mask = s.warp.live →
      ∃ t, exec (.fence o) s = .next t ∧ Completed s t o.size { s.warp with
        fence := some (s.nextOp, match s.warp.fence with | none => o.aux.toNat | some f => max o.aux.toNat f.2) })

/-! ## Memory words -/

/-- 14 R415, R417, R418, R421, R422; 08 R251: a load, store or atomic outside G space, all of whose accesses lie in their
space and are naturally aligned, issues: one part for each active lane, with its address, its place, and what it stores or
adds; its flag counts one more; no register and no byte of memory changes yet. A lane word with no active lane does
nothing but count and end. -/
def Obligations.ScratchMemoryIssue : Prop :=
  ∀ (i : Instr) (f : MemForm) (s : State), memForms s.warp i = some f → s.warp.passes f.req → f.go = true →
    free s.warp f.m.fs → f.m.space.toNat ≠ 0 → f.m.size.toNat ≤ 4 →
    (∀ a ∈ f.as, s.inSpace s.group f.m.space.toNat a.addr f.m.nbytes = true ∧ a.addr % f.m.nbytes = 0) →
    ∃ t, exec i s = .next t ∧ Issued s s t f.size f.m.fs (f.op s s (f.as.map (f.part s)))

/-- 14 R418: in G space the same, once every access has been translated: `checkAccess` runs the checks 1 to 4, and
`settle` parks what faults (check 5). -/
def Obligations.GlobalMemoryIssue : Prop :=
  ∀ (i : Instr) (f : MemForm) (s u : State) (ps : List (Part × XRes)), memForms s.warp i = some f → s.warp.passes f.req →
    f.go = true → free s.warp f.m.fs →
    s.checkAccess f.m.space.toNat f.m.nbytes f.code f.strict f.tk (f.tk == .atomic) f.as = (.inr ps, u) →
    ∃ t, exec i s = .next t ∧
      Issued s (u.settle s.group.ctx 0 f.tk ps).2 t f.size f.m.fs
        { f.op s (u.settle s.group.ctx 0 f.tk ps).2 (u.settle s.group.ctx 0 f.tk ps).1 with
          body := if ps = [] then .nothing else (f.op s s []).body }

/-- 14 R415, R417, R418: the checks in their order. If some access reaches past its space, the word takes SPACE_RANGE for
the lanes that do; else, outside G space or where it must be aligned, MISALIGNED for the lanes that are not. TADDR is the
address of the lowest of them, TINFO the space and the access. -/
def Sys2Proof.Claims.memoryTrapsClaim : Prop :=
  ∀ (i : Instr) (f : MemForm) (s : State) (cause : Nat) (bad : Acc1 → Bool), memForms s.warp i = some f → s.warp.passes f.req →
    f.go = true → free s.warp f.m.fs →
    ((cause = 0x07 ∧ bad = fun a => !s.inSpace s.group f.m.space.toNat a.addr f.m.nbytes) ∨
      (cause = 0x06 ∧ f.m.space.toNat ≠ 0 ∧ (bad = fun a => a.addr % f.m.nbytes != 0) ∧
        ∀ a ∈ f.as, s.inSpace s.group f.m.space.toNat a.addr f.m.nbytes = true)) →
    f.as.any bad = true →
    exec i s = .next (s.trap ⟨cause, maskIf (fun l => f.as.any (fun a => a.lane == l && bad a)),
      ((f.as.find? bad).map (fun a => a.addr)).getD 0, f.m.space.toNat + 16 * f.code⟩)

/-- 08 R250, R251; 14 R425: a memory word waits at issue, and nothing else changes, while its flag is 63, and behind a fence
whose earlier accesses are not performed. -/
def Sys2Proof.Claims.memoryStallsClaim : Prop :=
  ∀ (i : Instr) (f : MemForm) (s : State), memForms s.warp i = some f → s.warp.passes f.req → f.go = true →
    (s.warp.fence = none → s.warp.clause.flagOf f.m.fs ≠ 15 → s.warp.getF (s.warp.clause.flagOf f.m.fs) = 63 →
      ∃ t, exec i s = .next t ∧ OnlyWarp s t ∧ t.warp = { s.warp with stall := .flag }) ∧
    ∀ order scope, s.warp.fence = some (order, scope) → s.coveredBefore s.curG s.curW order = true →
      ∃ t, exec i s = .next t ∧ OnlyWarp s t ∧ t.warp = { s.warp with stall := .fence }

/-- Where a memory word traps, and where it waits. -/
def Obligations.MemoryTraps : Prop := memoryTrapsClaim ∧ memoryStallsClaim

/-! ## Long-latency words of the system, of the hierarchy and of transfers -/

/-- 12 R366; 05 R174, Table 5-11: SVC with a service number below 0xFF00 takes a free service tag, queues its record of the
eight arguments, and waits for the reply on its flag; a number of the graph engine is ILLEGAL_OP, reason 7. -/
def Sys2Proof.Claims.serviceCallsClaim : Prop :=
  ∀ (o : UxOps) (s : State), s.warp.passes { ss := [(o.a.toNat, 8), (o.d.toNat, 4)], fs := some o.fs, conv := .live } →
    s.warp.guard o.q = true →
    let num := (s.warp.usrc o.b).toNat % 2 ^ 16
    let args := (List.range 8).map (fun i => s.warp.getS (o.a.toNat + i))
    (0xFF00 ≤ num → exec (.svc o) s = .next (s.trap ⟨0x01, s.warp.clause.mask, 0, 7⟩)) ∧
    ∀ tag, num < 0xFF00 → s.warp.getF (s.warp.clause.flagOf o.fs) ≠ 63 → (s.warp.clause.flagOf o.fs) ≠ 15 →
      freeTag (s.host.tags.map (fun t => t.1)) 1024 = some tag →
      let fn := s.ctxFn s.group.ctx
      let u := (s.tstamp fn).2
      ∃ t, exec (.svc o) s = .next t ∧
        Issued s { u with host := { u.host with
            tags := u.host.tags ++ [(tag, .op s.nextOp)],
            svcWait := u.host.svcWait ++ [svcRecord num tag s.group.ctx (s.ctxGlade s.group.ctx) fn s.group.coreId
              (s.warp.subcore + 4 * s.curW) (s.tstamp fn).1 args] } } t o.size o.fs
          (plainOp s s o.fs 0 0 (.svc { tag := tag, dreg := o.d.toNat, sreg := o.c.toNat }))

/-- 12 R372, R375, R378; 06 R200: OVLLD of an overlay of the kernel, LAUNCH of an aligned record address, and a legal CNTWAIT
issue; an overlay past NOVL, an address past 48 bits or not a multiple of 64, and an illegal wait trap at the word. -/
def Sys2Proof.Claims.hierarchyIssueClaim : Prop :=
  ∀ (o : UxOps) (s : State), s.warp.guard o.q = true →
    (s.warp.passes { fs := some o.fs, conv := .live } → s.warp.clause.flagOf o.fs ≠ 15 →
      let i := (s.warp.usrc o.b).toNat % 16
      (s.group.novl ≤ i → exec (.ovlld o) s = .next (s.trap ⟨0x0B, s.warp.clause.mask, 0, i⟩)) ∧
      (i < s.group.novl → s.warp.getF (s.warp.clause.flagOf o.fs) ≠ 63 →
        ∃ t, exec (.ovlld o) s = .next t ∧ Issued s s t o.size o.fs (plainOp s s o.fs 0 0 (.ovlld { ovl := i, dreg := o.d.toNat })))) ∧
    (s.warp.passes { ss := [(o.a.toNat, 2)], fs := some o.fs, conv := .live } → free s.warp o.fs →
      let va := (s.warp.getS64 o.a.toNat).toNat
      (2 ^ 48 ≤ va → exec (.launch o) s = .next (s.trap ⟨0x07, s.warp.clause.mask, va, 0x30⟩)) ∧
      (va < 2 ^ 48 → va % 64 ≠ 0 → exec (.launch o) s = .next (s.trap ⟨0x06, s.warp.clause.mask, va, 0x30⟩)) ∧
      (va < 2 ^ 48 → va % 64 = 0 →
        ∃ t, exec (.launch o) s = .next t ∧ Issued s s t o.size o.fs (plainOp s s o.fs 2 3 (.launch { va := va, dreg := o.d.toNat })))) ∧
    (s.warp.passes { fs := some o.fs, conv := .live } → s.warp.clause.flagOf o.fs ≠ 15 →
      let level := o.aux.toNat % 4
      let x := (s.warp.getS o.a.toNat).toNat
      let named := level = 0 ∨ x < 2 ^ 16
      let legal := if named then s.cntLegal level x = true else s.group.cls ≠ 2
      (¬ legal → exec (.cntwait o) s = .next (s.trap ⟨0x04, s.warp.clause.mask, 0, 0⟩)) ∧
      (legal → s.warp.getF (s.warp.clause.flagOf o.fs) ≠ 63 →
        ∃ t, exec (.cntwait o) s = .next t ∧ Issued s s t o.size o.fs (plainOp s s o.fs 1 3
          (.cntWait { level := level, ident := x, dreg := o.d.toNat,
                      answer := if named ∧ (s.counter s.group.ctx level x).isSome = true then none else some 3 }))))

/-- 12 R376, R377; 06 R179: CNTADD adds to the counter of a live unit and writes 1 to q(d), and completes the unit at 0; an
adjustment that is refused changes nothing and writes 0; it waits behind the warp's covered accesses. CANCEL cancels the
unit it names, if it is live. -/
def Sys2Proof.Claims.countersAndCancelClaim : Prop :=
  ∀ (o : UxOps) (s : State), s.warp.clause.mask = s.warp.live → s.warp.guard o.q = true →
    let level := o.aux.toNat % 4
    let x := (s.warp.getS o.a.toNat).toNat
    let named := level = 0 ∨ x < 2 ^ 16
    let sum := fun (c : Counter) => (c.count : Int) + (s.warp.usrc o.b).toInt
    (s.coveredBefore s.curG s.curW s.nextOp = false →
      (¬ named ∨ s.counter s.group.ctx level x = none ∨
          (∃ c, s.counter s.group.ctx level x = some c ∧ (sum c < s.counterFloor c ∨ 2 ^ 32 ≤ sum c)) →
        ∃ t, exec (.cntadd o) s = .next t ∧ Completed s t o.size { s.warp with q := t.warp.q } ∧
          ∀ k, t.warp.getQ k = if k = o.d.toNat then false else s.warp.getQ k) ∧
      (∀ c, named → s.counter s.group.ctx level x = some c → (s.counterFloor c : Int) ≤ sum c → sum c < 2 ^ 32 → level ≠ 0 →
        let u := s.setCounter { c with count := (sum c).toNat }
        let v := if sum c = 0 then u.completeUp s.group.ctx ((List.range 4).drop level) x else u
        ∃ t, exec (.cntadd o) s = .next t ∧ Completed v t o.size { v.warp with q := t.warp.q } ∧
          ∀ k, t.warp.getQ k = if k = o.d.toNat then true else v.warp.getQ k)) ∧
    (s.coveredBefore s.curG s.curW s.nextOp = true →
      ∃ t, exec (.cntadd o) s = .next t ∧ OnlyWarp s t ∧ t.warp = { s.warp with stall := .fence }) ∧
    (named → ∃ t, exec (.cancel o) s = .next t ∧
      Completed (s.cancelUnit s.group.ctx level x).1 t o.size (s.cancelUnit s.group.ctx level x).1.warp) ∧
    (¬ named → ∃ t, exec (.cancel o) s = .next t ∧ Completed s t o.size s.warp)

/-- Service calls and the words of the work hierarchy. -/
def Obligations.HierarchyIssue : Prop := serviceCallsClaim ∧ hierarchyIssueClaim ∧ countersAndCancelClaim

/-- 14 R426, R427, R443; 06 R200: PUB, WAITMEM and the queue forms issue once their address has passed the checks of R418 (a
fault parks); a wait of the weakest class is ILLEGAL_WAIT, a wait on a host page and a queue outside module memory are
PERMISSION. -/
def Obligations.TranslatedIssue : Prop :=
  ∀ (o : UxOps) (s u : State) (ps : List (Part × XRes)), s.warp.guard o.q = true → free s.warp o.fs →
    let va := (s.warp.getS64 o.a.toNat).toNat
    let low := lowestLane s.warp.clause.mask
    let ctx := s.group.ctx
    (s.warp.passes { fs := some o.fs, conv := .live, ss := [(o.a.toNat, 2)] } →
      s.checkAccess 0 1 0 false .read false [{ lane := low, addr := va }] = (.inr ps, u) →
      ∃ t, exec (.pub o) s = .next t ∧ Issued s (u.settle ctx 0 .read ps).2 t o.size o.fs
        { plainOp s (u.settle ctx 0 .read ps).2 o.fs 2 o.aux.toNat (.pub { dreg := o.d.toNat }) with
          parts := (u.settle ctx 0 .read ps).1 }) ∧
    (∀ q n r, uniGuard s.warp (.waitmem o) = some (q, n, r) → s.warp.passes r →
      let space := o.md.toNat % 4
      let wide := o.md.toNat / 4 % 2 = 1
      let a := if space = 0 then va else (s.warp.getS o.a.toNat).toNat
      (s.group.cls = 2 → exec (.waitmem o) s = .next (s.trap ⟨0x04, s.warp.clause.mask, 0, 0⟩)) ∧
      (s.group.cls ≠ 2 → s.checkAccess space (if wide then 8 else 4) 0 true .read false [{ lane := low, addr := a }] = (.inr ps, u) →
        let host := ps.any (fun p => match p.2 with
          | .ok (.phys x) _ _ _ => ppaKind x == 2
          | _ => false)
        let timeout := (uc s.warp o).toNat * (if o.ck then 1024 else 1)
        (host = true → exec (.waitmem o) s = .next (u.trap ⟨0x09, s.warp.clause.mask, a, 0⟩)) ∧
        (host = false → ∃ t, exec (.waitmem o) s = .next t ∧ Issued s (u.settle ctx 0 .read ps).2 t o.size o.fs
          (plainOp s (u.settle ctx 0 .read ps).2 o.fs 1 (o.aux.toNat % 8) (.waitmem
            { space := space, wide := wide, cmp := o.aux.toNat / 8 % 8,
              value := if wide then (s.warp.usrc64 o.b).toNat else (s.warp.usrc o.b).toNat,
              timeout := if timeout = 0 then none else some timeout, dreg := o.d.toNat,
              part := (u.settle ctx 0 .read ps).1.headD {} }))))) ∧
    (s.warp.passes (mqReq o) → va < 2 ^ 48 → va % 64 = 0 →
      s.checkAccess 0 16 3 true .atomic true [{ lane := low, addr := va }] = (.inr ps, u) →
      let n := 8 * 2 ^ (o.md.toNat % 4)
      let b := match o.b with
        | .sreg r => r.toNat
        | _ => 0
      if ps.all (fun p => p.2.moduleOk) = true then
        (∃ t, exec (.mqEnq o) s = .next t ∧ Issued s (u.settle ctx 0 .atomic ps).2 t o.size o.fs
          { plainOp s (u.settle ctx 0 .atomic ps).2 o.fs 2 o.aux.toNat (.mq
              { enq := true, va := va, bytes := n, sreg := b, dreg := o.d.toNat, data := registerBytes n (fun i => s.warp.getS (b + i)) })
            with parts := (u.settle ctx 0 .atomic ps).1 }) ∧
        (∃ t, exec (.mqDeq o) s = .next t ∧ Issued s (u.settle ctx 0 .atomic ps).2 t o.size o.fs
          { plainOp s (u.settle ctx 0 .atomic ps).2 o.fs 1 o.aux.toNat (.mq
              { enq := false, va := va, bytes := n, sreg := b, dreg := o.d.toNat, data := [] })
            with parts := (u.settle ctx 0 .atomic ps).1 })
      else exec (.mqEnq o) s = .next (u.trap ⟨0x09, s.warp.clause.mask, va, 0x30⟩) ∧
        exec (.mqDeq o) s = .next (u.trap ⟨0x09, s.warp.clause.mask, va, 0x30⟩))

/-- 14 R434, R435, R438, R442: a CPA whose lanes pass the checks becomes one command on its channel, which counts it; a TXF
whose record is read, well formed and no collective becomes a transfer; TXCAN marks the transfers of its warp that it
names, and waits for them. -/
def Obligations.TransferIssue : Prop :=
  (∀ (o : LmOps) (s u : State) (ps : List (Part × XRes)), s.warp.passes { vs := o.memReq 1 0, fs := some o.m.fs } → free s.warp o.m.fs →
    let act := s.warp.active o.g
    let ctl := (s.warp.lsrc o.b (lowestLane act)).toNat
    let as := (activeLanes s.warp o.g).map fun l =>
      ({ lane := l, src := address o.m (s.warp.getV64 o.a.toNat l) (s.warp.getV o.a.toNat l), dst := (s.warp.getV o.d.toNat l).toNat } : CpaAddr)
    (act = 0 → ∃ t, exec (.cpa o) s = .next t ∧ Issued s s t o.size o.m.fs (plainOp s s o.m.fs 0 0 .nothing)) ∧
    (act ≠ 0 → ctl / 2 ^ 6 % 2 ^ 8 ≠ 0 → exec (.cpa o) s = .next (s.trap ⟨0x07, act, 0, o.m.space.toNat + 0x30⟩)) ∧
    (act ≠ 0 → ctl / 2 ^ 6 % 2 ^ 8 = 0 →
      s.checkCpa o.m.space.toNat (if ctl / 16 % 2 = 1 then 2 else 1) o.m.nbytes as = (.inr ps, u) →
      (u.chanOps s.curG (ctl % 8)).length < 32 → u.coreCopies s.group.coreId < 256 →
      let v := (u.settle s.group.ctx 1 .engRead ps).2
      let chan := Map.get {} v.group.chans (ctl % 8)
      let bsp := if ctl / 32 % 2 = 1 then 2 else 1
      let v' := v.setGroup { v.group with chans := Map.set {} v.group.chans (ctl % 8) { chan with issued := chan.issued + 1 } }
      ∃ t, exec (.cpa o) s = .next t ∧ Issued s v' t o.size o.m.fs (plainOp s v o.m.fs o.m.ord.toNat o.m.scope.toNat (.cpa
        { chan := ctl % 8, seq := chan.issued, bytes := o.m.nbytes, dstSpace := if ctl / 16 % 2 = 1 then 2 else 1, dreg := o.d.toNat,
          lanes := as.map fun a => { lane := a.lane, dst := a.dst,
                                     src := ((u.settle s.group.ctx 1 .engRead ps).1.find? (fun p => p.lane == a.lane)).getD {} },
          bar := if ctl / 8 % 2 = 1 then some (bsp, ctl / 1024, v.barGen s.curG bsp (ctl / 1024)) else none })))) ∧
  (∀ (o : UxOps) (s u : State) (rec' : List Byte), s.warp.passes { ss := [(o.a.toNat, 2)], fs := some o.fs, conv := .live } →
    s.warp.guard o.q = true → free s.warp o.fs → s.warp.wordFailed = none →
    let va := (s.warp.getS64 o.a.toNat).toNat
    let who := whoWarp (warpKey s.curG s.curW)
    va < 2 ^ 48 → va % 64 = 0 → s.coreTransfers s.group.coreId < 64 →
    (s.translate s.group.ctx va .engRead 64 false).1 ≠ .permission → s.engRead who s.group.ctx va 64 = (.ok rec', u) →
    (shapeBad rec' u.group.gangSize = true → u.curG = s.curG → u.curW = s.curW →
      exec (.txf o) s = .next ((u.trap ⟨0x07, u.warp.clause.mask, va, 0x30⟩).endFetches who)) ∧
    (shapeBad rec' u.group.gangSize = false → (Shape.parse rec').kind ≠ 3 → u.warp.clause = s.warp.clause → u.curG = s.curG → u.curW = s.curW →
      ∃ t, exec (.txf o) s = .next (t.endFetches who) ∧ Issued s u t o.size o.fs (plainOp s u o.fs 0 (Shape.parse rec').scope (.txf
        { shape := Shape.parse rec', va := va, dreg := o.d.toNat, gen := u.shapeBars s.curG (Shape.parse rec'), written := [] })))) ∧
  ∀ (o : UxOps) (s : State), s.warp.passes { fs := some o.fs, conv := .live } → s.warp.guard o.q = true → free s.warp o.fs →
    let mine := fun (x : Op) => (match x.body with | .txf _ => true | _ => false) && x.owner == .warp s.curG s.curW &&
      (o.aux.getLsbD 4 || x.flag == o.aux.toNat % 16)
    let named := (s.ops.filter mine).map (fun x => x.id)
    let stop := fun (x : Op) => if named.contains x.id then { x with cancelled := true, park := none, queuedCode := none } else x
    let u := State.sweepPend { s with ops := s.ops.map stop }
    ∃ t, exec (.txcan o) s = .next t ∧ Issued s u t o.size o.fs (plainOp s s o.fs 0 0 (.txcan { targets := named }))

/-! ## Barriers -/

/-- 14 R429, R430: BAR.INIT makes the object live with its count, the issuer's class and scope, and a new generation; the
phase bit is kept. BAR.ARRIVE takes its count off the pending arrivals and writes the phase before it; BAR.EXPECT adds to
the pending bytes; each turns the phase when nothing is pending and releases the waiters with true. BAR.INVAL makes the
object invalid and releases them with false. -/
def Sys2Proof.Claims.barrierFormsClaim : Prop :=
  ∀ (o : UxOps) (s : State), barGoes s o →
    let b := s.bar (barAt s o)
    let n := (s.warp.usrc o.b).toNat
    (¬ (b.st = 1 ∧ (b.w ≠ 0 ∨ b.pa ≠ b.ex ∨ b.pb ≠ 0)) → 0 < n → n ≤ 65535 →
      ∃ t, exec (.barInit o) s = .next t ∧ barActed s t o
        { b with pa := n, ex := n, pb := 0, st := 1, cls := s.group.cls, scope := o.aux.toNat, w := 0, gen := (b.gen + 1) % 2 ^ 32 }
        none s.warp) ∧
    (barSound b → b.st = 1 → 0 < n → n ≤ b.pa → s.coveredBefore s.curG s.curW s.nextOp = false →
      ∃ t, exec (.barArrive o) s = .next t ∧
        barActed s t o (ifDue { b with pa := b.pa - n }) (if b.pa = n ∧ b.pb = 0 then some true else none) { s.warp with s := t.warp.s } ∧
        ∀ r, t.warp.getS r = if r = o.d.toNat then (if b.ph then 1 else 0) else s.warp.getS r) ∧
    (barSound b → b.st = 1 → -2 ^ 31 ≤ b.pb + (s.warp.usrc o.b).toInt → b.pb + (s.warp.usrc o.b).toInt < 2 ^ 31 →
      ∃ t, exec (.barExpect o) s = .next t ∧
        barActed s t o (ifDue { b with pb := b.pb + (s.warp.usrc o.b).toInt })
          (if b.pa = 0 ∧ b.pb + (s.warp.usrc o.b).toInt = 0 then some true else none) s.warp) ∧
    ∃ t, exec (.barInval o) s = .next t ∧ barActed s t o { b with st := 2, w := 0 } (some false) s.warp

/-- 14 R430, R431: BAR.TEST writes whether the object is live and its phase differs from the parity; true is an acquire,
which for grove scope empties the core's read cache. BAR.WAIT completes at once where the phase differs or the object is
invalid, and else joins the waiters. -/
def Sys2Proof.Claims.barrierTestsAndWaitsClaim : Prop :=
  ∀ (o : UxOps) (s : State), barGoes s o →
    let b := s.bar (barAt s o)
    let parity := (s.warp.usrc o.b).getLsbD 0
    barSound b → b.st ≠ 0 →
    (∃ t, exec (.barTest o) s = .next t ∧
      let u := if b.st = 1 ∧ b.ph ≠ parity ∧ 2 ≤ b.scope then s.dropCache s.group.coreId else s
      Completed u t o.size { s.warp with q := t.warp.q } ∧
        ∀ k, t.warp.getQ k = if k = o.d.toNat then decide (b.st = 1 ∧ b.ph ≠ parity) else s.warp.getQ k) ∧
    (s.warp.clause.flagOf o.fs ≠ 15 → s.warp.getF (s.warp.clause.flagOf o.fs) ≠ 63 → b.cls = s.group.cls →
      let now := b.ph ≠ parity ∨ b.st = 2
      let op := plainOp s s o.fs 1 b.scope (.barWait { space := barSpaceOf o, addr := barAddr s o, parity := parity, dreg := o.d.toNat,
                                                       answer := if now then some (decide (b.st = 1)) else none })
      (now → ∃ t, exec (.barWait o) s = .next t ∧ Issued s s t o.size o.fs op) ∧
      (¬ now → ∃ t, exec (.barWait o) s = .next t ∧ barBecomes s t (barAt s o) { b with w := min 255 (b.w + 1) } ∧
        t.ops = s.ops ++ [op] ∧ t.warp.regs = (s.warp.flagUp (s.warp.clause.flagOf o.fs)).regs ∧ Advanced s t o.size))

/-- The barrier forms. -/
def Obligations.BarrierForms : Prop := barrierFormsClaim ∧ barrierTestsAndWaitsClaim

/-- 14 R429 to R431; 06 R200: what stops a BAR form, in this order: SPACE_RANGE, MISALIGNED, for BAR.WAIT ILLEGAL_WAIT by the
object's class, BAR_STATE. TINFO of BAR_STATE is the state field. -/
def Obligations.BarrierTraps : Prop :=
  ∀ (o : UxOps) (s : State), s.warp.clause.mask = s.warp.live → s.warp.guard o.q = true → s.warp.fence = none →
    let addr := barAddr s o
    let b := s.bar (barAt s o)
    let m := s.warp.clause.mask
    (s.inSpace s.group (barSpaceOf o) addr 16 = false → exec (.barInit o) s = .next (s.trap ⟨0x07, m, addr, barSpaceOf o + 0x20⟩)) ∧
    (s.inSpace s.group (barSpaceOf o) addr 16 = true → addr % 16 ≠ 0 →
      exec (.barArrive o) s = .next (s.trap ⟨0x06, m, addr, barSpaceOf o + 0x20⟩)) ∧
    (barGoes s o → ¬ barSound b ∨ b.st ≠ 1 →
      exec (.barArrive o) s = .next (s.trap ⟨0x0A, m, addr, b.st⟩) ∧ exec (.barExpect o) s = .next (s.trap ⟨0x0A, m, addr, b.st⟩)) ∧
    (barGoes s o → ¬ barSound b ∨ b.st = 0 → exec (.barTest o) s = .next (s.trap ⟨0x0A, m, addr, b.st⟩)) ∧
    (barGoes s o → s.warp.clause.flagOf o.fs ≠ 15 → s.warp.getF (s.warp.clause.flagOf o.fs) ≠ 63 →
      (b.st = 1 ∨ b.st = 2 → b.cls ≠ s.group.cls → exec (.barWait o) s = .next (s.trap ⟨0x04, m, 0, 0⟩)) ∧
      (b.st = 0 → exec (.barWait o) s = .next (s.trap ⟨0x0A, m, addr, 0⟩)))

/-! ## Matrix words -/

/-- 15 R449, R452 to R455, R458, R459, R461: a matrix command whose fields and rows pass its checks joins the queue of its
quadrant, with the descriptor that its registers give, and the group's view of the quadrant follows: WLOAD gives the shadow
plane its format, WSWAP exchanges the planes, MMS takes the next sequence number, QFUSE.SPLIT and REL empty the planes. -/
def Obligations.MatrixIssue : Prop :=
  ∀ (o : UxOps) (s : State),
    let q := s.quadAt (ownQuad s)
    let held := q.holder = some s.curG
    let x := field s o 3
    let tiles := x / 16 % 16 + 1
    (mxGoes s o 4 → x < 32 → x % 16 < 8 →
      rowsLie s (if x / 16 = 1 then 2 else 1) (field s o 0) (fieldInt s o 1) (if q.viewF then 64 else 32) (mxRowBytes (x % 16)) →
      ∃ t, exec (.wload o) s = .next t ∧ queued s t o (.wload (wloadOf s o)) (fun q => { q with viewS := some (x % 16) })) ∧
    (mxGoes s o 0 → ∃ t, exec (.wswap o) s = .next t ∧ queued s t o .wswap (fun q => { q with viewA := q.viewS, viewS := q.viewA })) ∧
    (∀ fmt, mxGoes s o 8 → held → q.viewA = some fmt → o.md.toNat % 16 < 8 → mxPair fmt (o.md.toNat % 16) = true → x < 2 ^ 19 →
      field s o 6 = 0 → field s o 7 = 0 → x / 2 ^ 9 % 2 ^ 9 + (x % 2 ^ 9 + 1) ≤ 512 → (field s o 5 = 0 ∨ q.viewF = true) →
      rowsLie s (if x / 2 ^ 18 = 1 then 2 else 1) (field s o 0) (fieldInt s o 1) (x % 2 ^ 9 + 1)
        (mxRowBytes (o.md.toNat % 16) * (if q.viewF then 2 else 1)) →
      ∃ t, exec (.mms o) s = .next t ∧ queued s t o (.mms (mmsOf s o q.seq)) (fun q => { q with seq := (q.seq + 1) % 256 })) ∧
    (mxGoes s o 0 → (s.warp.usrc o.b).toNat < 2 ^ 16 →
      ∃ t, exec (.aclr o) s = .next t ∧ queued s t o (.aclr ((s.warp.usrc o.b).extractLsb' 0 16)) id) ∧
    (∀ bsp gen, mxGoes s o 8 → x < 2 ^ 16 → x / 2 ^ 8 % 16 < 9 → x % 16 + tiles ≤ 16 → field s o 5 = 0 → field s o 6 = 0 → field s o 7 = 0 →
      bsp = (if x / 2 ^ 15 = 1 then 2 else 1) →
      (if x / 2 ^ 14 % 2 = 1 then field s o 4 % 16 = 0 ∧ gen = s.barGen s.curG bsp (field s o 4) ∧ gen.isSome = true
        else field s o 4 = 0 ∧ gen = none) →
      rowsLie s (if x / 2 ^ 12 % 2 = 1 then 2 else 1) (field s o 0) (fieldInt s o 1) (32 * tiles) (mxRowBytes (x / 2 ^ 8 % 16)) →
      ∃ t, exec (.adrn o) s = .next t ∧ queued s t o (.adrn (adrnOf s o bsp gen)) id) ∧
    (∀ b, mxGoes s o 0 → b = (s.warp.usrc o.b).toNat → o.aux.toNat % 8 < 5 → (o.md.toNat % 2 = 1 → o.aux.toNat % 8 = 0) →
      (if o.aux.toNat % 8 = 0 then b < 16 else b = 0) →
      ∃ t, exec (.mstat o) s = .next t ∧ queued s t o (.mstat (o.aux.toNat % 8) b (decide (o.md.toNat % 2 = 1)) o.d.toNat) id) ∧
    (mxGoes s o 0 → o.aux.toNat % 4 = 2 → held →
      ∃ t, exec (.qfuse o) s = .next t ∧
        queued s t o (.qfuse 2) (fun q => { q with viewA := none, viewS := none, viewF := false, seq := 0 })) ∧
    (mxGoes s o 0 → o.aux.toNat % 4 = 0 → q.viewF = true →
      ∃ t, exec (.qfuse o) s = .next t ∧
        queued s t o (.qfuse 0) (fun q => { q with viewA := none, viewS := none, viewF := false }))

/-- 15 R452: QFUSE.FUSE from the even side acquires both quadrants of the pair, and empties all four planes of the group's
view; from an odd sub-core it is ILLEGAL_OP, reason 2. -/
def Sys2Proof.Claims.matrixFuseClaim : Prop :=
  ∀ (o : UxOps) (s : State), mxGoes s o 0 → o.aux.toNat % 4 = 1 →
    let k := ownQuad s
    (s.warp.subcore % 2 = 1 → exec (.qfuse o) s = .next (s.trap ⟨0x01, s.warp.clause.mask, 0, 2⟩)) ∧
    (s.warp.subcore % 2 = 0 → ((s.quadAt (k + 1)).holder = none ∨ (s.quadAt (k + 1)).holder = some s.curG) →
      ∃ t u, exec (.qfuse o) s = .next t ∧ Issued s u t o.size o.fs (plainOp s s o.fs 0 1 .matrix) ∧ u = { s with quads := u.quads } ∧
        (∀ j, j ≠ k → j ≠ k + 1 → u.quadAt j = s.quadAt j) ∧
        u.quadAt (k + 1) = { seen s (s.quadAt (k + 1)) with viewA := none, viewS := none, viewF := false } ∧
        u.quadAt k = { seen s (s.quadAt k) with viewA := none, viewS := none, viewF := true,
                                                queue := (seen s (s.quadAt k)).queue ++
            [{ op := s.nextOp, gid := s.curG, wid := s.curW, body := .qfuse 1, fmode := s.warp.fmode }] })

/-- 15 R462: ARDL joins the queue of its quadrant with the element each active lane names; with no active lane it does
nothing but count and end. -/
def Sys2Proof.Claims.accumulatorReadIssueClaim : Prop :=
  ∀ (o : LxOps) (s : State), s.warp.passes { o.req 1 1 0 0 with fs := some o.fs, mx := true } →
    s.warp.fence = none → s.warp.clause.flagOf o.fs ≠ 15 → s.warp.getF (s.warp.clause.flagOf o.fs) ≠ 63 →
    let k := ownQuad s
    (s.warp.subcore % 2 = 1 → (s.quadAt (k - 1)).viewF = false ∨ (s.quadAt (k - 1)).holder ≠ some s.curG) →
    ((s.quadAt k).holder = none ∨ (s.quadAt k).holder = some s.curG) →
    ((s.quadAt k).viewF = true → (s.quadAt (k + 1)).holder = none ∨ (s.quadAt (k + 1)).holder = some s.curG) →
    let cmd : MxCmd := { op := s.nextOp, gid := s.curG, wid := s.curW, fmode := s.warp.fmode,
                         body := .ardl (s.warp.active o.g) o.d.toNat ((activeLanes s.warp o.g).map fun l => (l, s.warp.getV o.a.toNat l)) }
    (s.warp.active o.g = 0 → ∃ t, exec (.ardl o) s = .next t ∧ Issued s s t o.size o.fs (plainOp s s o.fs 0 0 .nothing)) ∧
    (s.warp.active o.g ≠ 0 → ∃ t u, exec (.ardl o) s = .next t ∧ Issued s u t o.size o.fs (plainOp s s o.fs 0 1 .matrix) ∧
      u = { s with quads := u.quads } ∧ (∀ j, j ≠ k → u.quadAt j = s.quadAt j) ∧
      u.quadAt k = { seen s (s.quadAt k) with queue := (seen s (s.quadAt k)).queue ++ [cmd] })

/-- QFUSE and ARDL at issue. -/
def Obligations.MatrixFuse : Prop := matrixFuseClaim ∧ accumulatorReadIssueClaim

/-! ## Resets, boot, power -/

/-- After a change of what holds the dies `ks` in throttle (01 R20): each is in throttle while something holds it; its clock
stays; leaving throttle starts no recovery (its timer does), entering ends one; TRIP notes each entry. Of the power state only `p`'s
fields have changed. -/
def Sys2Proof.Claims.throttles (s t : State) (p : Power) (ks : List Nat) : Prop :=
  t.power = { p with dies := t.power.dies, trip := s.power.trip || ks.any (fun k => (t.die k).throttle && !(s.die k).throttle) } ∧
  ∀ k, k ∈ ks → (t.die k).clock = (s.die k).clock ∧ (t.die k).recovering = ((s.die k).recovering && !(t.die k).throttle) ∧
    ((t.die k).throttle = true ↔ (t.die k).hot = true ∨ 2 ≤ (t.die k).fluxOver ∨ p.over1ms = true ∨ p.over1s = true ∨ p.throtLow = true)

/-- What a port keeps when it leaves its link: its PORTCTL bits, and that its keys are gone (02 R72). -/
def Sys2Proof.Claims.leftAs (p : Port) (st : PortState) : Port := { x8ok := p.x8ok, mode := p.mode, trained := p.trained, keyless := p.keyless, state := st }

/-- A device that is not halted heeds writes (01 R28). -/
def Sys2Proof.Claims.heeds (s : State) : Prop := s.boot.phase ≠ .halted

/-- The package's machine as a reset finds it: its L2 is written back (07 R233), and its attachments end (02 R63). -/
def Sys2Proof.Claims.leaving (s : State) : State := s.flushL2.detach

/-- The state after a reset, but for what the reset keeps: the modules, what waits outside, the boot state `b`, memory and
its marks, and the throttling that a low THROT_N goes on asking for. -/
def Sys2Proof.Claims.atReset (s t : State) (b : Boot) : State :=
  { State.reset with mem := t.mem, poison := t.poison, latent := t.latent, boot := b, power := t.power,
                     pod := { modules := (leaving s).pod.modules, sealed := (leaving s).pod.sealed },
                     tick := (leaving s).tick, inbox := (leaving s).outerEvents, outbox := (leaving s).outbox }

/-- 01 R20, R24, Table 1-4: a cold reset puts every piece of state at its reset value; of the package's memory every byte reads 0
and no line is poisoned; fuses, flash and the board record stay, and the fuse shadow is loaded. A warm reset, by PERST_N or
by a write of the key to RSTCTL, keeps also memory, the shadow, the keys, the thermal latch, REFCNT, the failed plots and the spare
rows (the plots: the model's reading, log 70). Each writes the L2 back first, and after each the dies are in throttle if THROT_N is low.
When the power goes the machine is off, and what its L2 held is gone. -/
def Sys2Proof.Claims.deviceResetsClaim : Prop :=
  ∀ (s : State),
    let u := leaving s
    let kept : Boot := { fuseRollback := u.boot.fuseRollback, fuseRevoked := u.boot.fuseRevoked, fuseKeys := u.boot.fuseKeys,
                         fuseSecret := u.boot.fuseSecret, flash := u.boot.flash, eeprom := u.boot.eeprom,
                         rollback := u.boot.fuseRollback }
    let held : Power := { throtLow := u.power.throtLow }
    let cool := fun t : State => throttles { State.reset with power := held } t held [0, 1, 2, 3] ∧
      ∀ k, k < 4 → (t.die k).hot = false ∧ (t.die k).fluxOver = 0
    (∃ t, exec .coldReset s = .next t ∧ t = atReset s t kept ∧ cool t ∧
      (∀ a, Map.get 0 t.mem a = if inPackage a then 0 else Map.get 0 u.mem a) ∧
      (∀ l, l ∈ t.poison ↔ l ∈ u.poison ∧ inPackage (64 * l) = false) ∧
      ∀ l, l ∈ t.latent ↔ l ∈ u.latent ∧ inPackage (64 * l) = false) ∧
    (∃ t, exec .perstNAssert s = .next t ∧ cool t ∧
      t = { atReset s t { kept with rollback := s.boot.rollback, idKey := s.boot.idKey, romAlias := s.boot.romAlias,
                                    thermtrip := s.boot.thermtrip, clocksStopped := s.boot.clocksStopped, powered := s.boot.powered }
              with plots := t.plots, quads := t.quads, now := s.now } ∧
      t.mem = u.mem ∧ t.poison = u.poison ∧ t.latent = u.latent ∧
      (∀ k p, (k, p) ∈ t.plots ↔ p = { st := .failed } ∧ ∃ q, (k, q) ∈ s.plots ∧ q.st = .failed) ∧
      (∀ k q, (k, q) ∈ t.quads → ∃ r, (k, r) ∈ s.quads ∧ q = { spares := r.spares, offline := r.offline })) ∧
    (∀ data : List Byte, s.arg = .write 0 0x8 data → data.length = 4 ∨ data.length = 8 →
      let v := ofBytes (data.take 4)
      exec .rstctlWarm s = if v / 2 ^ 16 % 2 ^ 16 = 0xB19A ∧ v % 2 = 1 then exec .perstNAssert s else .next s) ∧
    exec .pwrgoodFall s = .next { s.detach with l2 := [], pod := { modules := s.detach.pod.modules, sealed := s.detach.pod.sealed },
                                                boot := { s.detach.boot with powered := false } }

/-- 01 R25 to R31, Tables 1-5, 1-6: the boot. The ROM takes slot A if it passes its checks, else slot B, else it halts
with the CODE of slot B; stage 1 asks for eight trained stacks; it checks stage 2 by the same rules, measures it and derives its alias key;
stage 2 clears the package's memory, frees the plots that its scrub does not find faulty, starts the ports, and reads the board record; then
the device is ready. Out of its phase each does nothing. (Where stage 2 stands in its slot, which CODE an image gets that fails several checks,
and what stays of a plot that had failed are the model's choices: log 11, 43, 70.) -/
def Sys2Proof.Claims.bootStagesClaim : Prop :=
  ∀ (s : State) (k x : Nat),
    let b := s.boot
    (s.arg = .unit k →
      (b.phase ≠ .rom → exec .bootRom s = .next s) ∧
      (b.phase = .rom →
        let bad := b.check false (bitOf k 0)
        let slot := decide (bad ≠ 0)
        let h := b.read (if slot then 0x800000 else 0) 64
        let image := Config.sha384 (b.body slot)
        let id := b.idKey.getD (Config.deriveKey b.fuseSecret 0)
        let after : Boot :=
          if bad = 0 ∨ b.check true (bitOf k 1) = 0 then
            { b with phase := .stage1, stage := 1, slot := slot, afail := b.afail || slot, code := if slot then bad else b.code,
                     keyslot := fieldOf h 13 1, imageCounter := fieldOf h 12 1, idKey := some id,
                     romAlias := some (b.romAlias.getD (Config.deriveKey id image)),
                     meas := [(1, Config.romDigest), (2, image), (4, Config.sha384 b.fuseBytes)] }
          else { b with phase := .halted, stage := 0xF, code := b.check true (bitOf k 1), afail := true, bfail := true }
        exec .bootRom s = .next { s with boot := after }) ∧
      (b.phase ≠ .stage2Load → exec .bootStage2Load s = .next s) ∧
      (b.phase = .stage2Load →
        let at' := (if b.slot then 0x800000 else 0) + 4096 + Config.stage2Offset (b.body b.slot)
        let m := Config.sha384 (b.bodyAt at')
        let code := b.checkAt at' ((if b.slot then 0x800000 else 0) + 0x800000 - (at' + 4096)) (bitOf k 0)
        let after : Boot := if code ≠ 0 then { b with phase := .halted, stage := 0xF, code := code }
          else { b with phase := .stage2, stage := 2, meas := b.meas ++ [(3, m)],
                        alias2 := b.romAlias.map (fun key => Config.deriveKey key m) }
        exec .bootStage2Load s = .next { s with boot := after })) ∧
    (s.arg = .pair k x →
      (b.phase ≠ .stage1 → exec .bootStage1 s = .next s) ∧
      (b.phase = .stage1 →
        let code := if k % 256 ≠ 0xFF then 5 else x
        let after : Boot := if code ≠ 0 then { b with hbmok := k % 256, phase := .halted, stage := 0xF, code := code }
          else { b with hbmok := k % 256, phase := .stage2Load }
        exec .bootStage1 s = .next { s with boot := after }) ∧
      (b.phase ≠ .stage2 → exec .bootStage2 s = .next s) ∧
      (b.phase = .stage2 → ∃ t, exec .bootStage2 s = .next t ∧
        t = { s with mem := t.mem, poison := t.poison, latent := t.latent, boot := t.boot, plots := t.plots, pod := t.pod,
                     l2 := [], rcache := [], imem := [], quads := [] } ∧
        t.boot = { b.readBoard with phase := .ready, stage := 3, hartsStarted := true } ∧
        (∀ a, Map.get 0 t.mem a = if inPackage a then 0 else Map.get 0 s.mem a) ∧
        (∀ j, j < 32 → (t.plot j).st = if (s.plot j).st = .failed ∨ bitOf k j = true then .failed else .free) ∧
        t.pod = { s.pod with ports := t.pod.ports } ∧
        ∀ j, j < 9 → t.port j =
          if (s.port j).mode = 3 ∨ (s.pod.en = true ∧ s.pod.order < j) then leftAs (s.port j) .off
          else { leftAs (s.port j) .training with trained := (s.port j).mode })) ∧
    exec .bootReady s = .next { s with boot := (if b.phase = .ready then { b with phase := .done, stage := 4 } else b) }

/-- 01 R28, R35, Tables 1-6 and 1-11: which images are accepted, with the CODE of what is wrong; and the board record, which
names no power limit without a form. -/
def Sys2Proof.Claims.imagesAndBoardClaim : Prop :=
  ∀ (b : Boot) (base room : Nat) (lost : Bool),
    let h := b.read base 4096
    let key := fieldOf h 13 1
    (b.checkAt base room lost = 0 ↔ lost = false ∧ fieldOf h 0 4 = 0x4C394657 ∧ fieldOf h 4 4 ≤ room ∧ fieldOf h 12 1 ≤ 64 ∧ key ≤ 3 ∧
      fieldOf h 14 2 = 0 ∧ (∀ x ∈ h.drop 160, x = 0) ∧ ofBytes ((h.drop 16).take 48) = (Config.sha384 (b.bodyAt base)).toNat ∧
      Config.ecdsaVerify (Map.get 0 b.fuseKeys key) (Config.sha384 (h.take 64)) ((h.drop 64).take 96) = true ∧
      bitOf b.fuseRevoked key = false ∧ b.rollback ≤ fieldOf h 12 1) ∧
    (lost = true → b.checkAt base room lost = 4) ∧
    ∀ e, b.eeprom = some e → fieldOf e 0 4 = 0x56424D39 →
      b.readBoard = { b with form := fieldOf e 4 1 % 16, brev := fieldOf e 5 1,
                             bpower := if fieldOf e 4 1 % 16 = 0 then 0 else fieldOf e 6 2 }

/-- Resets and booting. -/
def Obligations.DeviceResets : Prop := deviceResetsClaim ∧ bootStagesClaim ∧ imagesAndBoardClaim

/-- A request of a management or SPDM endpoint and its answer: what it makes of the SPDM state, and its data (01 R31). What a
request for measurements names by its first byte is the model's reading (log 71). -/
def Sys2Proof.Claims.spdmAnswers (s : State) (body : List Byte) : List (Instr × Nat × Spdm × List Byte) :=
  let sign := fun x => Config.ecdsaSign (s.boot.alias2.getD 0) (Config.sha384 x)
  let m := fun i => bytesOf 48 (((s.boot.meas.find? (fun (e : Nat × BitVec 384) => e.1 == i)).map (fun (e : Nat × BitVec 384) => e.2)).getD 0).toNat
  let asked := match body with
    | [] => m 1 ++ m 2 ++ m 3 ++ m 4
    | x :: _ => if x = 0 then [4] else if x = 0xFF then m 1 ++ m 2 ++ m 3 ++ m 4 else if x.toNat ≤ 4 then m x.toNat else []
  [(.getVersion, 0, { version := true }, [0x12, 0x00]),
   (.getCapabilities, 1, { s.spdm with caps := true }, [0, 1, 2, 3, 4, 5, 6, 7, 8, 9]),
   (.negotiateAlgorithms, 2, { s.spdm with algs := [.ecdsaBrainpoolP384r1, .sha384, .aes256Gcm] }, [0, 1, 2]),
   (.getDigests, 3, s.spdm, bytesOf 48 (Config.sha384 Config.certificate).toNat), (.getCertificate, 4, s.spdm, Config.certificate),
   (.challenge, 5, s.spdm, sign body), (.getMeasurements, 6, s.spdm, asked ++ sign (body ++ asked)),
   (.keyExchange, 7, { s.spdm with exchanged := true }, sign body),
   (.finish, 8, { s.spdm with session := true }, [])]

/-- What must have gone before a request, GET_VERSION 0 to KEY_UPDATE 9 (the order of SPDM 1.2: PRESUMED, log 71). -/
def Sys2Proof.Claims.inOrder (x : Spdm) (kind : Nat) : Prop :=
  match kind with
  | 0 => True
  | 1 => x.version = true
  | 2 => x.caps = true
  | 8 => x.exchanged = true
  | 9 => x.session = true
  | _ => x.algs ≠ []

/-- 01 R26, R28, R29, R31, R35: the requests of the host and of the management endpoint. Configuration requests have Retry
Status until the boot has ended; a halted device shows the reduced space; the SPDM requests are answered, with their data, once
stage 2 runs, and with ERROR where one that must go before is missing; ROLLBACK_RAISE blows the fuse, from boot step 4 on, to an
authenticated higher value up to the running image's. -/
def Obligations.ManagementRequests : Prop :=
  ∀ (s : State),
    (∀ fn reg, s.arg = .pair fn reg →
      let done := s.boot.phase = .done
      let how := if fn ≠ 0 then (if done ∧ (s.fn fn).en = true then 2 else 3) else if done then 2
        else if s.boot.phase = .halted then 1 else 0
      exec .configurationRequest s = .next { s with outbox := s.outbox ++ [{ kind := .config, words := [fn, reg, how] }] } ∧
      exec .rollbackRaise s = .next
        (if (s.boot.phase = .ready ∨ done) ∧ reg = 1 ∧ fn ≤ s.boot.imageCounter ∧ s.boot.fuseRollback < fn ∧ fn ≤ 64 then
          { s with boot := { s.boot with fuseRollback := fn } } else s)) ∧
    ∀ body, s.arg = .message body →
      let up := s.boot.phase = .stage2 ∨ s.boot.phase = .ready ∨ s.boot.phase = .done
      (∀ i kind x data, (i, kind, x, data) ∈ spdmAnswers s body →
        (¬ up → exec i s = .next s) ∧
        (up → inOrder s.spdm kind →
          exec i s = .next { s with spdm := x, outbox := s.outbox ++ [{ kind := .spdm, words := [kind], data := data }] }) ∧
        (up → ¬ inOrder s.spdm kind →
          exec i s = .next { s with outbox := s.outbox ++ [{ kind := .spdm, words := [0x7F, kind] }] })) ∧
      exec .boardIdentityMessage s = .next (if up then
        { s with outbox := s.outbox ++ [{ kind := .management, words := [s.boot.form, s.boot.brev, s.boot.bpower] }] } else s)

/-- 01 R18 to R22, R34: the sensors, the heat flux, the power windows and THROT_N put their dies in throttle, or take them
out; a die in throttle steps its clock down by 25 MHz, to 800 MHz at least, and one that has left it up, to 2.7 GHz at most; at 115 °C all
clocks stop and THERMTRIP_N falls; a write to PWRLIM waits for the next window of 1 ms. -/
def Obligations.PowerAndHeat : Prop :=
  ∀ (s : State),
    (∀ die sensor temp, die < 4 → sensor < 64 → s.arg = .reading die sensor temp →
      ∃ t, exec .thermalSensorReading s = .next t ∧ t = { s with power := t.power, boot := t.boot, outbox := t.outbox } ∧
        throttles s t { s.power with temps := Map.set 0 s.power.temps (64 * die + sensor) temp } [die] ∧
        (t.die die).hot = t.power.temps.any (fun x => x.1 / 64 == die && decide (100 ≤ x.2)) ∧
        (t.die die).fluxOver = (s.die die).fluxOver ∧ (∀ k, k ≠ die → t.die k = s.die k) ∧
        (if temp < 115 then t.boot = s.boot ∧ t.outbox = s.outbox
          else t.boot = { s.boot with thermtrip := true, clocksStopped := true } ∧
            t.outbox = s.outbox ++ [{ kind := .thermtrip, words := [] }])) ∧
    (∀ die flux, die < 4 → s.arg = .pair die flux →
      ∃ t, exec .heatFluxWindow s = .next t ∧ t = { s with power := t.power } ∧ throttles s t s.power [die] ∧
        (t.die die).hot = (s.die die).hot ∧ (∀ k, k ≠ die → t.die k = s.die k) ∧
        (t.die die).fluxOver = (if flux < 280 then 0 else min 2 ((s.die die).fluxOver + 1))) ∧
    (∀ high, s.arg = .level high →
      ∃ t, exec .throtNChange s = .next t ∧ t = { s with power := t.power } ∧ throttles s t { s.power with throtLow := !high } [0, 1, 2, 3] ∧
        ∀ k, k < 4 → (t.die k).hot = (s.die k).hot ∧ (t.die k).fluxOver = (s.die k).fluxOver) ∧
    (∀ long w, s.arg = .power long w →
      let now := s.power.pending.getD (s.power.fast, s.power.sust)
      ∃ t, exec .pwrlimWindowEnd s = .next t ∧ t = { s with power := t.power } ∧
        throttles s t (if long then { s.power with over1s := decide (s.power.sust < w) }
          else { s.power with over1ms := decide (s.power.fast < w), fast := now.1, sust := now.2, pending := none }) [0, 1, 2, 3] ∧
        ∀ k, k < 4 → (t.die k).hot = (s.die k).hot ∧ (t.die k).fluxOver = (s.die k).fluxOver) ∧
    (∀ data : List Byte, s.arg = .write 0 0x10 data → data.length = 4 → heeds s →
      let limits := (max 600 (min 2600 (ofBytes data / 2 ^ 16)), max 600 (min 2100 (ofBytes data % 2 ^ 16)))
      exec .pwrlimWrite s = .next { s with power := { s.power with pending := some limits } }) ∧
    ∀ k, s.arg = .unit k →
      let d := s.die k
      exec .clockStepDown s = .next (if d.throttle then s.setDie k { d with clock := max 32 (d.clock - 1) } else s) ∧
      exec .throttleExitTimer s = .next (if d.throttle then s else s.setDie k { d with recovering := true }) ∧
      exec .clockStepUp s = .next (if d.recovering = true ∧ d.throttle = false then
        s.setDie k { d with clock := min 108 (d.clock + 1), recovering := decide (d.clock + 1 < 108) } else s)

/-! ## The pod: links -/

/-- 02 R37 to R39, R62: the ports. A silent UP port goes DOWN: its module no longer has this head, and the L2 no longer
holds its lines. RETRAIN starts training with the new X8OK and MODE, unless the port is held OFF. At its end the port is OFF, DOWN, REFUSED or UP as Table 2-2
says, by the MODE that it held when the training started (where a port ends that reaches only x8, or only C64 in MODE 1, is the model's
choice: log 82). A first PODCFG write with EN set and a legal order and index fixes them, and with them which ports are OFF or REFUSED. -/
def Sys2Proof.Claims.linkStatesClaim : Prop :=
  ∀ (s : State),
    (∀ k, s.arg = .unit k →
      ((s.port k).state ≠ .up → exec .linkTimeout s = .next s) ∧
      ((s.port k).state = .up → ∃ t, exec .linkTimeout s = .next t ∧ (t.port k).state = .down ∧
        ((t.port k).speed, (t.port k).modid, (t.port k).replay) = (0, 0, (s.port k).replay) ∧ k ∈ (t.module (s.port k).modid).lost ∧
        ∀ x, x ∈ t.l2 → ppaKind (64 * x.line) = 1 → modIndex (64 * x.line) ≠ (s.port k).modid)) ∧
    (∀ k (data : List Byte), k < 9 → s.arg = .write 0 (0x100 + 16 * k) data → data.length = 4 → bitOf (ofBytes data) 2 = true → heeds s →
      let held : Bool := s.pod.en && s.pod.order < k
      ∃ t, exec .portRetrain s = .next t ∧ (t.port k).state = (if held then .off else .training) ∧ (t.port k).replay = 0 ∧
        ((s.port k).state ≠ .up → t = { s with pod := { s.pod with ports := t.pod.ports } } ∧ (∀ j, j ≠ k → t.port j = s.port j) ∧
          t.port k = { x8ok := bitOf (ofBytes data) 3, mode := ofBytes data % 4, keyless := (s.port k).keyless,
                       trained := if held then (s.port k).trained else ofBytes data % 4, state := if held then .off else .training })) ∧
    (∀ k ok x8 v128 ext modid head nheads, s.arg = .training k ok x8 v128 ext modid head nheads →
      let p := s.port k
      let off := p.trained = 3 ∨ (s.pod.en = true ∧ s.pod.order < k)
      let short := ok = false ∨ (x8 = true ∧ p.x8ok = false) ∨ (p.trained = 1 ∧ v128 = false)
      (p.state ≠ .training → exec .portTrainingDone s = .next s) ∧
      (p.state = .training → off → exec .portTrainingDone s = .next (s.setPort k (leftAs p .off))) ∧
      (p.state = .training → ¬ off → short →
        exec .portTrainingDone s = .next ((s.setPort k (leftAs p .down)).reportLoss (s.modOfPort s.pod.pkg k) k)) ∧
      (p.state = .training → ¬ off → ¬ short → ∃ t, exec .portTrainingDone s = .next t ∧
        t = { s with mem := t.mem, poison := t.poison, latent := t.latent,
                     pod := { s.pod with ports := t.pod.ports, modules := t.pod.modules, sealed := t.pod.sealed } } ∧
        (∀ j, j ≠ k → t.port j = s.port j) ∧
        let refused := ext = false ∨ (s.pod.en = true ∧ (modid ≠ s.modOfPort s.pod.pkg k ∨ head ≠ k))
        (t.port k = { leftAs p (if refused then .refused else .up) with
          speed := if v128 = true ∧ p.trained ≠ 2 then 2 else 1, x8 := x8, ext := ext, modid := modid, head := head, nheads := nheads }) ∧
        (if refused then t.mem = s.mem ∧ t.pod.modules = s.pod.modules
        else
          (t.module modid = if (s.module modid).failed then { enrolled := (s.module modid).enrolled }
            else { s.module modid with lost := (s.module modid).lost.filter (fun h => h != k) }) ∧
          ∀ a, Map.get 0 t.mem a =
            if (s.module modid).failed = true ∧ modPpa modid 0 ≤ a ∧ a < modPpa modid 0 + 2 ^ 50 then 0 else Map.get 0 s.mem a))) ∧
    ∀ data : List Byte, s.arg = .write 0 0x80 data → data.length = 4 → heeds s →
      let v := ofBytes data
      let q := v / 2 ^ 24 % 16
      let p := v / 2 ^ 8 % 2 ^ 7
      let n := q * q + q + 1
      let named : State := { s with pod := { s.pod with order := q, pkg := p } }
      (bitOf v 31 = false ∨ s.pod.en = true → exec .podcfgEn s = .next s) ∧
      (bitOf v 31 = true → s.pod.en = false →
        (podSet q = [] ∨ n ≤ p → exec .podcfgEn s = .next named) ∧
        (podSet q ≠ [] → p < n → ∃ t, exec .podcfgEn s = .next t ∧
          t = { s with pod := { s.pod with en := true, order := q, pkg := p, ports := t.pod.ports } } ∧
          ∀ k, k < 9 → t.port k = if q < k then { leftAs (s.port k) .off with replay := (s.port k).replay }
            else if (s.port k).state = .up then
              { s.port k with state := (if (s.port k).ext = false ∨ (s.port k).modid ≠ named.modOfPort p k ∨ (s.port k).head ≠ k then
                                          .refused else .up) }
            else s.port k))

/-- Installing a key in one direction (02 R68): it waits while an earlier rekey runs; the first key of all goes to bank 0;
any other goes to the inactive bank, to which G flips. -/
def Sys2Proof.Claims.installed (x : LinkKey) (b : Bank) : LinkKey :=
  if 2 ≤ x.step then { x with next := some b }
  else if x.b0 = none ∧ x.b1 = none then { x with b0 := some b, gen := false, step := 0 }
  else if x.gen then { x with b0 := some b, gen := false, step := 2 } else { x with b1 := some b, gen := true, step := 2 }

/-- A flit counts under a bank. -/
def Sys2Proof.Claims.counted (b : Option Bank) : Option Bank := b.map (fun b => { b with counter := b.counter + 1 })

/-- 02 R38, R62, R66 to R69, R72, Table 2-14: flits and keys. A message counts its flits under the bank that G selects (how many:
the model's choice, log 72). A received flit counts under the bank of its G bit; one that fails its tag, or whose bank holds no key, is
replayed, and at the third failure of one sequence number the port is FAILED; before EN only channel 3 under key identifier 0 is carried.
A silent port sends an idle flit. A rekey starts at 2^40 flits, installs the new key in the inactive bank, to which G flips, and ends when
the old bank is erased; a second one then runs. A key comes in a session, and not without one. -/
def Sys2Proof.Claims.linkProtectionClaim : Prop :=
  ∀ (s : State),
    (∀ k kid n, (s.keyOf k kid true = none → s.flits k kid n = s) ∧
      ∀ x, s.keyOf k kid true = some x →
        let more := fun b : Option Bank => b.map (fun b => { b with counter := b.counter + max 1 ((n + 231) / 232) })
        s.flits k kid n = { s with pod := { s.pod with keys := (s.flits k kid n).pod.keys } } ∧
        (s.flits k kid n).keyOf k kid true = some (if x.gen then { x with b1 := more x.b1 } else { x with b0 := more x.b0 }) ∧
        ∀ j i out, ¬ (j = k ∧ i = kid ∧ out = true) → (s.flits k kid n).keyOf j i out = s.keyOf j i out) ∧
    (∀ k ctx m, (s.port k).keyless = true → s.ctxKey ctx ≠ 0 → s.keyOf k (s.linkKid ctx m) true = none → s.linkOk k ctx m = false) ∧
    (∀ k kid g vc seq tagOk, s.arg = .flit k kid g vc seq tagOk → (s.port k).state = .up →
      let p := s.port k
      let held := match s.keyOf k kid false with
        | none => kid = 0
        | some x => (if g then x.b1 else x.b0).isSome = true
      let tries := match p.bad with
        | some (q, c) => if q = seq then c + 1 else 1
        | none => 1
      let carried := s.pod.en = true ∨ (vc = 3 ∧ kid = 0)
      (¬ carried → exec .flitReceive s = .next s) ∧
      (carried → tagOk = true → vc < 4 → held → ∃ t, exec .flitReceive s = .next t ∧
        t = { s with pod := { s.pod with ports := t.pod.ports, keys := t.pod.keys } } ∧
        t.port k = { p with bad := none, received := p.received + 1 } ∧ (∀ j, j ≠ k → t.port j = s.port j) ∧
        t.keyOf k kid false = (s.keyOf k kid false).map (fun x =>
          if g then { x with b1 := counted x.b1 } else { x with b0 := counted x.b0 })) ∧
      (carried → ¬ (tagOk = true ∧ vc < 4 ∧ held) →
        (tries < 3 → exec .flitReceive s = .next (s.setPort k { p with bad := some (seq, tries), replay := min 255 (p.replay + 1) })) ∧
        (3 ≤ tries → ∃ t, exec .flitReceive s = .next t ∧ (t.port k).state = .failed ∧ k ∈ (t.module p.modid).lost))) ∧
    (∀ k, s.arg = .unit k → (s.port k).state = .up →
      ∃ t, exec .idleFlit s = .next t ∧
        t = { s with pod := { s.pod with ports := t.pod.ports, keys := t.pod.keys }, outbox := s.outbox ++ [{ kind := .idleFlit, words := [k] }] } ∧
        t.port k = { s.port k with idle := (s.port k).idle + 1 } ∧ (∀ j, j ≠ k → t.port j = s.port j) ∧
        t.keyOf k 0 true = (s.keyOf k 0 true).map (fun x =>
          if x.gen then { x with b1 := counted x.b1 } else { x with b0 := counted x.b0 })) ∧
    (∀ k kid out x, s.arg = .triple k kid out → s.keyOf k kid (out == 1) = some x →
      (x.step ≠ 0 → exec .rekeyStart s = .next s) ∧
      (x.step = 0 → ∃ t, exec .rekeyStart s = .next t ∧
        t = { s with pod := { s.pod with keys := t.pod.keys }, outbox := s.outbox ++ [{ kind := .rekey, words := [k, kid, out] }] } ∧
        let top := fun (b : Option Bank) => b.map (fun b => { b with counter := max b.counter (2 ^ 40) })
        t.keyOf k kid (out == 1) =
          some (if x.gen then { x with step := 1, b1 := top x.b1 } else { x with step := 1, b0 := top x.b0 }))) ∧
    (∀ k kid key salt, s.arg = .key k kid key salt →
      (s.spdm.session = false →
        exec .keyUpdate s = .next { s with outbox := s.outbox ++ [{ kind := .spdm, words := [0x7F, 9] }] }) ∧
      (s.spdm.session = true → ∃ t, exec .keyUpdate s = .next t ∧
        t = { s with pod := { s.pod with keys := t.pod.keys }, outbox := s.outbox ++ [{ kind := .spdm, words := [9] }] } ∧
        (∀ out, t.keyOf k kid out = some (installed ((s.keyOf k kid out).getD { port := k, kid := kid, out := out }) { key := key, salt := salt })) ∧
        ∀ j i out, j ≠ k ∨ i ≠ kid → t.keyOf j i out = s.keyOf j i out)) ∧
    ∀ k kid, s.arg = .pair k kid → ∃ t, exec .rekeyBankErase s = .next t ∧
      t = { s with pod := { s.pod with keys := t.pod.keys } } ∧
      (∀ out, t.keyOf k kid out = (s.keyOf k kid out).map (fun x =>
        let y : LinkKey := if x.gen then { x with b0 := none, step := 0, next := none } else { x with b1 := none, step := 0, next := none }
        if x.step = 2 then x.next.elim y (installed y) else x)) ∧
      ∀ j i out, j ≠ k ∨ i ≠ kid → t.keyOf j i out = s.keyOf j i out

/-- The ports and the protection of their links. -/
def Obligations.LinkStates : Prop := linkStatesClaim ∧ linkProtectionClaim

/-- 02 R51, R63: a record has entered the event queue of a head: it stands at the queue's next place in the module's control area
(a ring of 1,024 records: the model's choice, log 75). -/
def Sys2Proof.Claims.recorded (s t : State) (m h : Nat) (bs : List Byte) : Prop :=
  Map.get 0 (t.module m).posted h = Map.get 0 (s.module m).posted h + 1 ∧
    t.readN (modPpa m (0x40000000 + 0x10000 * h + Map.get 0 (s.module m).posted h % 1024 * 64)) 64 = bs

/-- 02 R48, R63, R92; 05 R164, R173: losses at a module. When a module loses a head, no line of its directory names it, every
slot that waits for it ends with LINK_LOST, every snoop that it owed is over, and every other head gets a record; when it fails, every head
that it still reaches gets one. A loss at this package is one event of the arbiter, and posts a record to the other heads of every module it
reaches. A snoop that a head does not answer clears that head's marks on the line, and poisons what it held dirty. A record in this
package's own queue raises the interrupt. -/
def Obligations.HeadLosses : Prop :=
  ∀ (s : State),
    (∀ m h, s.arg = .pair m h →
      ((s.module m).failed = true ∨ h ∈ (s.module m).lost → exec .moduleHeadLoss s = .next s) ∧
      ((s.module m).failed = false → h ∉ (s.module m).lost → ∃ t, exec .moduleHeadLoss s = .next t ∧
        (∀ j, j ∈ (t.module m).lost ↔ j = h ∨ j ∈ (s.module m).lost) ∧
        ((t.module m).failed = true ↔ podSet s.pod.order ≠ [] ∧ ∀ j, j ∈ s.liveHeads m → j = h) ∧
        (∀ line, t.dirAt m line = (s.dirAt m line).clear h) ∧ (∀ q, q ∈ (t.module m).snoops → q.head ≠ h) ∧
        (∀ x, x ∈ (t.module m).slots → s.slotNeeds m x h = false) ∧
        (∀ j, j ∈ s.liveHeads m → j ≠ h → recorded s t m j (lossRecord 1 m h 0xFF 0)) ∧
        ∀ m', m' ≠ m → t.module m' = s.module m') ∧
      ∃ t, exec .slotLinkLost s = .next t ∧ (∀ x, x ∈ (t.module m).slots → s.slotNeeds m x h = false) ∧
        t.module m = { s.module m with slots := (t.module m).slots } ∧ ∀ m', m' ≠ m → t.module m' = s.module m') ∧
    (∀ m, s.arg = .unit m → ∃ t, exec .moduleFailure s = .next t ∧
      t = { s with inbox := t.inbox, mem := t.mem, poison := t.poison, latent := t.latent, pod := { s.pod with modules := t.pod.modules } } ∧
      t.module m = { s.module m with failed := true, posted := (t.module m).posted } ∧ (∀ m', m' ≠ m → t.module m' = s.module m') ∧
      ∀ h, h ∈ s.liveHeads m → recorded s t m h (lossRecord 2 m 0xFF 0xFF 0)) ∧
    (∀ m line h, s.arg = .triple m line h →
      ((∀ q ∈ (s.module m).snoops, ¬ (q.line = line ∧ q.head = h)) → exec .snoopTimeout s = .next s) ∧
      ((∃ q ∈ (s.module m).snoops, q.line = line ∧ q.head = h) → ∃ t, exec .snoopTimeout s = .next t ∧
        t = { s with poison := t.poison, tick := t.tick, pod := { s.pod with modules := t.pod.modules } } ∧
        t.module m = { s.module m with dir := (t.module m).dir, reqs := (t.module m).reqs,
                                       snoops := (s.module m).snoops.filter (fun q => !(q.line == line && q.head == h)) } ∧
        t.dirAt m line = (s.dirAt m line).clear h ∧
        (∀ j, j ≠ line → t.dirAt m j = s.dirAt m j) ∧ (∀ m', m' ≠ m → t.module m' = s.module m') ∧
        (∀ l, l ∈ s.poison → l ∈ t.poison) ∧
        (s.myHead m ≠ some h → (s.dirAt m line).owner = some h → ((s.dirAt m line).dirty || (s.dirAt m line).shared) = true →
          modPpa m (64 * line) / 64 ∈ t.poison))) ∧
    (∀ m h, (s.pod.en = false → s.reportLoss m h = s) ∧
      (s.pod.en = true → (s.reportLoss m h).host.seq = (s.host.seq + 1) % 2 ^ 64 ∧
        ∀ k x, k < 9 → (s.port k).state = .up → (s.port k).modid < 128 → x ∈ s.liveHeads (s.port k).modid → x ≠ k →
          (∀ j, j < 9 → (s.port j).state = .up → (s.port j).modid = (s.port k).modid → j = k) →
          recorded s (s.reportLoss m h) (s.port k).modid x (lossRecord 1 m h s.pod.pkg (s.nextSeq.2.tstamp 0).1))) ∧
    exec .podRecordArrival s = .next (s.raiseIrq 3) ∧
    ∀ k, k ∈ (s.raiseIrq k).host.aplic ∧ Map.get 0 (s.raiseIrq k).host.raised k = Map.get 0 s.host.raised k + 1 ∧
      s.raiseIrq k = { s with host := { s.host with aplic := (s.raiseIrq k).host.aplic, raised := (s.raiseIrq k).host.raised,
                                                    harts := (s.raiseIrq k).host.harts } }

/-! ## The pod: lines, homes, relays -/

/-- The state of an L2 line after a snoop (02 Table 2-10): BISnpCur leaves M as O (the model's choice: log 74), BISnpData leaves
a dirty line O and a clean one S, BISnpInv takes it. -/
def Sys2Proof.Claims.afterSnoop (i : Instr) (st : Nat) : Option Nat :=
  match i with
  | .bisnpcur => some (if st = 4 then 3 else st)
  | .bisnpdata => some (if 3 ≤ st then 3 else 1)
  | _ => none

/-- The snoop of each event. -/
def Sys2Proof.Claims.snoopOf (i : Instr) : Snoop :=
  match i with
  | .bisnpcur => .cur
  | .bisnpdata => .data
  | _ => .inv

/-- A head has answered a snoop of a home (02 R47, R48): the directory, and the snoop that is over. -/
def Sys2Proof.Claims.snoopEnds (s t : State) (m line h ans : Nat) : Prop :=
  (∀ m', m' ≠ m → t.module m' = s.module m') ∧
    t.module m = { s.module m with dir := (t.module m).dir, reqs := (t.module m).reqs, snoops := (t.module m).snoops } ∧
    ∀ q, (s.module m).snoops.find? (fun q => q.line == line && q.head == h) = some q →
      t.dirAt m line = (s.dirAt m line).answered h q.kind ans ∧ (∀ j, j ≠ line → t.dirAt m j = s.dirAt m j) ∧
      (t.module m).snoops = (s.module m).snoops.filter (fun q => !(q.line == line && q.head == h))

/-- 02 R38, R46 to R48, Table 2-10: the snoops of a home. The answer of this package says whether the line is held, and dirty, and
the state it goes to; the data of a dirty line, or of one that BISnpCur asks for, is forwarded; no byte and no other line changes; nothing
is answered before EN, or where the package has no head at the module. The answer of another head ends the home's snoop, and a
forwarded dirty line enters the module's memory. -/
def Sys2Proof.Claims.snoopAnswersClaim : Prop :=
  ∀ (s : State) (i : Instr), i = .bisnpcur ∨ i = .bisnpdata ∨ i = .bisnpinv →
    (∀ m line, s.arg = .pair m line →
      let a := modPpa m (64 * line)
      let said := fun (words : List Nat) (data : List Byte) => s.outbox ++ [({ kind := .snoopAnswer, words := words, data := data } : Sent)]
      (s.pod.en = false ∨ s.myHead m = none → exec i s = .next s) ∧
      ∀ h, s.pod.en = true → s.myHead m = some h →
        (s.l2Find (a / 64) = none → ∃ t, exec i s = .next t ∧ snoopEnds s t m line h 0 ∧
          t = { s with outbox := said [m, line, 0] [], pod := { s.pod with modules := t.pod.modules, keys := (s.flits h 0 32).pod.keys } } ∧
          ((∀ q ∈ (s.module m).snoops, ¬ (q.line = line ∧ q.head = h)) → t.pod.modules = s.pod.modules)) ∧
        ∀ x, s.l2Find (a / 64) = some x → 0 < x.st →
          let dirty := 3 ≤ x.st
          let data := if dirty ∨ i = .bisnpcur then s.readN a 64 else []
          ∃ t, exec i s = .next t ∧ snoopEnds s t m line h (if dirty then 2 else 1) ∧
            t = { s with l2 := t.l2, outbox := said [m, line, if dirty then 2 else 1, (afterSnoop i x.st).getD 0] data,
                         pod := { s.pod with modules := t.pod.modules, keys := (s.flits h 0 32).pod.keys } } ∧
            ((∀ q ∈ (s.module m).snoops, ¬ (q.line = line ∧ q.head = h)) → t.pod.modules = s.pod.modules) ∧
            t.l2Find (a / 64) = (afterSnoop i x.st).map (fun st => { x with st := st }) ∧
            ∀ l, l ≠ a / 64 → t.l2Find l = s.l2Find l) ∧
    ∀ m line h ans data, s.arg = .snooped m line h ans data →
      ((∀ q ∈ (s.module m).snoops, ¬ (q.line = line ∧ q.head = h)) → exec i s = .next s) ∧
      ∀ q, (s.module m).snoops.find? (fun q => q.line == line && q.head == h) = some q → q.kind = snoopOf i →
        (ans = 3 → exec i s = .next s) ∧
        (ans < 3 → ∃ t, exec i s = .next t ∧ snoopEnds s t m line h ans ∧
          (ans ≠ 2 → t = { s with pod := { s.pod with modules := t.pod.modules } }) ∧
          (ans = 2 → data.length = 64 → t.readN (modPpa m (64 * line)) 64 = data ∧
            t = { s with mem := t.mem, poison := t.poison, latent := t.latent,
                         pod := { s.pod with modules := t.pod.modules, sealed := t.pod.sealed } }))

/-- What the home of a module answers another head. -/
def Sys2Proof.Claims.homeSaid (s : State) (m line head kind : Nat) (bad : Bool) (data : List Byte) : List Sent :=
  s.outbox ++ [{ kind := .homeAnswer, words := [m, line, head, kind, if bad then 1 else 0], data := data }]

/-- The requests of other heads change the directory and the queue of the home, bytes of the module with their seals, and
nothing else. -/
def Sys2Proof.Claims.atHome (s t : State) (m : Nat) : Prop :=
  t = { s with mem := t.mem, poison := t.poison, latent := t.latent, outbox := t.outbox,
               pod := { s.pod with modules := t.pod.modules, sealed := t.pod.sealed } } ∧
  (t.module m = { s.module m with dir := (t.module m).dir, reqs := (t.module m).reqs, nextReq := (t.module m).nextReq,
                                  snoops := (t.module m).snoops, slots := (t.module m).slots }) ∧
  (∀ m', m' ≠ m → t.module m' = s.module m') ∧
  ∀ a, a < modPpa m 0 ∨ modPpa m 0 + 2 ^ 51 ≤ a → Map.get 0 t.mem a = Map.get 0 s.mem a

/-- No request that still asks waits at a home for one of some lines, and `who` does not wait there (02 R46). -/
def Sys2Proof.Claims.homeFree (s : State) (m : Nat) (ls : List Nat) (who : ReqWho) : Prop :=
  ∀ r ∈ (s.module m).reqs, r.who ≠ who ∧ (s.asks r.who = true → ∀ l ∈ r.lines, l ∉ ls)

/-- Nobody holds some lines of a module. -/
def Sys2Proof.Claims.unheld (s : State) (m : Nat) (ls : List Nat) : Prop :=
  ∀ l ∈ ls, (s.dirAt m l).owner = none ∧ (s.dirAt m l).sharers = []

/-- What a home sends with a line: its 64 bytes, and the sideband of a sealed one (02 R70). -/
def Sys2Proof.Claims.lineSent (s : State) (a : Nat) : List Byte :=
  s.readN a 64 ++ (match (s.sealOf (a / 64)).iv with
    | _ :: _ :: _ :: v :: _ => bytesOf 4 v ++ bytesOf 12 (s.sealOf (a / 64)).tag.toNat
    | _ => [])

/-- 02 R46 to R49, R52, Table 2-9; 03 R85; 14 R444: the requests of another head at the home of a module that works, where no
other request waits for the line. Read shared gives S, or E where nobody holds the line; where another head owns it, the request waits, and
the home snoops that head. Read own gives the line to a head once no other holds it; with dirty data from its snoops, as M. A
write-back of the owner puts its data into memory; a clean evict forgets the head; an atomic and a queue operation act once nobody holds
the line. The owner of a slot that has ended frees it when it reads its trailer. A module that has failed answers nothing. -/
def Sys2Proof.Claims.homeRequestsClaim : Prop :=
  ∀ (s : State),
    (∀ m line head data, s.arg = .home m line head data → line < 2 ^ 44 →
      let d := s.dirAt m line
      let a := modPpa m (64 * line)
      let freed := fun t : State => (t.module m).slots = (s.module m).slots.filter (fun r =>
        !(r.state != 0 && r.owner == head && (r.landing + r.outBytes) / 64 == line))
      ((s.module m).failed = true → exec .homeReadShared s = .next s ∧ exec .homeReadOwn s = .next s ∧
        exec .homeWriteBack s = .next s ∧ exec .homeCleanEvict s = .next s) ∧
      ((s.module m).failed = false →
        (homeFree s m [line] (.event .homeReadShared s.arg) →
          (d.owner = none ∨ d.owner = some head ∨ head ∈ d.sharers →
            ∃ t, exec .homeReadShared s = .next t ∧ atHome s t m ∧ t.mem = s.mem ∧ freed t ∧
              t.dirAt m line = (if d.owner = some head ∨ head ∈ d.sharers then d
                else if d.owner = none ∧ d.sharers = [] then { owner := some head }
                else { d with sharers := insertNat head d.sharers }) ∧
              t.outbox = homeSaid s m line head (if d.owner = some head ∨ (d.owner = none ∧ d.sharers = []) then 2 else 1)
                (s.poisoned a 64) (lineSent s a)) ∧
          ∀ k, d.owner = some k → k ≠ head → head ∉ d.sharers → (∀ q ∈ (s.module m).snoops, ¬ (q.line = line ∧ q.head = k)) →
            ∃ t, exec .homeReadShared s = .next t ∧ atHome s t m ∧ t.mem = s.mem ∧ (t.module m).dir = (s.module m).dir ∧
              (t.module m).reqs = (s.module m).reqs.filter (fun r => s.asks r.who) ++
                [{ id := (s.module m).nextReq, who := .event .homeReadShared s.arg, lines := [line] }] ∧
              (t.module m).snoops = (s.module m).snoops ++ [⟨line, k, if d.shared then .cur else .data⟩] ∧
              t.outbox = (if s.myHead m = some k then s.outbox
                else s.outbox ++ [{ kind := .snoop, words := [m, line, k, if d.shared then 0 else 1] }])) ∧
        (homeFree s m [line] (.event .homeReadOwn s.arg) → (∀ k, d.owner = some k ∨ k ∈ d.sharers → k = head) →
          ∃ t, exec .homeReadOwn s = .next t ∧ atHome s t m ∧ t.mem = s.mem ∧ freed t ∧ t.dirAt m line = { owner := some head } ∧
            t.outbox = homeSaid s m line head 2 (s.poisoned a 64) (lineSent s a)) ∧
        (d.owner ≠ some head → exec .homeWriteBack s = .next s) ∧
        (d.owner = some head → data.length = 64 → ∃ t, exec .homeWriteBack s = .next t ∧ atHome s t m ∧
          t.readN a 64 = data ∧ t.dirAt m line = { sharers := d.sharers } ∧ t.sealOf (a / 64) = {} ∧
          t.outbox = homeSaid s m line head 0 false []) ∧
        ∃ t, exec .homeCleanEvict s = .next t ∧ atHome s t m ∧ t.mem = s.mem ∧ t.outbox = s.outbox ∧
          t.dirAt m line = d.clear head)) ∧
    (∀ m id r line head data, s.arg = .queued m id → (s.module m).failed = false →
      (s.module m).reqs.find? (fun r => r.id == id) = some r → r.who = .event .homeReadOwn (.home m line head data) → r.lines = [line] →
      (∀ q ∈ (s.module m).reqs.takeWhile (fun q => q.who != r.who), s.asks q.who = true → line ∉ q.lines) →
      (s.module m).reqs.find? (fun q => q.who == r.who) = some r →
      (∀ k, (s.dirAt m line).owner = some k ∨ k ∈ (s.dirAt m line).sharers → k = head ∨ (line, k) ∈ r.answered) →
      ∃ t, exec .homeReadOwn s = .next t ∧ atHome s t m ∧ t.mem = s.mem ∧ t.dirAt m line = { owner := some head, dirty := r.dirty } ∧
        t.outbox = homeSaid s m line head (if r.dirty then 4 else 2) (s.poisoned (modPpa m (64 * line)) 64) (lineSent s (modPpa m (64 * line)))) ∧
    (∀ m off head size aop x cmp, s.arg = .atomic m off head size aop x cmp →
      (s.module m).failed = false → size < 5 → aop < 13 → off % 2 ^ size = 0 → off + 2 ^ size ≤ 2 ^ 50 →
      homeFree s m [off / 64] (.event .farAtomic s.arg) → unheld s m [off / 64] →
      let a := modPpa m off
      let n := 2 ^ size
      let bad := s.poisoned a n || s.sealsIn a n
      ∃ t, exec .farAtomic s = .next t ∧ atHome s t m ∧ t.dirAt m (off / 64) = {} ∧
        t.readN a n = (if bad then s.readN a n else bytesOf n (atomicNew aop n (ofBytes (s.readN a n)) x cmp)) ∧
        t.outbox = homeSaid s m (off / 64) head 5 bad (s.readN a n)) ∧
    ∀ m off head n entry i, s.arg = .queue m off head n entry → (s.module m).failed = false → off + 64 ≤ 2 ^ 50 →
      i = .moduleQueueEnqueue ∨ i = .moduleQueueDequeue →
      homeFree s m (s.queueLines m off) (.event i s.arg) → unheld s m (s.queueLines m off) →
      let a := modPpa m off
      let b := s.queueDesc m off
      let at' := fieldOf b 16 8
      let tail := fieldOf b 24 8
      let cap := 2 ^ fieldOf b 8 1
      let slot := fun k => fieldOf b 0 8 + k % cap * n
      (off % 64 ≠ 0 ∨ queueBad b = true → ∃ t, exec i s = .next t ∧ atHome s t m ∧ t.mem = s.mem ∧
        t.outbox = homeSaid s m (off / 64) head 6 false [3]) ∧
      (off % 64 = 0 → queueBad b = false → fieldOf b 9 1 ≠ n → ∃ t, exec i s = .next t ∧ atHome s t m ∧ t.mem = s.mem ∧
        t.outbox = homeSaid s m (off / 64) head 6 false [2]) ∧
      (off % 64 = 0 → queueBad b = false → fieldOf b 9 1 = n → off + 64 ≤ slot tail ∨ slot tail + n ≤ off →
        (i = .moduleQueueEnqueue → entry.length = n → at' ≤ tail → tail - at' < cap → tail + 1 < 2 ^ 64 →
          ∃ t, exec i s = .next t ∧ atHome s t m ∧
            t.readN (modPpa m (slot tail)) n = entry ∧ t.readN (a + 24) 8 = bytesOf 8 (tail + 1) ∧
            t.readN a 24 = s.readN a 24 ∧ t.outbox = homeSaid s m (off / 64) head 6 false [0]) ∧
        (i = .moduleQueueDequeue → at' < tail → ∃ t, exec i s = .next t ∧ atHome s t m ∧ t.readN (a + 16) 8 = bytesOf 8 (at' + 1) ∧
          t.outbox = homeSaid s m (off / 64) head 6 false (0 :: s.readN (modPpa m (slot at')) n)))

/-- The directory of a module: snoops answered and requests served. -/
def Obligations.HomeRequests : Prop := snoopAnswersClaim ∧ homeRequestsClaim

/-- What can act at a module for a relay now: the package reaches it directly, it works, no other request waits there for the lines,
and nobody holds them. -/
def Sys2Proof.Claims.relayReady (s : State) (d : RelayDesc) (ls : List Nat) : Prop :=
  s.myHead d.dst ≠ none ∧ (s.module d.dst).failed = false ∧ homeFree s d.dst ls (.relay d) ∧ unheld s d.dst ls

/-- The home has given up every mark on some lines. -/
def Sys2Proof.Claims.unmarked (s : State) (m : Nat) (ls : List Nat) : State := ls.foldl (fun s l => s.setDir m l {}) s

/-- The home has looked at some lines, and left their marks as they are. -/
def Sys2Proof.Claims.looked (s : State) (m : Nat) (ls : List Nat) : State := ls.foldl (fun s l => s.setDir m l (s.dirAt m l)) s

/-- 02 R59, Table 2-13: a descriptor ends: the next SEQ of its pair is performed next, it is held no longer, and its answer stands in
the response ring of its region, with its kind, its SEQ and its status; longer data in the payload span that the request named. -/
def Sys2Proof.Claims.relayAnswersClaim : Prop :=
  ∀ (s : State) (d : RelayDesc) (status res : Nat) (data : List Byte),
    let t := s.relayEnd d status res data []
    (t.nextRelay d = (d.seq + 1) % 2 ^ 32 ∧ d ∉ t.pod.heldBack ∧ (t.warps, t.groups, t.ops, t.host, t.xlat) = (s.warps, s.groups, s.ops, s.host, s.xlat)) ∧
    (s.myHead d.via = none → t = s.takeRelay d) ∧
    ∀ j, s.myHead d.via = some j → d.head < 16 → j < 16 →
      let ring := relayRegion d.head j + respRing
      let b := s.queueDesc d.via ring
      let at' := modPpa d.via (fieldOf b 0 8 + fieldOf b 24 8 % 2 ^ fieldOf b 8 1 * 64)
      (t.outbox = s.outbox ++ [{ kind := .relayAnswer, words := [d.via, relayRegion d.head j, d.seq] }]) ∧
      (data.length ≤ 16 → queueBad b = false → fieldOf b 9 1 = 64 → fieldOf b 16 8 ≤ fieldOf b 24 8 → fieldOf b 24 8 + 1 < 2 ^ 64 →
        fieldOf b 24 8 - fieldOf b 16 8 < 2 ^ fieldOf b 8 1 →
        let slot := fieldOf b 0 8 + fieldOf b 24 8 % 2 ^ fieldOf b 8 1 * 64
        slot + 64 ≤ ring ∨ ring + 64 ≤ slot →
        t.readN at' 64 = RelayDesc.encode { d with status := status * 2 ^ 24, queueRes := res, data := data } true ∧
        t.readN (modPpa d.via (ring + 24)) 8 = bytesOf 8 (fieldOf b 24 8 + 1))

/-- The events that act on a descriptor at a relay. -/
def Sys2Proof.Claims.relayEvents : List Instr :=
  [.relayWrite, .relayRead, .relayFarAtomic, .relayQueueEnqueue, .relayQueueDequeue, .relayContribution, .relayDelivery, .deliveryStore]

/-- 02 R38, R50, R53, R57 to R60; 03 R81, R88: a relay takes the oldest descriptor of a request ring, while it holds fewer than 512, and
holds it; it performs the descriptors of a pair in the order of SEQ. In its turn a write, a read, an atomic, a queue operation or a
contribution acts at the module as the home's own would, once nobody holds its lines; a delivery is forwarded on its next leg, with its
SEQ, or stored at its destination, which announces it. A module out of reach is LINK_LOST, a malformed descriptor FAULT. Before EN nothing
is relayed. -/
def Sys2Proof.Claims.relayedRequestsClaim : Prop :=
  ∀ (s : State),
    (s.pod.en = false → ∀ i ∈ relayEvents, exec i s = .next s) ∧
    (∀ m h d, s.arg = .pair m h → s.pod.en = true → s.relayHead m h = some d →
      let taken := (s.queueOp m (relayRegion h ((s.myHead m).getD 0) + reqRing) 64 false []).2.2
      let holds : State := { taken with pod := { taken.pod with heldBack := taken.pod.heldBack ++ [d] } }
      ∀ i ∈ relayEvents,
        (s.relayInstr d ≠ i ∨ 512 ≤ (s.pod.heldBack ++ s.forwards).length → exec i s = .next s) ∧
        (s.relayInstr d = i → s.relayRoom m h = true → d.seq ≠ holds.nextRelay d → exec i s = .next holds) ∧
        (s.relayInstr d = i → s.relayRoom m h = true → d.seq = holds.nextRelay d → d.malformed = true →
          exec i s = .next (holds.relayEnd d stFault 0 [] []))) ∧
    ∀ d, s.arg = .relay d → s.pod.en = true →
      let a := modPpa d.dst d.target
      let byLine := linesOf d.target d.len
      let turn := fun i => d ∈ s.pod.heldBack ∧ s.relayInstr d = i ∧ d.seq = s.nextRelay d ∧ d.malformed = false
      (∀ i ∈ relayEvents, d ∉ s.pod.heldBack ∨ s.relayInstr d ≠ i ∨ d.seq ≠ s.nextRelay d → exec i s = .next s) ∧
      (∀ i ∈ relayEvents, d ∈ s.pod.heldBack → s.relayInstr d = i → d.seq = s.nextRelay d → d.malformed = true →
        exec i s = .next (s.relayEnd d stFault 0 [] [])) ∧
      (∀ i ∈ [Instr.relayWrite, .relayRead, .relayFarAtomic, .relayQueueEnqueue, .relayQueueDequeue, .relayContribution], turn i →
        s.myHead d.dst = none → exec i s = .next (s.relayEnd d stLinkLost 0 [] [])) ∧
      (turn .relayWrite → relayReady s d byLine →
        exec .relayWrite s = .next (((unmarked s d.dst byLine).relayStore a (d.data.take d.len) d.tags).relayEnd d stDone 0 [] [])) ∧
      (turn .relayRead → relayReady s d byLine →
        exec .relayRead s = .next ((looked s d.dst byLine).relayEnd d (if s.poisoned a d.len then stFault else stDone) 0 (s.readN a d.len)
          (if s.sealsIn a d.len then (linesOf a d.len).map s.sealOf else []))) ∧
      (turn .relayFarAtomic → relayReady s d [d.target / 64] →
        let n := 2 ^ d.size
        let u := (unmarked s d.dst [d.target / 64]).homeAtomic d.dst d.target n d.aop (ofBytes (d.data.take n)) (ofBytes ((d.data.drop n).take n))
        exec .relayFarAtomic s = .next (u.2.2.relayEnd d (if u.2.1 then stFault else stDone) 0 u.1 []) ∧
        u.1 = s.readN a n ∧ u.2.1 = (s.poisoned a n || s.sealsIn a n)) ∧
      (∀ i, i = .relayQueueEnqueue ∨ i = .relayQueueDequeue → turn i → relayReady s d (s.queueLines d.dst d.target) →
        let u := (unmarked s d.dst (s.queueLines d.dst d.target)).queueOp d.dst d.target d.len (decide (i = .relayQueueEnqueue)) (d.data.take d.len)
        exec i s = .next (u.2.2.relayEnd d stDone u.1 u.2.1 [])) ∧
      (turn .relayContribution → relayReady s d [] →
        let u := s.contribute d.dst ((s.myHead d.dst).getD 0) d.ident d.cksum (d.data.take 64) (d.data.drop 64)
        exec .relayContribution s = .next (u.2.relayEnd d u.1 0 [] [])) ∧
      (turn .relayDelivery →
        ((∀ p, s.pkgRoute d.dst ≠ .direct p) → exec .relayDelivery s = .next (s.relayEnd d stLinkLost 0 [] [])) ∧
        ∀ p u, s.pkgRoute d.dst = .direct p →
          let sent := s.sendRelayAs p d.dst 0 { id := 0, kind := .forward d, host := false, len := d.len, write := true } d
          (∀ id, sent = (some id, u) → exec .relayDelivery s = .next (u.takeRelay d)) ∧
          (sent.1 = none → exec .relayDelivery s = .next s)) ∧
      (turn .deliveryStore →
        (hbmOk d.target = false ∨ s.hartHole d.target = true → exec .deliveryStore s = .next (s.relayEnd d stFault 0 [] [])) ∧
        (hbmOk d.target = true → s.hartHole d.target = false → s.xlat.dirtyEn = false →
          let u := (s.relayStore d.target (d.data.take d.len) d.tags).relayEnd d stDone 0 [] []
          exec .deliveryStore s = .next { u with inbox := s.inbox ++ [(.readyNotification, .notice 0xFF d.target d.ident d.cksum)] }))

/-- 02 R61, R71; 01 R5: what a relay stores: sealed lines as they came, with their tags; plain bytes, where no line is sealed, byte by
byte; and nothing else. -/
def Sys2Proof.Claims.relayStoreClaim : Prop :=
  ∀ (s : State) (a : Nat) (data : List Byte) (tags : List Seal),
    let t := s.relayStore a data tags
    (∀ b, b < a ∨ a + data.length ≤ b → Map.get 0 t.mem b = Map.get 0 s.mem b) ∧
    (tags ≠ [] ∨ s.sealsIn a data.length = false → t.readN a data.length = data) ∧
    (∀ i, tags ≠ [] → 64 * i < data.length → t.sealOf (a / 64 + i) = (tags[i]?).getD {}) ∧
    t = { s with mem := t.mem, poison := t.poison, latent := t.latent, pod := { s.pod with sealed := t.pod.sealed } }

/-- The relay engine. -/
def Obligations.RelayedRequests : Prop := relayedRequestsClaim ∧ relayAnswersClaim ∧ relayStoreClaim

/-! ## The pod: reductions -/

/-- The answer to a contribution leaves the module for another head. -/
def Sys2Proof.Claims.contribSaid (s : State) (m head ident status : Nat) : List Sent :=
  s.outbox ++ [{ kind := .contributionAnswer, words := [m, head, ident, status] }]

/-- 03 R85 to R90, R94, R95: a contribution at a module. A bad header, a contributor that the mask does not name, a chunk of another
length, and a slot of other parameters are answered FAULT; a head that holds 4,096 slots, BUSY. The first contribution
makes the slot, and where no other is expected the reduced chunk and its trailer are written at the landing position, unless ADDER or ROUND
finds fault; a chunk whose checksum word is not its own stops the slot, with a VERIFY record to the owner and to the head that it came
through; each is answered DONE, and a repeated one changes nothing. -/
def Sys2Proof.Claims.moduleReductionsClaim : Prop :=
  ∀ (s : State) (m head ident cksum : Nat) (header chunk : List Byte),
    s.arg = .contribution m head ident cksum header chunk → (s.module m).failed = false → s.myHead m ≠ some head →
    let new := RedSlot.ofHeader ident header
    let k := identContrib ident
    let bytes := if new.isPart = true ∧ identStep ident = 2 ∧ k ≠ 15 then 48 else wireBytesOf new.wire
    let good := headerBad header = false ∧ bitOf new.mask k = true ∧ chunk.length = new.elems * bytes
    let kept := (s.module m).slots.filter (fun x => !x.stale ident)
    let said := fun (status : Nat) (slots : List RedSlot) => ∃ t, exec .moduleContribution s = .next t ∧
      t = { s with outbox := contribSaid s m head ident status, pod := { s.pod with modules := t.pod.modules } } ∧
      t.module m = { s.module m with slots := slots } ∧ ∀ m', m' ≠ m → t.module m' = s.module m'
    let arrived : RedSlot := { new with arrivals := [(k, ident, chunk)], via := if k = head then [] else [head] }
    let whole := new.isPart && identStep ident = 1
    let rows := [redInputs new.wire (identOrigin ident) new.elems (new.x48In k) chunk]
    let own := chunkCksum new.wire new.elems (new.x48In k) chunk
    let out := redChunk new.op new.wire new.elems whole rows
    let adder := adderTest new.op new.wire new.elems whole rows [own] out
    let round := roundTest new.op new.wire new.elems whole rows out
    (¬ good → exec .moduleContribution s = .next { s with outbox := contribSaid s m head ident stFault }) ∧
    (good → (∃ x, kept.find? (fun x => x.ident == new.ident) = some x ∧ x.sameParams new = false) →
      said stFault kept) ∧
    (good → kept.find? (fun x => x.ident == new.ident) = none →
      (4096 ≤ (kept.filter (fun x => x.owner == new.owner)).length → said stBusy kept) ∧
      ((kept.filter (fun x => x.owner == new.owner)).length < 4096 →
        (cksum ≠ own → ∃ t, exec .moduleContribution s = .next t ∧ (t.module m).slots = kept ++ [{ arrived with state := 2 }] ∧
          ∀ h, h = new.owner ∨ h = head → recorded s t m h (errorRecord m head 0xFF 1 (identStep new.ident) ident cksum own 0)) ∧
        (cksum = own → (∀ h, h ∈ (s.module m).lost → s.slotNeeds m arrived h = false) →
          (new.mask ≠ 2 ^ k → said stDone (kept ++ [arrived])) ∧
          (new.mask = 2 ^ k → adder.2.2 = true → round = true → s.myHead m ≠ some new.owner → ∃ t, exec .moduleContribution s = .next t ∧
            (t.module m).slots = kept ++ [{ arrived with state := 1 }] ∧
            t.readN (modPpa m new.landing) out.length = out ∧
            t.readN (modPpa m new.landing + out.length) 64 = trailer new.outIdent (chunkCksum new.wire new.elems whole out) stDone (2 ^ k) ∧
            t.outbox = s.outbox ++ [{ kind := .slotNote, words := [m, new.owner, new.landing, new.outIdent, chunkCksum new.wire new.elems whole out] },
                                    { kind := .contributionAnswer, words := [m, head, ident, stDone] }]) ∧
          (new.mask = 2 ^ k → adder.2.2 = false ∨ round = false → ∃ t, exec .moduleContribution s = .next t ∧
            (t.module m).slots = kept ++ [{ arrived with state := 2 }] ∧
            recorded s t m new.owner (errorRecord m 0xFF 0xFF (if adder.2.2 then 3 else 2) (identStep new.ident) new.outIdent adder.1
              (if adder.2.2 then chunkCksum new.wire new.elems whole out else adder.2.1) 0))))) ∧
    ∀ x a, good → kept.find? (fun x => x.ident == new.ident) = some x → x.sameParams new = true →
      x.arrivals.find? (fun a => a.1 == k) = some a →
      x.state ≠ 0 ∨ chunkCksum x.wire x.elems (x.x48In k) a.2.2 = cksum → said stDone kept

/-- 03 R81 to R84, R88, R90, R93, R98 to R101: what a package does with answers and announcements of its collectives. A
BUSY contribution is sent again; a result that passes its READ check goes to the second step, or on to the members, and frees its slot; one
that does not fails its chunk; a second-step result whose status is not DONE fails its chunk; an arrival that is waited for is taken, one
that no collective waits for spills, or sets OVF (a slot's notification too: the model's reading, log 64); a wait that has gone on for
100 µs reads the trailer itself. -/
def Sys2Proof.Claims.collectiveProgressClaim : Prop :=
  ∀ (s : State),
    (∀ id k c, s.arg = .pair id k → s.coll id = some c →
      ((∃ x ∈ c.busy, x.1 = k) → ∃ t, exec .contributionRetry s = .next t ∧ t = { s with pod := { s.pod with colls := t.pod.colls } } ∧
        t.coll id = some { c with busy := c.busy.filter (fun x => x.1 != k), toSend := insertNat k c.toSend }) ∧
      (k ∈ c.toGet → (∀ x ∈ c.ready, x.1 ≠ k) →
        let m := if s.trailOf c.up s.pod.pkg (c.owner k) = some none then s.sharedMod s.pod.pkg (c.owner k) else 0xFF
        let got := (s.readPhys c.ctx (landedAt m (c.landing k 3 0) + c.chunk) 64).1
        let ident := fieldOf got 0 8
        (c.keyIs ident = true → identStep ident = 3 → identIndex ident = k → fieldOf got 16 4 / 2 ^ 24 ∈ [stDone, stChecksum, stLinkLost] →
          ∃ t, exec .chunkWaitTimeout s = .next t ∧ t = { s with pod := { s.pod with colls := t.pod.colls } } ∧
            t.coll id = some { c with ready := c.ready ++ [(k, m, c.landing k 3 0)] }) ∧
        (c.keyIs ident = false ∨ identStep ident ≠ 3 ∨ identIndex ident ≠ k → exec .chunkWaitTimeout s = .next s))) ∧
    (∀ m pos ident ck, s.arg = .notice m pos ident ck →
      (s.collOf ident = none → exec .slotNotification s = exec .readyNotification s ∧
        (s.pod.spillLog = 0 ∨ 2 ^ s.pod.spillLog ≤ s.pod.spills.length →
          exec .readyNotification s = .next { s with pod := { s.pod with spillOvf := true } }) ∧
        (s.pod.spillLog ≠ 0 → s.pod.spills.length < 2 ^ s.pod.spillLog → s.xlat.dirtyEn = false →
          ∃ t, exec .readyNotification s = .next t ∧
            t.pod = { s.pod with spills := s.pod.spills ++ [⟨ident, pos, m, m == 0xFF, (s.tstamp 0).1⟩] } ∧
            t.readN (s.pod.spillBase + 32 * s.pod.spills.length) 18 =
              bytesOf 8 ident ++ bytesOf 8 pos ++ bytesOf 1 m ++ bytesOf 1 (if m = 0xFF then 2 else 1))) ∧
      ∀ c, s.collOf ident = some c → s.coll c.id = some c →
        let i := identIndex ident
        let one := identStep ident = 1
        let n := if c.isPart = true ∧ one then c.elems * 48 else c.chunk
        let b := s.readPhys c.ctx (modPpa m pos) n
        let tr := s.readPhys c.ctx (modPpa m pos + n) 64
        let status := fieldOf tr.1 16 4 / 2 ^ 24
        let freed := fun t : State => (t.module m).slots = (s.module m).slots.filter (fun x => x.ident != slotKey ident)
        let sound := tr.2 = false ∧ (status = stDone → fieldOf tr.1 8 8 = chunkCksum c.wire c.elems (c.isPart && one) b.1 ∧ b.2 = false)
        (one → (i, m) ∈ c.step1 → status = stDone → sound → ∃ t, exec .slotNotification s = .next t ∧ freed t ∧
          t.coll c.id = some (c.passStep1 i m ((s.portOf m).getD 15))) ∧
        (¬ one → i ∈ c.step2 → status = stDone → sound → ∃ t, exec .slotNotification s = .next t ∧ freed t ∧
          t.coll c.id = some { c with step2 := c.step2.filter (fun x => x != i), toOwn := insertNat i c.toOwn }) ∧
        (¬ one → i ∈ c.step2 → status ≠ stDone → sound → ∃ t, exec .slotNotification s = .next t ∧ freed t ∧
          t.coll c.id = some (c.ownerFail i (status == stLinkLost))) ∧
        ((one ∧ (i, m) ∈ c.step1) ∨ (¬ one ∧ i ∈ c.step2) → ¬ sound → ∃ t, exec .slotNotification s = .next t ∧ freed t ∧
          t.coll c.id = some (c.ownerFail i false)) ∧
        (identStep ident ≠ 0 → i ∈ c.toGet → (∀ x ∈ c.ready, x.1 ≠ i) → ∃ t, exec .readyNotification s = .next t ∧
          t = { s with pod := { s.pod with colls := t.pod.colls } } ∧ t.coll c.id = some { c with ready := c.ready ++ [(i, m, pos)] }) ∧
        (identStep ident ≠ 0 → i ∉ c.toGet → exec .readyNotification s = .next s))

/-- Reductions in modules, and collectives in packages. -/
def Obligations.CollectiveProgress : Prop := moduleReductionsClaim ∧ collectiveProgressClaim

/-! ## Translation: faults, invalidation, migration -/

/-- The one part of the one operation outstanding, an access of a warp, which entry `tag` holds. -/
def Sys2Proof.Claims.onePart (s : State) (o : Op) (p : Part) (b : AccessBody) (g w tag : Nat) : Prop :=
  s.ops = [o] ∧ o.parts = [p] ∧ o.body = .access b ∧ o.owner = .warp g w ∧ o.park = none ∧ p.state = .parked tag ∧
    s.host.windows = [] ∧ s.graph.nodes = []

/-- 04 R131, R133, R134, R135, Tables 4-7, 4-9: the pending-fault table. Replaying an entry frees its tag,
and an access that it held is translated again: it waits to be performed, or parks anew; failing it completes the access unperformed,
reported as FATAL_FAULT; a word that waits on its own record goes on, or fails with the entry's code. Entries are posted in the order of their
allocation while the ring has room, MIGRATING ones never. A full table holds accesses back until an entry is free. -/
def Sys2Proof.Claims.faultTableClaim : Prop :=
  ∀ (s : State),
    (∀ (data : List Byte) (e : Pend), s.arg = .write 0 0x234 data → heeds s → data.length = 4 →
      s.xlat.pend.find? (fun p => p.tag == ofBytes data % 1024) = some e →
      let action := ofBytes data / 2 ^ 30
      let free := { s with xlat := { s.xlat with pend := s.xlat.pend.filter (fun p => p.tag != e.tag) } }
      (action = 0 → ∃ t, exec .fqreplayReplay s = .next t ∧ (∀ r ∈ t.recPark, r.2 ≠ e.tag) ∧
        (∀ w ∈ t.warps, w.2.wordTag ≠ some e.tag) ∧ (∀ w ∈ t.host.windows, w.tag ≠ some e.tag) ∧ (∀ n ∈ t.graph.nodes, n.park ≠ some e.tag) ∧
        (s.ops = [] → t.xlat = free.xlat ∧ t.recPark = s.recPark.filter (fun r => r.2 != e.tag) ∧
          ∀ k, Map.get {} t.warps k = if (Map.get ({} : Warp) s.warps k).wordTag = some e.tag then
            { Map.get ({} : Warp) s.warps k with wordTag := none, stall := .none } else Map.get {} s.warps k) ∧
        ∀ o p b g w r u, onePart s o p b g w e.tag →
          free.translate (s.groupAt g).ctx p.addr b.kind.acc b.bytes (b.kind.acc == .atomic) = (r, u) →
          (∀ place ord ha tlb, r = .ok place ord ha tlb →
            t.ops = [{ o with parts := [{ p with place := place, ord := ord, ha := ha, tlb := tlb, state := .waiting }] }] ∧ t.xlat = u.xlat) ∧
          (∀ code ppa, r = .park code ppa → (u.park (s.groupAt g).ctx p.addr code ppa b.kind.acc 0).1 = some e.tag →
            t.ops = [{ o with parts := [{ p with ord := u.ordAt (s.groupAt g).ctx p.addr, state := .parked e.tag }] }])) ∧
      (action = 1 → ∃ t, exec .fqreplayFail s = .next t ∧ (∀ p ∈ t.xlat.pend, p.tag ≠ e.tag) ∧
        (s.ops = [] → s.host.windows = [] → s.graph.nodes = [] → t.xlat = free.xlat ∧
          t.recFailed = s.recFailed ++ (s.recPark.filter (fun r => r.2 == e.tag)).map (fun r => r.1) ∧
          ∀ k, Map.get {} t.warps k = if (Map.get ({} : Warp) s.warps k).wordTag = some e.tag then
            { Map.get ({} : Warp) s.warps k with wordTag := none, wordFailed := some e.code, stall := .none } else Map.get {} s.warps k) ∧
        ∀ o p b g w, onePart s o p b g w e.tag → (s.warpAt g w).wordTag ≠ some e.tag → (s.warpAt g w).reports = [] →
          t.ops = [{ o with parts := [{ p with state := .failed }] }] ∧
          (t.warpAt g w).reports = [{ order := o.id, flag := o.flag, cause := 0x08, addr := p.addr,
                                      mask := some (if b.uniform then o.emask else 1#32 <<< p.lane),
                                      info := BitVec.ofNat 32 (b.space + 16 * b.kind.acc.code), tier := e.code == 0x22 }])) ∧
    ((s.nextPost = none ∨ s.fqRoom = false → exec .faultQueuePost s = .next s) ∧
      ∀ e, s.nextPost = some e → s.fqRoom = true → s.xlat.dirtyEn = false → ∃ t, exec .faultQueuePost s = .next t ∧
        let at' := s.xlat.fqBase + 32 * (s.xlat.fqTail.toNat % 2 ^ s.xlat.fqLogcap)
        t.xlat = { s.xlat with fqTail := s.xlat.fqTail + 1,
                               pend := s.xlat.pend.map (fun p => if p.tag = e.tag then { p with posted := true } else p) } ∧
        t.readN at' 24 = bytesOf 1 e.code ++ bytesOf 1 e.access ++ bytesOf 2 e.tag ++ bytesOf 2 e.ctx ++ bytesOf 1 e.glade ++
          bytesOf 1 e.agent ++ bytesOf 8 e.va ++ bytesOf 8 (if e.code ∈ [0x22, 0x23, 0x24] then e.ppa else 0) ∧
        (∀ a, a < at' ∨ at' + 32 ≤ a → Map.get 0 t.mem a = Map.get 0 s.mem a) ∧ irqFault ∈ t.host.aplic ∧
        (t.ops, t.warps, t.groups) = (s.ops, s.warps, s.groups)) ∧
    ∀ id, s.arg = .unit id →
      (s.op id = none ∨ 1024 ≤ s.xlat.pend.length → exec .parkedAccessAdmit s = .next s) ∧
      ∀ o p b g w c place ord ha tlb u, s.op id = some o → s.xlat.pend.length < 1024 → s.ops = [o] → o.parts = [p] →
        o.body = .access b → o.owner = .warp g w → p.state = .queued c → c ≠ 0 →
        s.translate (s.groupAt g).ctx p.addr b.kind.acc b.bytes (b.kind.acc == .atomic) = (.ok place ord ha tlb, u) →
        ∃ t, exec .parkedAccessAdmit s = .next t ∧
          t.ops = [{ o with parts := [{ p with place := place, ord := ord, ha := ha, tlb := tlb, state := .waiting }] }]

/-- 04 R118, R136, R137, R513: TLBINV takes its fields and is BUSY until no access that has yet to be performed was
translated through an entry that it covers; a write while BUSY, or of scope 3, is dropped. DIRTYCTL switches the active bitmap while no
drain runs; the drain ends. CLR of SBRMCTL drops a buffer's entries that are not parked. -/
def Sys2Proof.Claims.invalidationsClaim : Prop :=
  ∀ (s : State),
    (∀ data : List Byte, s.arg = .write 0 0x240 data → heeds s → data.length = 8 →
      let v := ofBytes data
      let scope := v / 2 ^ 10 % 4
      let ctx := v / 2 ^ 16 % 2 ^ 12
      let vpn := v / 2 ^ 28
      let hit := fun (e : TlbEntry) => scope = 0 ∨ (e.ctx = ctx ∧ (scope = 1 ∨ (e.base ≤ 4096 * vpn ∧ 4096 * vpn < e.base + 2 ^ e.log)))
      (s.xlat.invBusy = true ∨ scope = 3 → exec .tlbinvStart s = .next s) ∧
      (s.xlat.invBusy = false → scope ≠ 3 → ∃ t, exec .tlbinvStart s = .next t ∧
        t = { s with xlat := { s.xlat with invVpn := vpn, invCtx := ctx, invScope := scope, invBusy := true, tlb := t.xlat.tlb } } ∧
        t.xlat.tlb.length = s.xlat.tlb.length ∧
        ∀ (k : Nat) (e : TlbEntry), s.xlat.tlb[k]? = some e → ∃ e', t.xlat.tlb[k]? = some e' ∧
          (hit e → e' = { e with dying := true }) ∧ (¬ hit e → e' = e))) ∧
    (let dying := (s.xlat.tlb.filter (fun e => e.dying)).map (fun e => e.id);
      (s.xlat.invBusy = false ∨ s.tlbUsed dying = true → exec .tlbinvDone s = .next s) ∧
      (s.xlat.invBusy = true → s.tlbUsed dying = false → exec .tlbinvDone s =
        .next { s with xlat := { s.xlat with invBusy := false, tlb := s.xlat.tlb.filter (fun e => !e.dying) } })) ∧
    (∀ data : List Byte, s.arg = .write 0 0x238 data → heeds s → data.length = 4 →
      let v := ofBytes data
      exec .dirtySwitch s = .next (if s.xlat.dirtyDrain = true ∨ s.xlat.dirtySel = bitOf v 1 then
          { s with xlat := { s.xlat with dirtyEn := bitOf v 2 } }
        else { s with xlat := { s.xlat with dirtyEn := bitOf v 2, dirtySel := bitOf v 1, dirtyDrain := true } })) ∧
    exec .dirtyDrainDone s = .next { s with xlat := { s.xlat with dirtyDrain := false } } ∧
    ∀ data : List Byte, s.arg = .write 0 0x248 data → heeds s → data.length = 4 →
      exec .sbrmctlClr s = .next (if bitOf (ofBytes data) 15 then
        { s with xlat := { s.xlat with remap := s.xlat.remap.filter (fun r => r.sbid != ofBytes data % 4096 || r.park) } } else s)

/-- Parked accesses and invalidations. -/
def Obligations.FaultTable : Prop := faultTableClaim ∧ invalidationsClaim

/-- The heat of a leaf after a scan (04 R124): halved, 4 more if A was set; A is cleared. -/
def Sys2Proof.Claims.cooled (e : Nat) : Nat := e - e / 2 ^ 8 % 16 * 2 ^ 8 + (e / 2 ^ 9 % 8 / 2 + (if bitOf e 8 then 4 else 0)) * 2 ^ 9

/-- A migration command of one opcode at the head of the queue, at its start. -/
def Sys2Proof.Claims.atHead (s : State) (c : MigCmd) (op : Nat) (rest : List MigCmd) : Prop :=
  s.arg = .none ∧ s.xlat.mig = c :: rest ∧ c.stage = .start ∧ c.op = op ∧ s.xlat.dirtyEn = false

/-- What a migration command's end leaves: it is gone from the queue, its status word says how it ended, its interrupt is
raised. The count of pages is stated where its field can hold it (the rest is free: log 1). -/
def Sys2Proof.Claims.migEnded (t : State) (c : MigCmd) (rest : List MigCmd) (code n : Nat) : Prop :=
  t.xlat.mig = rest ∧ irqMigration ∈ t.host.aplic ∧
    ∃ k, k < 2 ^ 24 ∧ (n < 2 ^ 24 → k = n) ∧ t.readN c.completion 4 = bytesOf 4 (code * 2 ^ 24 + k)

/-- 04 R123 to R127, Table 4-8: heat scans and migration. A scan ages each leaf of the contexts that ask for it. MOVE, MOVESB and
EVICT park the leaf, or the remap entry, of a legal page, and wait until the accesses through it are
performed; then, for MOVE, the page is copied and its leaf leads to the copy; a command with nothing legal to do ends with FAULT; EVICT ends after its count. -/
def Obligations.Migration : Prop :=
  ∀ (s : State),
    (s.xlat.migEn = false → exec .heatScan s = .next s) ∧
    (∀ c, s.xlat.migEn = true → s.xlat.dirtyEn = false → c < 4096 →
      (∀ x, x < 4096 → ((s.ctxValid x && s.ctxFlag x 2) = true ↔ x = c)) →
      (s.leavesOf c).Pairwise (fun a b => a.1 + 8 ≤ b.1 ∨ b.1 + 8 ≤ a.1) → ∃ t, exec .heatScan s = .next t ∧
        (∀ l, l ∈ s.leavesOf c → s.poisoned l.1 8 = false → t.readN l.1 8 = bytesOf 8 (cooled l.2.2.2)) ∧
        (∀ a, (∀ l, l ∈ s.leavesOf c → s.poisoned l.1 8 = false → a < l.1 ∨ l.1 + 8 ≤ a) → Map.get 0 t.mem a = Map.get 0 s.mem a) ∧
        (t.ops, t.warps, t.groups, t.plots) = (s.ops, s.warps, s.groups, s.plots)) ∧
    (∀ c rest, atHead s c 1 rest → (s.ctxValid c.ctx = false ∨ 2 ^ 48 ≤ c.va → ∃ t, exec .move s = .next t ∧ migEnded t c rest 0x10 c.moved) ∧
      ∀ at' log e, s.ctxValid c.ctx = true → c.va < 2 ^ 48 → s.walk c.ctx c.va = .leaf at' log e →
        (leafBad e log = false → leafSv e = 0 → leafPark e = 0 → s.poisoned at' 8 = false → s.firebreak (leafPpa e) = false →
          s.migDest c.dst log = true → ∃ t, exec .move s = .next t ∧
          t.readN at' 8 = bytesOf 8 (e + 2 ^ 60) ∧ t.xlat.mig = { c with stage := .drain, leafAt := at', log := log, src := leafPpa e,
                                                                         dest := c.dst, curCtx := c.ctx, curVa := c.va / 2 ^ log * 2 ^ log, pos := 0 } :: rest ∧
          ∀ x ∈ t.xlat.tlb, x.ctx = c.ctx → x.base ≤ c.va / 4096 * 4096 → c.va / 4096 * 4096 < x.base + 2 ^ x.log → x.dying = true) ∧
        (leafPark e ≠ 0 ∨ s.poisoned at' 8 = true ∨ s.firebreak (leafPpa e) = true ∨ s.migDest c.dst log = false → ∃ t, exec .move s = .next t ∧ migEnded t c rest 0x10 c.moved)) ∧
    (∀ c rest, atHead s c 2 rest →
      let r := s.remapOf c.sbid c.side c.va
      let home := s.read64 (s.sbt c.sbid + 8 * c.side) % 2 ^ 60 / 4096 * 4096 + c.va * 4096
      let ok := s.migDest c.dst 12 = true ∧ s.poisoned (s.sbt c.sbid) 32 = false ∧ s.sbValid c.sbid = true ∧ c.va < s.sbPages c.sbid ∧ (∀ x, r = some x → x.park = false) ∧
        (r = none → s.xlat.remap.length < 4096)
      (ok → ∃ t, exec .movesb s = .next t ∧ t = { s with xlat := { s.xlat with mig := t.xlat.mig, remap := t.xlat.remap } } ∧
        t.xlat.mig = { c with stage := .drain, log := 12, dest := c.dst, pos := 0, src := (r.map (fun x => x.ppa)).getD home } :: rest ∧
        t.remapOf c.sbid c.side c.va = some ⟨c.sbid, c.side, c.va, (r.map (fun x => x.ppa)).getD home, true⟩) ∧
      (¬ ok → ∃ t, exec .movesb s = .next t ∧ migEnded t c rest 0x10 c.moved)) ∧
    (∀ c rest, atHead s c 3 rest →
      (hbmOk c.dst = false ∨ c.dst % 8 ≠ 0 → ∃ t, exec .evict s = .next t ∧ migEnded t c rest 0x10 c.moved) ∧
      (hbmOk c.dst = true → c.dst % 8 = 0 → c.count ≤ c.moved ∨ s.coldest c.glade = none →
        ∃ t, exec .evict s = .next t ∧ migEnded t c rest 0 c.moved) ∧
      ∀ heat ctx at' va e, hbmOk c.dst = true → c.dst % 8 = 0 → c.moved < c.count → s.coldest c.glade = some (heat, ctx, at', va, e) →
        let dest := s.read64 (c.dst + 8 * c.moved)
        s.poisoned (c.dst + 8 * c.moved) 8 = false → s.poisoned at' 8 = false → s.firebreak (leafPpa e) = false → s.migDest dest 12 = true → ∃ t, exec .evict s = .next t ∧
          t.xlat.mig = { c with stage := .drain, leafAt := at', log := 12, src := leafPpa e, dest := dest, curCtx := ctx,
                                curVa := va / 4096 * 4096, pos := 0 } :: rest) ∧
    ∀ c rest, s.xlat.mig = c :: rest →
      (c.stage ≠ .drain ∨ s.migDrained c = false → exec .migrationDrainDone s = .next s) ∧
      (c.stage = .drain → s.migDrained c = true →
        exec .migrationDrainDone s = .next { s with xlat := { s.xlat with mig := { c with stage := .copy } :: rest } }) ∧
      (c.stage ≠ .copy → exec .migrationCopyDone s = .next s) ∧
      (c.stage = .copy → c.op = 1 → s.tlbUsed (s.migReads c) = false → ppaKind c.src ∈ [0, 3] → ppaKind c.dest ∈ [0, 3] → 6 ≤ c.log → c.dest % 64 = 0 →
        s.poisoned c.leafAt 8 = false → s.xlat.dirtyEn = false → s.xlat.pend = [] →
        c.leafAt + 8 ≤ c.dest ∨ c.dest + 2 ^ c.log ≤ c.leafAt → c.completion + 4 ≤ c.leafAt ∨ c.leafAt + 8 ≤ c.completion →
        c.completion + 4 ≤ c.dest ∨ c.dest + 2 ^ c.log ≤ c.completion → ∃ t, exec .migrationCopyDone s = .next t ∧
          migEnded t c rest 0 (c.moved + 1) ∧ (∀ i, i < 2 ^ c.log → Map.get 0 t.mem (c.dest + i) = Map.get 0 s.mem (c.src + i)) ∧
          t.readN c.leafAt 8 = bytesOf 8 ((setPark (s.read64 c.leafAt) 0) % 2 ^ 12 + s.read64 c.leafAt / 2 ^ 62 * 2 ^ 62 + c.dest) ∧
          (∀ x ∈ t.xlat.tlb, x.ctx = c.curCtx → x.base ≤ c.curVa → x.base + 2 ^ x.log ≤ c.curVa) ∧
          (t.ops, t.warps, t.groups, t.plots) = (s.ops, s.warps, s.groups, s.plots))

/-! ## The host interface -/

/-- FNCFG of function `f` written with the 64-bit value v (05 Table 5-5). -/
def Sys2Proof.Claims.cfgWritten (s : State) (f v : Nat) : Prop :=
  ∃ data : List Byte, s.arg = .write 0 (0x2000 + 16 * f) data ∧ heeds s ∧ data.length = 8 ∧ ofBytes data = v

/-- The FNCFG interrupt of the service cluster is raised (05 R173): the APLIC holds it and counts it, and it is pending in the IMSIC
that software has named. -/
def Sys2Proof.Claims.noted (s : State) : State :=
  let h := Config.aplicTarget irqFncfg
  let x := Map.get {} s.host.harts (h.1 % 16)
  { s with host := { s.host with
      aplic := insertNat irqFncfg s.host.aplic, raised := Map.set 0 s.host.raised irqFncfg (Map.get 0 s.host.raised irqFncfg + 1),
      harts := Map.set {} s.host.harts (h.1 % 16) { x with imsic := insertNat h.2 x.imsic } } }

/-- The first line of 05 R165: 96 bits of REFCNT × TSSCALE / 2^32, plus TSOFF. -/
def Sys2Proof.Claims.timeOf (x : Func) (now : Nat) : Nat := (now % 2 ^ 64 * x.tsscale / 2 ^ 32 % 2 ^ 96 + x.tsoff) % 2 ^ 64

/-- After a posting or an unmasking that may interrupt (05 R161): nothing while the function is paused; held back while an
interval of MOD runs, or pending while the vector is masked; else the message goes, and an interval starts if MOD is set. -/
def Sys2Proof.Claims.messaged (s : State) (f : Nat) (x : Func) : State :=
  if x.pause then s
  else if x.modRunning then s.setFn f { x with suppressed := true }
  else if x.masked then s.setFn f { x with pendingMsi := true }
  else { s.setFn f { x with modRunning := decide (x.ilmod ≠ 0) } with outbox := s.outbox ++ [{ kind := .msix, words := [f] }] }

/-- 05 R155 to R158, R161, R165, R166, R173: functions. A write of FNCFG raises its interrupt; enabling a function takes NQ, QBASE
and its glades, unless they clash or the plots are not scrubbed; disabling it resets it; PAUSE latches the timestamp, and clearing it with TSFRZ
set takes the paused time off TSOFF. A reset starts a new generation of an empty log, drops the records not taken, and ends with its
entry. A timestamp never goes back. MSI-X messages held back go when the interval ends or the vector is unmasked. -/
def Sys2Proof.Claims.functionsClaim : Prop :=
  ∀ (s : State) (f : Nat),
    let x := s.fn f
    (∀ v, cfgWritten s f v → f ≤ 64 → x.en = false → bitOf v 31 = true → f ≠ 0 → x.pause = bitOf v 30 →
      (s.cfgClash f v = true ∨ (s.boot.phase ≠ .ready ∧ s.boot.phase ≠ .done) → exec .fncfgEnable s = .next (noted s)) ∧
      (s.cfgClash f v = false → s.boot.phase = .ready ∨ s.boot.phase = .done → exec .fncfgEnable s = .next ((noted s).setFn f { x with
        en := true, nq := v % 2 ^ 9, qbase := v / 2 ^ 16 % 2 ^ 12, glades := v / 2 ^ 32, tsfrz := bitOf v 29 }))) ∧
    (∀ v, cfgWritten s f v → f ≤ 64 → x.en = true → bitOf v 31 = false → f ≠ 0 → x.pause = bitOf v 30 →
      exec .fncfgDisable s = .next (((noted s).setFn f { x with en := false, tsfrz := bitOf v 29 }).resetFn f)) ∧
    (∀ v, cfgWritten s f v → f ≤ 64 → x.pause = false → bitOf v 30 = true → (x.en = bitOf v 31 ∧ f ≠ 0) → s.groups = [] →
      ∃ t, exec .fncfgPause s = .next t ∧ (t.fn f).pause = true ∧ (t.fn f).tsfrz = bitOf v 29 ∧ (t.fn f).tspause = (t.fn f).tslast ∧
        (t.fn f).tslast = max x.tslast (timeOf x t.now) ∧ irqFncfg ∈ t.host.aplic) ∧
    (∀ v, cfgWritten s f v → f ≤ 64 → x.pause = true → bitOf v 30 = false → (x.en = bitOf v 31 ∧ f ≠ 0) → x.iltail = x.ilhead →
      ∃ t, exec .fncfgUnpause s = .next t ∧ (t.fn f).pause = false ∧ irqFncfg ∈ t.host.aplic ∧
        (t.fn f).tsoff = if bitOf v 29 then (x.tsoff + 2 ^ 64 - (timeOf x t.now + 2 ^ 64 - x.tspause) % 2 ^ 64) % 2 ^ 64 else x.tsoff) ∧
    (s.arg = .unit f →
      (64 < f → exec .functionLevelReset s = .next s) ∧
      (f ≤ 64 → (∀ n ∈ s.graph.nodes, n.fn ≠ f) → ∃ t, exec .functionLevelReset s = .next t ∧
        t.fn f = { x with ilgen := (x.ilgen + 1) % 2 ^ 32, ilhead := 0, iltail := 0, illost := 0, resetting := true } ∧
        (∀ r, r ∈ t.host.intake ↔ r ∈ s.host.intake ∧ r.1 ∉ (s.setFn f (t.fn f)).qctxsOf f) ∧ t.graph = s.graph ∧ t.mem = s.mem ∧
        (t.ops, t.warps, t.groups) = (s.ops, s.warps, s.groups)) ∧
      (x.resetting = false ∨ s.resetOver f = false → exec .flrComplete s = .next s) ∧
      (x.resetting = true → s.resetOver f = true →
        exec .flrComplete s = .next ((s.setFn f { x with resetting := false }).post f 6 0 0 0)) ∧
      (∃ t, exec .tstampRead s = .next t ∧ t = { s with host := { s.host with fns := t.host.fns }, now := t.now, tick := s.tick + 1 } ∧
        s.now ≤ t.now ∧ (∀ j, j ≠ f → t.fn j = s.fn j) ∧
        t.fn f = { x with tslast := max x.tslast (if x.pause = true ∧ x.tsfrz = true then x.tspause else timeOf x t.now) }) ∧
      (∃ t, exec .msixModerationExpiry s = .next t ∧ ∃ u, (∀ j, u.fn j = if j = f then { x with modRunning := false, suppressed := false } else s.fn j) ∧
        u = { s with host := { s.host with fns := u.host.fns } } ∧
        t = if x.suppressed = true ∧ x.iltail ≠ x.ilhead then messaged u f (u.fn f) else u) ∧
      ∃ t, exec .msixVectorUnmask s = .next t ∧ ∃ u, (∀ j, u.fn j = if j = f then { x with masked := false, pendingMsi := false } else s.fn j) ∧
        u = { s with host := { s.host with fns := u.host.fns } } ∧ t = if x.pendingMsi then messaged u f (u.fn f) else u)

/-- Registers of the PF control window whose 4-byte write does nothing but change fields of its unit: offset and effect
(05 Table 5-6, 06 Tables 6-8 to 6-10, 07 Table 7-2; 01 Table 1-10). -/
def Sys2Proof.Claims.plainRegisters : List (Nat × (State → Nat → State)) :=
  [(0x18, fun s v => { s with power := { s.power with trip := s.power.trip && !bitOf v 8 } }),
   (0x22C, fun s v => { s with xlat := { s.xlat with fqHead := BitVec.ofNat 32 v } }),
   (0x23C, fun s v => { s with xlat := { s.xlat with migEn := bitOf v 31, migEpoch := max 100 (v % 2 ^ 20) } }),
   (0x264, fun s v => { s with host := { s.host with svcHead := v } }),
   (0x300, fun s v => { s with graph := { s.graph with reswait := v / 2 ^ 16, agestep := max 1 (v % 2 ^ 16) } }),
   (0x304, fun s v => { s with graph := { s.graph with limit := v / 2 ^ 16, remedy := max 1 (v % 2 ^ 16) } }),
   (0x680, fun s v => { s with savens := max 1 (v % 2 ^ 16) }),
   (0x24, fun s _ => s), (0x0, fun s _ => s), (0x9FF0, fun s _ => s)]

/-- 05 R142, R143, R147, R159; 01 R28, Table 1-8: control windows. A transaction that does not reach a window, a write of another
size, or out of place, is dropped, as is one to a read-only register; a halted device takes only RSTCTL; a read waits until its
requester's earlier posted writes have been performed, and is then answered; a read of BOOTSTAT shows it. -/
def Sys2Proof.Claims.controlWindowsClaim : Prop :=
  ∀ (s : State),
    (∀ fn off (data : List Byte), s.arg = .write fn off data →
      (64 < fn ∨ data = [] ∨ (if fn = 0 then 524288 else 131072) < off + data.length ∨ 512 < data.length →
        exec .controlWindowWrite s = .next s) ∧
      (¬ heeds s → fn = 0 → off = 8 → data.length = 4 ∨ data.length = 8 →
        exec .controlWindowWrite s = .next (s.rstctl (ofBytes (data.take 4)))) ∧
      (¬ heeds s → ¬ (fn = 0 ∧ off = 8 ∧ (data.length = 4 ∨ data.length = 8)) → exec .controlWindowWrite s = .next s) ∧
      (heeds s → data.length ∉ [4, 8, 64] ∨ (data.length ≠ 64 ∧ off % data.length ≠ 0) → exec .controlWindowWrite s = .next s) ∧
      (heeds s → fn ≠ 0 → data.length = 4 → off < 0x10000 → exec .controlWindowWrite s = .next s) ∧
      (∀ r ∈ plainRegisters, fn = 0 → off = r.1 → data.length = 4 → heeds s →
        exec .controlWindowWrite s = .next (r.2 s (ofBytes data))) ∧
      (heeds s → fn ≤ 64 → off = 0x10014 → data.length = 4 →
        exec .controlWindowWrite s = .next (s.setFn fn { s.fn fn with ilhead := ofBytes data }))) ∧
    ∀ fn req off n, s.arg = .read fn req off n →
      let reached := fn ≤ 64 ∧ n ≠ 0 ∧ off + n ≤ (if fn = 0 then 524288 else 131072) ∧ n ≤ 4096
      let clear := s.postedBefore req s.host.nextWin = false
      let said := fun (status : Nat) (b : List Byte) => s.outbox ++ [({ kind := .completion, words := [fn, req, status, 0], data := b } : Sent)]
      (¬ reached → exec .tstampRead s = .next s) ∧
      (reached → ¬ clear → exec .tstampRead s = .next { s with inbox := s.inbox ++ [(.tstampRead, s.arg)] }) ∧
      (reached → clear → n ≠ 4 ∧ n ≠ 8 ∨ off % n ≠ 0 → exec .tstampRead s = .next { s with outbox := said 1 [] }) ∧
      (reached → clear → ¬ heeds s → n = 4 → off % 4 = 0 →
        exec .tstampRead s = .next { s with outbox := said 0 (bytesOf 4 (if fn = 0 ∧ off = 0 then s.boot.stat else 0)) }) ∧
      (clear → heeds s → fn = 0 → off = 0 → n = 4 → exec .tstampRead s = .next { s with outbox := said 0 (bytesOf 4 s.boot.stat) })

/-- A hart's oldest access, tried now: it has just been made and no earlier one waits, or it waits and is tried again. -/
def Sys2Proof.Claims.hartRuns (s : State) (h pc ilen va rd len kind aop : Nat) (data : List Byte) (rest : List EventArg) : Prop :=
  let me : EventArg := .hart h pc ilen va rd len kind aop data
  hartLegal len kind aop = true ∧ (∀ e ∈ s.pod.ext, e.kind ≠ .hart h) ∧
    ((s.arg = .unit h ∧ (s.hart h).busy = me :: rest) ∨
     (s.arg = me ∧ h < 16 ∧ (h = 0 ∨ s.boot.hartsStarted = true) ∧ (s.hart h).busy = [] ∧ rest = []))

/-- Of the device, one hart's registers have changed, and of the rest nothing. -/
def Sys2Proof.Claims.hartEnds (s t : State) (h : Nat) (x : Hart) : Prop :=
  t = { s with host := { s.host with harts := t.host.harts } } ∧ ∀ k, t.hart k = if k = h then x else s.hart k

/-- 05 R170 to R172, Table 5-10: an access of a service hart. A misaligned one, one that its page tables do not allow, one to a
reserved page of the address map or to an address that the package does not have, and a read of poison, are exceptions of the hart,
which takes them (the numbers of the causes are RISC-V's: log 80). Otherwise the hart goes on after its instruction: a load or an AMO
has its register, a store its bytes; a local device reads as free bytes; the control window is read and written; a FENCE ends once the
host pages that the hart wrote are flushed. -/
def Sys2Proof.Claims.hartAccessClaim : Prop :=
  ∀ (s : State) (h pc ilen va rd len kind aop : Nat) (data : List Byte) (rest : List EventArg),
    (s.arg = .hart h pc ilen va rd len kind aop data →
      (16 ≤ h ∨ (h ≠ 0 ∧ s.boot.hartsStarted = false) ∨ hartLegal len kind aop = false → exec .hartAccess s = .next s) ∧
      (h < 16 → h = 0 ∨ s.boot.hartsStarted = true → hartLegal len kind aop = true → (s.hart h).busy ≠ [] →
        ∃ t, exec .hartAccess s = .next t ∧ hartEnds s t h { s.hart h with busy := (s.hart h).busy ++ [s.arg] })) ∧
    (hartRuns s h pc ilen va rd len kind aop data rest →
      let x := s.hart h
      let me : EventArg := .hart h pc ilen va rd len kind aop data
      let w := kind = 1 ∨ kind = 2
      let after := fun (y : Hart) (v : Nat) =>
        { (if kind = 1 ∨ kind = 3 then y else y.write rd (hartValue rd len kind v)) with pc := BitVec.ofNat 64 (pc + ilen), busy := rest }
      let takes := fun (y : Hart) (cause gpa : Nat) => { y.take pc cause va gpa with busy := rest }
      let dirty := ∃ d ∈ s.hostDirty, d.1 = hartKey h
      (kind = 3 → ¬ dirty → s.flushing (hartKey h) = false → ∃ t, exec .hartAccess s = .next t ∧ hartEnds s t h (after x 0)) ∧
      (kind = 3 → dirty ∨ s.flushing (hartKey h) = true → ∃ t, exec .hartAccess s = .next t ∧ t.hart h = { x with busy := me :: rest }) ∧
      (kind ≠ 3 → va % len ≠ 0 → ∃ t, exec .hartAccess s = .next t ∧ hartEnds s t h (takes x (if w then 6 else 4) 0)) ∧
      (kind ≠ 3 → va % len = 0 → ∀ c g, s.hartXlat x va (decide w) = .fault c g →
        ∃ t, exec .hartAccess s = .next t ∧ hartEnds s t h (takes x c g)) ∧
      ∀ a, kind ≠ 3 → va % len = 0 → s.hartXlat x va (decide w) = .ok a →
        let at' := if a / 2 ^ 52 = 1 then a % 2 ^ 39 else 3 * 2 ^ 57 + a % 2 ^ 26
        let mine := a / 2 ^ 52 = 1 ∨ a / 2 ^ 52 = 2
        (6 ≤ a / 2 ^ 52 ∨ (mine ∧ s.hartHole at' = true) →
          ∃ t, exec .hartAccess s = .next t ∧ hartEnds s t h (takes x (if w then 7 else 5) 0)) ∧
        (a / 2 ^ 52 = 0 → ∃ t, exec .hartAccess s = .next t ∧ hartEnds { s with tick := s.tick + len } t h
          (after x (ofBytes ((List.range len).map (fun i => Config.freeByte (s.tick + i)))))) ∧
        (a / 2 ^ 52 = 3 → ∃ u, hartEnds s u h { x with busy := me :: rest } ∧
          (kind = 1 → let v := u.ctlWrite 0 (a % 2 ^ 32) (data.take len)
            ((v.hart h).busy = me :: rest → exec .hartAccess s = .next (v.setHart h (after (v.hart h) 0))) ∧
            ((v.hart h).busy = [] → exec .hartAccess s = .next v)) ∧
          (∀ b v, kind = 0 ∨ kind = 4 → u.ctlRead 0 (a % 2 ^ 32) len = (b, v) → (v.hart h).busy = me :: rest →
            exec .hartAccess s = .next (v.setHart h (match b with
              | some n => after (v.hart h) (ofBytes ((bytesOf len n).take len))
              | none => takes (v.hart h) 5 0)))) ∧
        (mine → s.hartHole at' = false → s.l2 = [] → s.latent = [] → s.pod.sealed = [] →
          let old := s.readN at' len
          let poisoned := s.poisoned at' len = true
          (kind = 0 ∨ kind = 4 → ∃ t, exec .hartAccess s = .next t ∧ t.mem = s.mem ∧
            (t.ops, t.warps, t.groups, t.outbox) = (s.ops, s.warps, s.groups, s.outbox) ∧
            t.hart h = if poisoned then takes x 5 0 else after x (ofBytes (old.take len))) ∧
          (kind = 1 ∨ (kind = 2 ∧ ¬ poisoned) → s.xlat.dirtyEn = false → data.length = len → ∃ t, exec .hartAccess s = .next t ∧
            t.readN at' len = (if kind = 1 then data else bytesOf len (atomicNew aop len (ofBytes old) (ofBytes data) 0)) ∧
            (∀ b, b < at' ∨ at' + len ≤ b → Map.get 0 t.mem b = Map.get 0 s.mem b) ∧
            (t.ops, t.warps, t.groups, t.outbox) = (s.ops, s.warps, s.groups, s.outbox) ∧
            t.hart h = after x (ofBytes (old.take len))) ∧
          (kind = 2 → poisoned → ∃ t, exec .hartAccess s = .next t ∧ t.mem = s.mem ∧ t.hart h = takes x 7 0)))

/-- Functions, their control windows, and the service harts. -/
def Obligations.Functions : Prop := functionsClaim ∧ controlWindowsClaim ∧ hartAccessClaim

/-- The device memory window of a function (05 Table 5-2), and what lies outside it: an access that the link does not bring there
(05 R142, Table 5-1). -/
def Sys2Proof.Claims.windowSize (fn : Nat) : Nat := if fn = 0 then 2 ^ 40 else 2 ^ 36
def Sys2Proof.Claims.windowMissed (fn off n longest : Nat) : Prop := 64 < fn ∨ n = 0 ∨ windowSize fn < off + n ∨ longest < n

/-- A host access that names an aligned line part of a page that its window reaches in local memory. -/
def Sys2Proof.Claims.windowHit (s : State) (fn off n : Nat) (kind : AccKind) (noSeal : Bool) (a : Nat) (u : State) : Prop :=
  let ctx := (s.fn fn).wctx
  let va := (s.fn fn).winbase + off
  fn ≤ 64 ∧ off + n ≤ windowSize fn ∧ 0 < n ∧ va % 64 + n ≤ 64 ∧ (s.fn fn).resetting = false ∧ s.host.windows = [] ∧ s.ctxFn ctx = fn ∧
    (∃ ord ha tlb, s.translate ctx va kind n noSeal = (.ok (.phys a) ord ha tlb, u)) ∧ u.mayReach ctx a noSeal = true ∧ ppaKind a = 0 ∧
    s.l2 = [] ∧ s.latent = [] ∧ s.pod.sealed = [] ∧ s.xlat.dirtyEn = false ∧ u.poisoned a n = false

/-- 05 R144 to R147, R157: host accesses through a window. In local memory a read is completed with the bytes, a write changes
them, an AtomicOp does both; a range past the window does nothing; during the function's reset a read is Unsupported; a parked
access whose time is over is aborted. -/
def Obligations.HostWindows : Prop :=
  ∀ (s : State) (fn req off : Nat),
    let said := fun (status : Nat) (b : List Byte) => s.outbox ++ [({ kind := .completion, words := [fn, req, status, 0], data := b } : Sent)]
    (∀ n, s.arg = .window fn req off n [] →
      (windowMissed fn off n 4096 → exec .hostWindowRead s = .next s) ∧
      (¬ windowMissed fn off n 4096 → (s.fn fn).resetting = true → exec .hostWindowRead s = .next { s with outbox := said 1 [] }) ∧
      ∀ a u, windowHit s fn off n .read false a u → ∃ t, exec .hostWindowRead s = .next t ∧ t.outbox = said 0 (u.readN a n) ∧
        t.host.windows = [] ∧ t.mem = u.mem ∧ (t.ops, t.warps, t.groups) = (s.ops, s.warps, s.groups)) ∧
    (∀ data, s.arg = .window fn req off data.length data →
      (windowMissed fn off data.length 512 ∨ (s.fn fn).resetting = true → exec .hostWindowWrite s = .next s) ∧
      ∀ a u, windowHit s fn off data.length .write false a u → ∃ t, exec .hostWindowWrite s = .next t ∧ t.outbox = s.outbox ∧
        t.host.windows = [] ∧ t.readN a data.length = data ∧
        (∀ b, b < a ∨ a + data.length ≤ b → Map.get 0 t.mem b = Map.get 0 u.mem b) ∧
        (t.ops, t.warps, t.groups) = (s.ops, s.warps, s.groups)) ∧
    (∀ n aop x cmp, s.arg = .windowAtomic fn req off n aop x cmp →
      (pcieAtomic aop n = false ∨ off % n ≠ 0 ∨ windowMissed fn off n 4096 → exec .hostWindowAtomic s = .next s) ∧
      (pcieAtomic aop n = true → off % n = 0 → ¬ windowMissed fn off n 4096 → (s.fn fn).resetting = true →
        exec .hostWindowAtomic s = .next { s with outbox := said 1 [] }) ∧
      ∀ a u, pcieAtomic aop n = true → off % n = 0 → windowHit s fn off n .atomic true a u →
        ∃ t, exec .hostWindowAtomic s = .next t ∧ t.outbox = said 0 (u.readN a n) ∧ t.host.windows = [] ∧
          t.readN a n = bytesOf n (atomicNew aop n (ofBytes (u.readN a n)) x cmp)) ∧
    ∀ id w, s.arg = .unit id → s.host.windows.find? (fun w => w.id == id) = some w →
      (w.tag = none → exec .windowParkTimeout s = .next s) ∧
      ∀ tag, w.tag = some tag → ∃ t, exec .windowParkTimeout s = .next t ∧
        t = (s.failWin w 2 (((s.xlat.pend.find? (fun p => p.tag == tag)).map (fun p => p.code)).getD 0x23)).sweepPend

/-- The header of a record that names a slot of the physical function (05 R149, R150): which queue context takes it. -/
def Sys2Proof.Claims.taken (s : State) (q : Nat) (pasid : Option Nat) : Prop :=
  s.slotOk 0 q pasid = true ∧ q < 4096 ∧ (s.fn 0).resetting = false ∧ s.xlat.dirtyEn = false

/-- An operation of a warp whose work is done, and whose registers still take their results (08 R252). -/
def Sys2Proof.Claims.due (o : Op) (todo : List (Nat × Word)) : Op := { o with parts := [], park := none, queuedCode := none, body := .result todo }

/-- 05 R147 to R151, R154, R173 to R176; 12 R366: records from the host, and the service queue. A whole 64-byte write to a slot
whose context takes it goes to the intake while that has room, else to the spill ring while that has, else it is dropped and counted; a
write that does not reach the window, or to a function that is not enabled or is being reset, does nothing, and one that is no whole record
posts a QUEUE entry; a read of a slot shows the counts, after its requester's earlier writes. A service record goes into its ring, with
the interrupt, while the ring has room; its reply frees the tag, and the waiting SVC is due its results and its status. -/
def Obligations.Submissions : Prop :=
  ∀ (s : State),
    (∀ q pasid data, s.arg = .submit 0 (64 * q) pasid true data → data.length = 64 → taken s q pasid →
      let at' := s.qctxAt q
      let c := s.qcount q
      let room := (s.intakeOf q).length < 16 ∧ s.host.intake.length < 8192
      let now := fun (t : State) (y : QCount) => (∀ k, t.qcount k = if k = q then y else s.qcount k) ∧
        t.readN (at' + 24) 20 = bytesOf 8 y.accepted ++ bytesOf 4 y.dropped ++ bytesOf 4 y.head ++ bytesOf 4 y.tail
      let y : QCount := { c with accepted := (c.accepted + 1) % 2 ^ 64, behind := s.host.nextWin }
      (s.spilled q = 0 → room → ∃ t, exec .submissionWrite s = .next t ∧ now t y ∧
        t.host = { s.host with intake := s.host.intake ++ [(q, data)], counts := t.host.counts } ∧
        ∀ a, a < at' + 24 ∨ at' + 44 ≤ a → Map.get 0 t.mem a = Map.get 0 s.mem a) ∧
      (¬ (s.spilled q = 0 ∧ room) → s.splog q ≠ 0 → s.spilled q < 2 ^ s.splog q →
        s.spRing q + 64 * 2 ^ s.splog q ≤ at' ∨ at' + 64 ≤ s.spRing q → ∃ t, exec .submissionWrite s = .next t ∧
          t.host = { s.host with counts := t.host.counts } ∧ now t { y with tail := (c.tail + 1) % 2 ^ 32 } ∧
          t.readN (s.spRing q + 64 * (c.tail % 2 ^ s.splog q)) 64 = data) ∧
      (¬ (s.spilled q = 0 ∧ room) → s.splog q = 0 ∨ 2 ^ s.splog q ≤ s.spilled q →
        exec .submissionWrite s = .next ((s.setQcount q { c with dropped := (c.dropped + 1) % 2 ^ 32 }).post 0 2 1 q (fieldOf data 4 4)))) ∧
    (∀ fn off pasid whole (data : List Byte), s.arg = .submit fn off pasid whole data →
      let missed := 64 < fn ∨ data = [] ∨ (if fn = 0 then 262144 else 16384) < off + data.length ∨ 512 < data.length
      (s.fnEn fn = false ∨ (s.fn fn).resetting = true ∨ missed → exec .submissionWrite s = .next s) ∧
      (s.fnEn fn = true → (s.fn fn).resetting = false → ¬ missed → whole = false →
        ∀ q, s.slotQ fn (off / 64) = some q → exec .submissionWrite s = .next (s.post fn 2 2 q 0))) ∧
    (∀ req off q, s.arg = .read 0 req off 8 → off = 64 * q → q < 4096 →
      let c := s.qcount q
      let said := fun (status : Nat) (b : List Byte) => s.outbox ++ [({ kind := .completion, words := [0, req, status, 0], data := b } : Sent)]
      (s.postedBefore req s.host.nextWin = true → exec .submissionWrite s = .next { s with inbox := s.inbox ++ [(.submissionWrite, s.arg)] }) ∧
      (s.postedBefore req s.host.nextWin = false → (s.fn 0).resetting = true → exec .submissionWrite s = .next { s with outbox := said 1 [] }) ∧
      (s.postedBefore req s.host.nextWin = false → (s.fn 0).resetting = false →
        exec .submissionWrite s = .next { s with outbox := said 0 (bytesOf 8 (c.accepted % 2 ^ 32 + c.dropped * 2 ^ 32)) })) ∧
    (s.host.svcWait = [] ∨ s.svcRoom = false → exec .serviceQueuePost s = .next s) ∧
    (∀ b rest, s.host.svcWait = b :: rest → s.svcRoom = true → b.length = 64 → s.xlat.dirtyEn = false →
      ∃ t, exec .serviceQueuePost s = .next t ∧
        t.host = { s.host with svcWait := rest, svcTail := (s.host.svcTail + 1) % 2 ^ 32, seq := (s.host.seq + 1) % 2 ^ 64,
                               aplic := insertNat irqService s.host.aplic, raised := t.host.raised, harts := t.host.harts } ∧
        t.readN (s.host.svcBase + 64 * (s.host.svcTail % 2 ^ s.host.svcLog)) 64 = b) ∧
    ∀ b tag o x g w, s.arg = .write 0 0x2C0 b →
      (¬ heeds s → exec .svcReply s = .next s) ∧
      (heeds s → b.length = 64 → fieldOf b 3 13 = 0 → fieldOf b 32 32 = 0 → tag = fieldOf b 0 2 →
        s.host.tags = [(tag, .op o.id)] → s.ops = [o] → o.body = .svc x → o.owner = .warp g w → s.graph.nodes = [] →
        ∃ t, exec .svcReply s = .next t ∧ t.host.tags = [] ∧ t.warps = s.warps ∧
          t.ops = [due o ((List.range 4).map (fun i => (sKey (x.dreg + i), BitVec.ofNat 32 (fieldOf b (16 + 4 * i) 4)))
            ++ [(sKey x.sreg, BitVec.ofNat 32 (fieldOf b 2 1))])])

/-- A load of a warp that waits for one part from outside. -/
def Sys2Proof.Claims.oneLoad (s : State) (o : Op) (b : AccessBody) (p : Part) (g w id : Nat) : Prop :=
  s.ops = [o] ∧ o.owner = .warp g w ∧ o.body = .access b ∧ o.parts = [p] ∧ p.state = .sent id ∧ b.kind = .load ∧
    s.pod.ext = [{ id := id, kind := .part o.id 0, host := true, len := p.len, ppa := 2 ^ 58 }]

/-- The oldest response of head j in this package's region of module m: what it says, the request that it answers, and the machine
once it has left the ring (02 R59). -/
def Sys2Proof.Claims.responded (s u : State) (m j : Nat) (d : RelayDesc) (e : Ext) : Prop :=
  ∃ b, s.responseAt m j = some b ∧ d = RelayDesc.parse b m j ∧ d.returns ≤ 16 ∧ e.off = none ∧
    u = (s.queueOp m (relayRegion ((s.myHead m).getD 0) j + respRing) 64 false []).2.2 ∧ u.answered d ((s.myHead m).getD 0) j = some e

/-- 02 R59, R62, R88; 05 R168, R169; R507; 04 R129: answers from outside reach what waits for them. A load's part that has its
data is performed; an atomic that the host does not have as an AtomicOp goes on with a CAS; a flush that the host fails, or does not
answer for 50 ms, posts HOSTERR with its reason. A relay's response leaves its ring: a relayed delivery's answer goes on to its source;
a contribution that is answered DONE is no longer unsent, one whose attachment is lost fails its chunk. An answer that nothing waits for
changes nothing else. -/
def Obligations.OutsideAnswers : Prop :=
  ∀ (s : State),
    (∀ id status data, s.arg = .completion id status data →
      (s.extFind id true = none → exec .hostCompletion s = .next s) ∧
      (∀ e wkey, s.extFind id true = some e → e.kind = .flush wkey → e.loop = none →
        (status = 0 → exec .hostCompletion s = .next (s.dropExt e.id)) ∧
        (status ≠ 0 → exec .hostCompletion s = .next ((s.dropExt e.id).post (s.ctxFn e.ctx) 7 status e.ctx (e.ppa % 2 ^ 57)))) ∧
      (∀ e aop x, s.extFind id true = some e → e.loop = some (aop, x, none) → status = 0 → ∃ t, exec .hostCompletion s = .next t ∧
        let old := ofBytes data
        t = { s with outbox := t.outbox, pod := { s.pod with ext := t.pod.ext } } ∧
        t.outbox = s.outbox ++ [{ kind := .hostAtomic, words := [e.id, e.ppa % 2 ^ 57, e.len, 9, atomicNew aop e.len old x 0, old,
                                                                   s.pasidOf e.ctx e.kind, e.attrs] }]) ∧
      (∀ o b p g w, oneLoad s o b p g w id → status = 0 → data.length = p.len → ∃ t, exec .hostCompletion s = .next t ∧
        t.pod.ext = [] ∧ t.mem = s.mem ∧
        ∀ o' ∈ t.ops, o'.id = o.id ∧ o'.parts = [{ p with state := .performed, data := data, poisoned := false }])) ∧
    (∀ m j, s.arg = .pair m j →
      (s.responseAt m j = none → exec .relayResponse s = .next s) ∧
      (∀ d e u src, responded s u m j d e → e.kind = .forward src →
        let code := d.status / 2 ^ 24
        let st := if code = stDone then stDone else if code = stLinkLost then stLinkLost else if code = stBusy then stBusy else stFault
        exec .relayResponse s = .next ((u.dropExt e.id).answerRelay src st 0 [] [])) ∧
      ∀ d e u c x k, responded s u m j d e → e.kind = .contribution c x → u.coll c = some k →
        (d.status / 2 ^ 24 = stDone → ∃ t, exec .relayResponse s = .next t ∧ t.coll c = some (k.unsend x) ∧
          t.pod.ext = u.pod.ext.filter (fun y => y.id != e.id)) ∧
        (d.status / 2 ^ 24 = stLinkLost → ∃ t, exec .relayResponse s = .next t ∧ t.coll c = some ((k.unsend x).failChunk (x / 64) true) ∧
          t.pod.ext = u.pod.ext.filter (fun y => y.id != e.id))) ∧
    ∀ id, s.arg = .unit id →
      (s.extFind id true = none → exec .hostRequestTimeout s = .next s) ∧
      ∀ e wkey, s.extFind id true = some e → e.kind = .flush wkey →
        exec .hostRequestTimeout s = .next ((s.dropExt e.id).post (s.ctxFn e.ctx) 7 3 e.ctx (e.ppa % 2 ^ 57))

/-! ## The graph engine -/

/-- Where a record of queue context q comes from (06 R181). -/
def Sys2Proof.Claims.sourceOf (s : State) (q : Nat) (b : List Byte) (log : Bool) : Source :=
  { ctx := s.qctxCtx q, fn := s.qctxFn q, qctx := some q, seq := fieldOf b 4 4, defPrio := s.qctxPrio q, logDone := log, parent := none, parentLaunch := 0,
    who := whoQctx q }

/-- The record at the head of a queue context, of a kind, which no check of 05 R152 rejects, no fault holds, and no host write before it
(R153). -/
def Sys2Proof.Claims.firstRecord (s : State) (q k : Nat) (b : List Byte) : Prop :=
  s.arg = .unit q ∧ (s.intakeOf q).head? = some b ∧ fieldOf b 0 1 = k ∧ s.subReject q b = none ∧ s.behindWrites q = false ∧ q ∉ s.recFailed ∧
    ∀ r ∈ s.recPark, r.1 ≠ q

/-- 05 R152; 06 R177 to R185, R204, R375: the records. A record whose checks fail is rejected with its detail, and nothing else
happens; a node or a graph that is read whole and well formed goes into the engine, READY where it has no predecessor, with its units'
counters; a WAITING node makes room for it in the spill area; it waits while there is no room; a cancel record cancels its unit, and says
whether one was live; LAUNCH is due status 0, and adds a node of its own units, or 1 when it is cancelled, or 2 where its record could
not be read. -/
def Obligations.GraphRecords : Prop :=
  ∀ (s : State),
    (∀ q b d, s.arg = .unit q → (s.intakeOf q).head? = some b → s.subReject q b = some d →
      (fieldOf b 0 1 ≠ 2 → fieldOf b 0 1 ≠ 3 → exec .nodeRecord s = .next ((s.dropRec q).post (s.qctxFn q) 2 d q (fieldOf b 4 4))) ∧
      (fieldOf b 0 1 = 2 → exec .graphRecord s = .next ((s.dropRec q).post (s.qctxFn q) 2 d q (fieldOf b 4 4))) ∧
      (fieldOf b 0 1 = 3 → exec .cancelRecord s = .next ((s.dropRec q).post (s.qctxFn q) 2 d q (fieldOf b 4 4)))) ∧
    (∀ q b n close u, firstRecord s q 1 b → s.readNode (sourceOf s q b (subLog b)) (fieldOf b 8 8) 0 true = (.ok (n, close), u) →
      n.preds = 0 → n.succs = [] →
      (u.graphBad [n] = true → exec .nodeRecord s = .next ((u.dropRec q).post (u.qctxFn q) 2 4 q (fieldOf b 4 4))) ∧
      (u.graphBad [n] = false → u.roomFor 1 1 (u.newUnits [n]) = false → exec .nodeRecord s = .next u) ∧
      (∀ m k, u.graphBad [n] = false → u.roomFor 1 1 (u.newUnits [n]) = true → close = 0 → 65536 ≤ u.onChip → u.spillPlace = some k →
        u.graph.nodes.find? (fun x => x.st == .waiting && x.spill.isNone && x.preds != 0) = some m → ∃ t, exec .nodeRecord s = .next t ∧
        t.graph.nodes = u.graph.nodes.map (fun x => if x.id = m.id then { x with spill := some k } else x) ++
          [{ n with id := u.graph.nextNode, st := .ready, readyAt := u.now }]) ∧
      (u.graphBad [n] = false → u.roomFor 1 1 (u.newUnits [n]) = true → close = 0 → u.spilled q = 0 → u.onChip < 65536 → ∃ t, exec .nodeRecord s = .next t ∧
        t.graph.nodes = u.graph.nodes ++ [{ n with id := u.graph.nextNode, st := .ready, readyAt := u.now }] ∧
        t.counter n.ctx 1 n.graphId = some { ctx := n.ctx, level := 1, ident := n.graphId, count := 1, phase := n.phaseId, job := n.jobId } ∧
        (n.nkind = 1 → t.counter n.ctx 0 n.launchId = some { ctx := n.ctx, level := 0, ident := n.launchId }) ∧
        t.host = { u.host with intake := dropFirst q u.host.intake } ∧ t.mem = u.mem)) ∧
    (∀ q b a n close u, firstRecord s q 2 b →
      s.readGraph (sourceOf s q b false) (fieldOf b 8 8) (fieldOf b 16 4) 0 [] 0 = (.ok ([a, n], close), u) → u.graphBad [a, n] = false →
      u.roomFor 2 (([a, n].filter (fun x => x.preds == 0)).length) (u.newUnits [a, n]) = true → close = 0 → u.onChip < 65535 → ∃ t, exec .graphRecord s = .next t ∧
        (t.counter a.ctx 1 a.graphId).map (fun c => c.count) = some 2 ∧
        t.graph.nodes = u.graph.nodes ++
          [{ a with id := u.graph.nextNode, st := if a.preds = 0 then .ready else .waiting, readyAt := u.now },
           { n with id := u.graph.nextNode + 1, st := if n.preds = 0 then .ready else .waiting, readyAt := u.now }]) ∧
    (∀ q b, firstRecord s q 3 b →
      let level := fieldOf b 20 1
      let ident := fieldOf b 16 4
      let ctx := s.qctxCtx q
      (s.counter ctx level ident = none → subLog b = false → exec .cancelRecord s = .next (s.dropRec q)) ∧
      (level = 0 ∨ ident < 65536 → subLog b = false → (s.counter ctx level ident).isSome = true →
        exec .cancelRecord s = .next ((s.cancelUnit ctx level ident).1.dropRec q)) ∧
      (s.counter ctx level ident = none → subLog b = true →
        exec .cancelRecord s = .next ((s.dropRec q).postCompletion ctx q (fieldOf b 4 4) 0 0))) ∧
    ∀ id o (b : LaunchBody) g w, s.arg = .unit id → s.op id = some o → o.body = .launch b → o.owner = .warp g w → o.id = id →
      let ended := fun (t : State) (status : Word) => t.op id = some (due o [(sKey b.dreg, status)]) ∧ t.warps = s.warps
      (o.cancelled = true → ∃ t, exec .launchAccept s = .next t ∧ ended t 1 ∧ t.graph = s.graph) ∧
      (o.cancelled = false → o.failed = true → ∃ t, exec .launchAccept s = .next t ∧ ended t 2 ∧ t.graph = s.graph) ∧
      ∀ p n close u, o.cancelled = false → o.failed = false → o.park = none → o.queuedCode = none → s.coveredBefore g w id = false →
        s.node (s.groupAt g).node = some p →
        s.readNode { ctx := p.ctx, fn := p.fn, qctx := none, seq := 0, defPrio := 0, logDone := false, parent := some p.id,
                     parentLaunch := p.launchId, who := whoOp o.id 0 } b.va 0 true = (.ok (n, close), u) →
        u.op id = some o → u.warps = s.warps → u.onChip < 65536 → n.notChild close = false → (n.nkind = 1 → u.counter n.ctx 0 n.launchId = none) →
        u.roomFor 1 1 (if n.nkind = 1 then 1 else 0) = true → ∃ t, exec .launchAccept s = .next t ∧ ended t 0 ∧
          t.graph.nodes = u.graph.nodes ++ [{ n with id := u.graph.nextNode, st := .ready, readyAt := u.now, graphId := p.graphId,
                                                     phaseId := p.phaseId, jobId := p.jobId }]

/-- A node owes no flush any more (06 R189). -/
def Sys2Proof.Claims.flushedUp (s : State) (n : Node) : Prop := n.flushOwed = false ∨ s.needsFlush n = false

/-- The launch of a group that has ended, with its counter. -/
def Sys2Proof.Claims.endsGroup (s : State) (g id : Nat) (n : Node) (c : Counter) : Prop :=
  s.arg = .unit g ∧ s.groupOver g = true ∧ (∀ w ∈ s.warpsOf g, w.reports = []) ∧ (s.groupAt g).node = id ∧ s.node id = some n ∧
    n.st = .running ∧ n.placedOnce = true ∧ s.counter n.ctx 0 n.launchId = some c ∧ c.ctx = n.ctx ∧ c.level = 0 ∧ c.ident = n.launchId

/-- 06 R180, R185, R189, R190, R201, R207, R209: the ends of groups and nodes. A group is complete when its warps have ended and
nothing of it is outstanding: it gives back its core, and its launch counts one less; the last one brings the launch to PUBLISHING. There
the flush that a far successor or a log entry needs comes first; then the PUBs of the node's shadow results are performed in order, each
behind the writes before it; then the node ends DONE, and its successors have one predecessor less. -/
def Sys2Proof.Claims.nodeEndsClaim : Prop :=
  ∀ (s : State),
    (∀ g, s.arg = .unit g → s.groupOver g = false → exec .groupComplete s = .next s) ∧
    (∀ g id n c, endsGroup s g id n c →
      (1 < c.count → ∃ t, exec .groupComplete s = .next t ∧ Map.get {} t.groups g = ({} : Group) ∧
        (∀ k, k / 64 = g → Map.get {} t.warps k = ({} : Warp)) ∧ (∀ k, k / 64 ≠ g → Map.get {} t.warps k = Map.get ({} : Warp) s.warps k) ∧
        (∀ k, k ≠ g → Map.get {} t.groups k = Map.get ({} : Group) s.groups k) ∧ t.mem = s.mem ∧
        t.node id = some { n with groupsLeft := n.groupsLeft - 1, groupsDone := n.groupsDone + 1,
                                  doneTime := n.doneTime + (s.now - (s.groupAt g).placedAt) } ∧
        t.counter n.ctx 0 n.launchId = some { c with count := c.count - 1 }) ∧
      (c.count = 1 → n.unplaced = [] → s.graph.counters = [c] → ∃ t, exec .groupComplete s = .next t ∧
        (t.node id).map (fun n => n.st) = some .publishing ∧ t.counter n.ctx 0 n.launchId = none)) ∧
    ∀ id n, s.arg = .unit id → s.node id = some n →
      (n.st ≠ .publishing → exec .nodeDone s = .next s) ∧
      (n.st = .publishing → n.flushOwed = true → s.needsFlush n = true →
        exec .nodeDone s = .next ((s.flushNode n).setNode { n with flushOwed := false })) ∧
      (n.st = .publishing → flushedUp s n → s.flushing (nodeKey id) = true → exec .nodeDone s = .next s) ∧
      (∀ i rest w, n.st = .publishing → flushedUp s n → s.flushing (nodeKey id) = false → n.pubs = i :: rest → n.writes[i]? = some w →
        (s.backWrites w.sbid s.nextOp = true → exec .nodeDone s = .next s) ∧
        (s.backWrites w.sbid s.nextOp = false → ∃ t, exec .nodeDone s = .next t ∧ t.node id = some { n with pubs := rest } ∧
          ∀ b, t.version b = if b = w.sbid ∧ s.sbValid b = true then !s.version b else s.version b)) ∧
      (n.st = .publishing → flushedUp s n → n.pubs = [] → s.flushing (nodeKey id) = false → s.graph.nodes = [n] → s.graph.counters = [] →
        n.parent = none → n.logDone = false → ∃ t, exec .nodeDone s = .next t ∧ t.graph.nodes = []) ∧
      ∀ m, n.st = .publishing → flushedUp s n → n.pubs = [] → s.flushing (nodeKey id) = false → s.graph.nodes = [n, m] → s.graph.counters = [] →
        n.parent = none → n.logDone = false → n.nkind ≠ 1 → n.id ≠ m.id → n.succs.contains m.index = true → m.ctx = n.ctx →
        m.graphId = n.graphId → m.qctx = n.qctx → m.st = .waiting → m.preds = 1 → m.spill = none → ∃ t, exec .nodeDone s = .next t ∧
          t.graph.nodes = [{ m with preds := 0, st := .ready, readyAt := s.now }]

/-- An idle node of a kind (06 R192). -/
def Sys2Proof.Claims.idle (s : State) (id k : Nat) (n : Node) : Prop := s.arg = .unit id ∧ s.idleNode id k = some n

/-- A node's command has been added to those outstanding. -/
def Sys2Proof.Claims.nodeOp (u t : State) (o : Op) : Prop := t = { u with ops := u.ops ++ [o], nextOp := u.nextOp + 1 }

/-- 06 R192: what a node of another kind does when it runs. An event signal or add becomes a store or an atomic of 8 bytes, a
wait is watched until its word meets its condition, a service function takes a tag and posts its record, a tile transfer and a
collective become transfer commands. -/
def Sys2Proof.Claims.nodeKindsClaim : Prop :=
  ∀ (s : State) (id : Nat) (n : Node),
    (∀ p u place ord ha tlb, idle s id 4 n → p = ({ addr := n.eventVa, len := 8, data := bytesOf 8 n.eventValue, x := n.eventValue,
                                                    place := place, ord := ord, ha := ha, tlb := tlb } : Part) →
      let body : AccessBody := { kind := .store, uniform := true, space := 0, bytes := 8, sx := false, policy := 0, dst := 0 }
      (n.eventOp = 0 → s.translate n.ctx n.eventVa .write 8 false = (.ok place ord ha tlb, u) →
        ∃ t, exec .eventSignal s = .next t ∧ nodeOp u t { id := u.nextOp, owner := .node n.id, flag := 15, ord := 2, scope := n.eventScope,
                                                          parts := [p], body := .access body }) ∧
      (n.eventOp = 1 → s.translate n.ctx n.eventVa .atomic 8 true = (.ok place ord ha tlb, u) →
        ∃ t, exec .eventSignalAdd s = .next t ∧ nodeOp u t { id := u.nextOp, owner := .node n.id, flag := 15, ord := 2, scope := n.eventScope,
                                                             parts := [p], body := .access { body with kind := .atomic 0 } })) ∧
    (idle s id 4 n →
      (n.eventOp ≠ 0 → exec .eventSignal s = .next s) ∧ (n.eventOp ≠ 1 → exec .eventSignalAdd s = .next s) ∧
      (n.eventOp ≠ 2 → exec .eventWait s = .next s) ∧
      (n.eventOp = 2 → exec .eventWait s = .next { s with graph := { s.graph with watches := s.graph.watches ++ [id] } })) ∧
    (∀ b u, s.arg = .unit id → s.node id = some n → n.st = .running → id ∈ s.graph.watches → n.park = none →
      s.engRead (whoNode id) n.ctx n.eventVa 8 = (.ok b, u) →
      let met := if fieldOf n.rest 2 1 = 0 then ofBytes b = n.eventValue else n.eventValue ≤ ofBytes b
      (¬ met → exec .eventWaitRecheck s = .next (u.endFetches (whoNode id))) ∧
      (met → u.graph = s.graph → ∃ t, exec .eventWaitRecheck s = .next t ∧ (t.node id).map (fun n => n.st) = some .publishing ∧ id ∉ t.graph.watches)) ∧
    (∀ tag, idle s id 5 n → freeTag (s.host.tags.map (fun t => t.1)) 1024 = some tag → ∃ t, exec .serviceFunction s = .next t ∧
      let args := (List.range 8).map (fun i => BitVec.ofNat 32 (fieldOf n.rest (8 + 4 * i) 4))
      let fn := s.ctxFn n.ctx
      t.host.tags = s.host.tags ++ [(tag, .service id)] ∧
      t.host.svcWait = s.host.svcWait ++ [svcRecord (fieldOf n.rest 0 2) tag n.ctx (s.ctxGlade n.ctx) fn 0xFF 0xFF (s.tstamp fn).1 args] ∧
      t.graph = s.graph) ∧
    (∀ b u, idle s id 2 n → fieldOf n.rest 0 8 % 64 = 0 → s.engRead (whoNode id) n.ctx (fieldOf n.rest 0 8) 64 = (.ok b, u) →
      shapeBad b 1 = false → (Shape.parse b).kind ≠ 3 → ∃ t, exec .tileTransferNode s = .next t ∧ nodeOp (u.endFetches (whoNode id)) t
        { id := u.nextOp, owner := .node n.id, flag := 15, ord := 0, scope := (Shape.parse b).scope,
          body := .txf { shape := Shape.parse b, va := fieldOf n.rest 0 8, dreg := 0, gen := u.shapeBars noGroup (Shape.parse b), written := [],
                         nodeStat := fieldOf n.rest 8 8 } }) ∧
    ∀ cb lb u v, idle s id 3 n → fieldOf n.rest 0 8 % 64 = 0 → s.engRead (whoNode id) n.ctx (fieldOf n.rest 0 8) 128 = (.ok cb, u) →
      u.engRead (whoNode id) n.ctx (fieldOf cb 48 8) (4 * fieldOf cb 28 4) = (.ok lb, v) →
      collBad cb v.pod.pkg v.podSize ((piecesOf 4 (fieldOf cb 28 4) lb).map ofBytes) = false → v.pod.colls.length < 256 → v.pod.spills = [] →
      ∃ t, exec .collectiveNode s = .next t ∧ t.pod.nextColl = v.pod.nextColl + 1 ∧
        (∃ c, t.pod.colls = v.pod.colls ++ [c] ∧ c.id = v.pod.nextColl ∧ c.op = v.nextOp ∧ c.ctx = n.ctx) ∧
        (∃ o, t.ops = v.ops ++ [o] ∧ o.id = v.nextOp ∧ o.owner = .node n.id)

/-- What nodes do, and how they end. -/
def Obligations.NodeEnds : Prop := nodeEndsClaim ∧ nodeKindsClaim

/-! ## Placement and pre-emption -/

/-- The one node of the engine, of a launch of glade g, in a state. -/
def Sys2Proof.Claims.oneLaunch (s : State) (g : Nat) (n : Node) (l : Launch) (st : NodeSt) : Prop :=
  s.graph.nodes = [n] ∧ n.glade = g ∧ n.nkind = 1 ∧ n.launch = some l ∧ n.st = st ∧ (s.fn n.fn).pause = false

/-- The group that a gang of one group of a new launch becomes (06 R194 to R196, 08 Table 8-3). -/
def Sys2Proof.Claims.placed (s : State) (n : Node) (l : Launch) (core : Nat) : Group :=
  { node := n.id, ctx := n.ctx, fn := n.fn, glade := n.glade, place := .core core, gang := 0, rank := 0, gangSize := l.gang, idx := (0, 0, 0),
    dim := (l.shapeX, l.shapeY, l.shapeZ), launchId := n.launchId, graphId := n.graphId, phaseId := n.phaseId, jobId := n.jobId,
    nodeId := n.index, cls := l.cls, scratch := l.scratch, lanePriv := l.lanePriv, nwarps := l.nc + l.nm + l.nv, nc := l.nc, nm := l.nm,
    novl := l.novl, handler := l.handler, ovltab := l.ovltab, placedAt := s.now,
    slots := l.inits.foldl (fun m i => Map.set none m i.1 (some ⟨i.2.1, i.2.2.1, i.2.2.2⟩)) [] }

/-- The groups on cores that are saved with a gang: its own, or those of its concurrent launch (07 R236). -/
def Sys2Proof.Claims.unitOn (s : State) (node gang : Nat) : List Nat := (s.withLaunch (node, gang)).flatMap (fun x => s.gangOn x.1 x.2)

/-- A group that has been asked to be saved, for a cause; an evacuation stays one (07 R222). -/
def Sys2Proof.Claims.asked (x : Group) (cause : SaveCause) : Group :=
  { x with saving := true, saveCause := if x.saving = true ∧ x.saveCause = .evacuate then .evacuate else cause }

/-- A resident gang has been asked to be saved: each group on a core that is saved with it; nothing else has changed. -/
def Sys2Proof.Claims.savesGang (s t : State) (node gang : Nat) (cause : SaveCause) : Prop :=
  t = { s with groups := t.groups } ∧ ∀ k, t.groupAt k = if k ∈ unitOn s node gang then asked (s.groupAt k) cause else s.groupAt k

/-- 06 R191 to R197, R213; 07 R223 to R226: placing groups, saving them and bringing them back. A READY node of another kind runs
at once; a launch that no empty glade could hold fails; a launch of one group of the weakly parallel class runs, and its group is placed
where its gang fits, with its arguments and entry words. A group asked to be saved leaves its core with all its state, once its warps stand
between clauses; where its image does not fit, SVFULL is set; a saved gang comes back to cores that hold it. -/
def Sys2Proof.Claims.groupPlacementClaim : Prop :=
  ∀ (s : State),
    (∀ g, s.arg = .unit g →
      (s.gladePlots g = [] → exec .dispatch s = .next s) ∧
      (∀ n, s.gladePlots g ≠ [] → s.groups = [] → s.graph.nodes = [n] → n.st = .ready → n.glade = g → (s.fn n.fn).pause = false → n.launch = none →
        n.nkind ≠ 1 → exec .dispatch s =
          .next { s with graph := { s.graph with nodes := [{ n with st := .running, waited := s.now - n.readyAt }] } }) ∧
      (∀ n l, s.gladePlots g ≠ [] → s.groups = [] → oneLaunch s g n l .ready → s.admission n l = .refuse → s.graph.counters = [] → n.qctx = none →
        n.parent = none → n.logDone = false → ∃ t, exec .dispatch s = .next t ∧ t.graph.nodes = []) ∧
      ∀ n l core c, s.gladePlots g ≠ [] → s.groups = [] → s.warps = [] → oneLaunch s g n l .ready → s.admission n l = .accept → l.cls = 2 →
        l.gangs = 1 → l.gang = 1 → (s.gladeAt g).holder = none → (s.gladeAt g).clearing = none →
        s.graph.counters = [c] → c.is n.ctx 0 n.launchId = true → n.placedOnce = false →
        gangCores (s.cores l (s.openGroves g l false) false) (s.openGroves g l false) 1 l.use = some [core] →
        ∃ t, exec .dispatch s = .next t ∧ (∀ k, t.groupAt k = if k = s.graph.nextGroup then placed s n l core else {}) ∧
          (∀ w, w < l.warps → t.warpAt s.graph.nextGroup w = l.startWarp w) ∧ t.mem = s.mem ∧ t.graph.counters = [{ c with count := c.count + l.groups }] ∧
          t.graph.nodes = [{ n with st := .running, waited := s.now - n.readyAt, unplaced := [], placedOnce := true, groupsLeft := l.groups }]) ∧
    (∀ k, s.arg = .unit k →
      let x := s.groupAt k
      (x.saving = false ∨ s.savable k = false → exec .groupSave s = .next s) ∧
      (x.saving = true → s.savable k = true → s.imageFits x = false → ∃ t, exec .groupSave s = .next t ∧ (t.gladeAt x.glade).svfull = true ∧
        (x.saveCause ≠ .evacuate → (t.groupAt k).saving = false ∧ (t.groupAt k).place = x.place)) ∧
      (x.saving = true → s.savable k = true → s.imageFits x = true → s.ops = [] → ∃ t, exec .groupSave s = .next t ∧
        (∀ a, a < (s.gladeAt x.glade).saveBase ∨ (s.gladeAt x.glade).saveBase + 2 ^ (s.gladeAt x.glade).saveLog * 2 ^ 20 ≤ a →
          Map.get 0 t.mem a = Map.get 0 s.mem a) ∧
        t.groupAt k = { x with place := .saved, saving := false, quads := (s.quadsOf k).map (fun q => (q % 4, s.quadAt q)),
                               clockAdd := x.clockAdd + (Map.get 0 s.clocks x.coreId : Nat) } ∧
        (∀ j, j ≠ k → t.groupAt j = s.groupAt j) ∧ (∀ q ∈ s.quadsOf k, (t.quadAt q).holder = none) ∧
        ∀ w, w < 64 → (t.warpAt k w).v = (s.warpAt k w).v ∧ (t.warpAt k w).s = (s.warpAt k w).s ∧ (t.warpAt k w).p = (s.warpAt k w).p ∧
          (t.warpAt k w).q = (s.warpAt k w).q ∧ (t.warpAt k w).e = (s.warpAt k w).e ∧ (t.warpAt k w).live = (s.warpAt k w).live)) ∧
    ∀ node gang n l k core, s.arg = .pair node gang → s.node node = some n → n.launch = some l → l.cls ≠ 0 → s.gangSaved node gang = [k] →
      s.mayRestore node gang = true → s.ops = [] → (s.groupAt k).quads = [] →
      s.restoreCores n l [k] (decide ((s.groupAt k).saveCause = .clearing)) = some [core] → ∃ t, exec .groupRestore s = .next t ∧
        t.groupAt k = { s.groupAt k with place := .core core, saveCause := .none, placedAt := s.now,
                                         clockAdd := (s.groupAt k).clockAdd - (Map.get 0 s.clocks core : Nat) } ∧
        (∀ j, j ≠ k → t.groupAt j = s.groupAt j) ∧ t.warps = s.warps ∧ t.mem = s.mem

/-- 06 R197, R202, R203; 07 R234 to R237; 15 R447: what keeps the glade's work fair. A launch that has waited RESWAIT takes the
reservation; at a slice's end the groves of lower priority that make room for a waiting launch are pre-empted; what a draining grove still
runs at the deadline is saved; a gang that starves behind what cannot be placed is saved, and comes back later, or, past LIMIT, its waiter
takes ILLEGAL_WAIT; a gang that has waited long for its place has a grove cleared for it; a stall on a quadrant saves the gang that holds
it. -/
def Sys2Proof.Claims.fairPlacementClaim : Prop :=
  ∀ (s : State),
    (∀ g, s.arg = .unit g →
      let x := s.gladeAt g
      (∀ n rest, s.byPrio (s.waitingLaunches g) = n :: rest →
        (s.holderFree g = true → 400 * s.graph.reswait < s.now - n.readyAt →
          exec .reservationTake s = .next (s.setGlade g { x with holder := some n.id })) ∧
        (s.holderFree g = false ∨ s.now - n.readyAt ≤ 400 * s.graph.reswait → exec .reservationTake s = .next s)) ∧
      (x.slice = 0 → exec .sliceEnd s = .next s) ∧
      (∀ w l vs out, x.slice ≠ 0 →
        (s.byPrio (s.waitingLaunches g)).find? (fun n => (n.launch.map (fun l => s.admission n l)) == some .wait) = some w → w.launch = some l →
        vs = (((s.livePlots g).filter (fun v => !(s.gangsIn v).isEmpty && s.groveEff v < s.eff w)).foldl
          (fun l v => insertVictim (v, s.groveEff v) l) []).map (fun v => v.1) →
        (s.victimsFor w l vs = none → exec .sliceEnd s = .next s) ∧
        (s.victimsFor w l vs = some out → ∃ t, exec .sliceEnd s = .next t ∧ (t.gladeAt g).holder = some w.id ∧ t.mem = s.mem ∧
          (out = [] → t.groups = s.groups ∧ t.warps = s.warps))) ∧
      (x.clearing = none → exec .clearingMigrate s = .next s) ∧
      (∀ v node gang k, x.clearing = some (v, node, gang) → s.gangsIn v = [k] → ∃ t, exec .clearingMigrate s = .next t ∧
        (t.gladeAt g) = { x with clearMoving := true } ∧
        ∀ j, t.groupAt j = if j ∈ unitOn s k.1 k.2 then asked (s.groupAt j) .clearing else s.groupAt j)) ∧
    (∀ g v, s.arg = .pair g v →
      (v ∉ (s.gladeAt g).draining → exec .drainDeadline s = .next s) ∧
      (∀ k, v ∈ (s.gladeAt g).draining → (∀ u ∈ (s.gladeAt g).drainUnits, u.1 ≠ v) → v ∈ s.gladePlots g → s.gangsIn v = [k] → ∃ t, exec .drainDeadline s = .next t ∧
        (t.gladeAt g).draining = (s.gladeAt g).draining.filter (fun x => x != v) ∧
        ∀ j, t.groupAt j = if j ∈ unitOn s k.1 k.2 then
          asked (s.groupAt j) (if (s.plot v).st = .leaving then .evacuate else .preempt) else s.groupAt j)) ∧
    (∀ id o g, s.arg = .unit id → s.op id = some o → s.starving o = some g →
      let x := s.groupAt g
      (s.remedyHelps o g = false → exec .starvationRemedy s = .next s) ∧
      (s.remedyHelps o g = true → ∃ t, exec .starvationRemedy s = .next t ∧ savesGang s t x.node x.gang .starvation) ∧
      (s.graph.limit = 0 ∨ x.place = .saved → exec .starvationLimit s = .next s) ∧
      ∀ w b, s.graph.limit ≠ 0 → x.place ≠ .saved → o.body = .cntWait b → o.owner = .warp g w → o.id = id → (s.warpAt g w).reports = [] →
        ∃ t, exec .starvationLimit s = .next t ∧ t.op id = none ∧ (t.warpAt g w).reports =
          [{ order := id, flag := o.flag, cause := 0x04, mask := none, addr := 0, info := 1 }] ∧ t.groups = s.groups ∧ t.mem = s.mem) ∧
    (∀ node gang, s.arg = .pair node gang →
      let gs := ((s.unitGangs node gang).flatMap (s.gangSaved node)).filter (fun k => decide ((s.groupAt k).saveCause = .starvation))
      (gs = [] → exec .starvationRestore s = .next s) ∧
      (∀ u, gs ≠ [] → u = gs.foldl (fun s k => s.putGroup k { s.groupAt k with saveCause := .preempt }) s →
        exec .starvationRestore s = .next ((u.restoreUnit node gang).getD u)) ∧
      ∀ n l, s.node node = some n → n.launch = some l →
        (n.st ≠ .running ∨ gang ∉ n.unplaced → exec .clearingDeclare s = .next s) ∧
        (∀ v, n.st = .running → gang ∈ n.unplaced → (s.gladeAt n.glade).clearing = none → s.roomiest n l = some v →
          exec .clearingDeclare s = .next (s.setGlade n.glade { s.gladeAt n.glade with clearing := some (v, node, gang), clearMoving := false }))) ∧
    ∀ g w, s.arg = .pair g w →
      ((s.warpAt g w).stall ≠ .quad → exec .quadrantStallSave s = .next s) ∧
      ∀ h, (s.warpAt g w).stall = .quad → h ≠ g →
        (s.quadAt (4 * (s.groupAt g).coreId + (s.warpAt g w).subcore)).holder = some h →
        ∃ t, exec .quadrantStallSave s = .next t ∧ savesGang s t (s.groupAt h).node (s.groupAt h).gang .quadrant

/-- Which groups are placed, and where. -/
def Obligations.GroupPlacement : Prop := groupPlacementClaim ∧ fairPlacementClaim

/-! ## Glades -/

/-- A command of GLCMD for glade g (07 R219, Table 7-3): its op and its plots. -/
def Sys2Proof.Claims.commanded (s : State) (g op mask : Nat) : Prop :=
  ∃ data : List Byte, s.arg = .write 0 (0x3008 + 0x20 * g) data ∧ heeds s ∧ data.length = 8 ∧ ofBytes data % 16 = op ∧ ofBytes data / 2 ^ 32 = mask ∧ g < 32

/-- A group stands on a LEAVING grove. -/
def Sys2Proof.Claims.onLeaving (s : State) (x : Group) : Bool :=
  match x.place with
  | .core c => decide ((s.plot (c / 8)).st = .leaving)
  | _ => false

/-- A command that is turned away changes nothing but RESULT. -/
def Sys2Proof.Claims.resulted (s : State) (g code : Nat) : State := s.setGlade g { s.gladeAt g with result := code }

/-- 07 R218 to R222, R227 to R233, Tables 7-3, 7-4, 7-8: the glade manager. GROW takes free plots, in their order, as the next
segments; SHRINK asks for plots that the glade owns, that hold
no device structure; COMMIT and ABORT
act in RELOCATE only; RESET waits for a resize to end. The rehash moves the lines that lie outside their slice, one at a time; the canopy
copies keep their bytes, and the last one cuts the leaving plots off, which go through the firebreak and their scrub; a scrub leaves a plot
empty and FREE, or FAILED. -/
def Obligations.GladeManager : Prop :=
  ∀ (s : State) (g : Nat),
    let x := s.gladeAt g
    (∀ mask, commanded s g 1 mask →
      let ks := (List.range 32).filter (bitOf mask)
      let free := ks ≠ [] ∧ ∀ k ∈ ks, (s.plot k).st = .free
      (x.st ≠ .idle → exec .gladeGrow s = .next (resulted s g 1)) ∧ (x.st = .idle → ¬ free → exec .gladeGrow s = .next (resulted s g 2)) ∧
      (x.st = .idle → free → ∃ t, exec .gladeGrow s = .next t ∧ t = { s with plots := t.plots, glades := t.glades } ∧
        t.gladeAt g = { x with st := .rehash, grow := true, result := 0 } ∧
        (∀ i k, ks[i]? = some k → t.plot k = { st := .joining, glade := g, seg := (s.gladePlots g).length + i }) ∧
        ∀ k, k ∉ ks → t.plot k = s.plot k)) ∧
    (∀ mask, commanded s g 2 mask →
      let ks := (List.range 32).filter (bitOf mask)
      let own := s.plotsIn g .owned
      (x.st ≠ .idle → exec .gladeShrink s = .next (resulted s g 1)) ∧
      (x.st = .idle → ks = [] ∨ (∃ k ∈ ks, k ∉ own) → exec .gladeShrink s = .next (resulted s g 2)) ∧
      (x.st = .idle → ks ≠ [] → (∀ k ∈ ks, k ∈ own) → ks.length = own.length → exec .gladeShrink s = .next (resulted s g 3)) ∧
      (x.st = .idle → ks ≠ [] → (∀ k ∈ ks, k ∈ own) → ks.length ≠ own.length → (∃ k ∈ ks, k ∈ s.heldPlots) →
        exec .gladeShrink s = .next (resulted s g 5)) ∧
      (x.st = .idle → ks ≠ [] → (∀ k ∈ ks, k ∈ own) → ks.length ≠ own.length → (∀ k ∈ ks, k ∉ s.heldPlots) → s.groups = [] →
        s.graph.nodes = [] → ∃ t, exec .gladeShrink s = .next t ∧ t = { s with plots := t.plots, glades := t.glades } ∧
          t.gladeAt g = { x with st := .evacuate, grow := false, result := 0 } ∧
          ∀ k, t.plot k = if k ∈ ks then { s.plot k with st := .leaving } else s.plot k)) ∧
    (∀ mask, commanded s g 3 mask →
      (x.st ≠ .relocate ∨ x.underCommit = true → exec .gladeCommit s = .next (resulted s g 1)) ∧
      (x.st = .relocate → x.underCommit = false → exec .gladeCommit s =
        .next (s.setGlade g { x with copies := s.commitPairs g, committing := (s.commitPairs g).isEmpty, result := 0 }))) ∧
    (∀ mask, commanded s g 4 mask →
      (x.st ≠ .relocate ∨ x.underCommit = true → exec .gladeAbort s = .next (resulted s g 1)) ∧
      (x.st = .relocate → x.underCommit = false → ∃ t, exec .gladeAbort s = .next t ∧ t.gladeAt g =
          { x with st := .undo, result := 0, draining := x.draining.filter (fun v => decide ((s.plot v).st ≠ .leaving)),
                   drainUnits := x.drainUnits.filter (fun u => decide ((s.plot u.1).st ≠ .leaving)) } ∧
        t = { s with glades := t.glades, groups := t.groups } ∧
        ∀ k, t.groupAt k = if (s.groupAt k).glade = g ∧ (s.groupAt k).saving = true ∧ (s.groupAt k).saveCause = .evacuate ∧
            onLeaving s (s.groupAt k) = true then
          { s.groupAt k with saving := false, saveCause := .none } else s.groupAt k)) ∧
    (∀ mask, commanded s g 5 mask →
      (x.st = .undo ∨ (x.st = .rehash ∧ x.grow = true) ∨ (x.st = .relocate ∧ x.underCommit = true) →
        exec .gladeReset s = .next (s.setGlade g { x with resetDue := true })) ∧
      (x.st = .idle → (∀ n ∈ s.graph.nodes, n.glade = g → n.st ≠ .running ∧ (n.st = .cancelled → s.groupsOf n.id = [])) → s.l2 = [] → ∃ t, exec .gladeReset s = .next t ∧
        t.gladeAt g = { x with result := 6, resetDue := false, committing := false, copies := [] } ∧ irqMigration ∈ t.host.aplic ∧
        (∀ c ∈ t.rcache, c.core / 8 ∉ s.gladePlots g) ∧ (∀ b ∈ t.imem, b.core / 8 ∉ s.gladePlots g) ∧ t.mem = s.mem ∧ t.plots = s.plots)) ∧
    (s.arg = .unit g →
      (x.st = .evacuate → s.evac g = 0 → exec .rehashSweep s = .next (s.setGlade g { x with st := .rehash })) ∧
      (x.st = .evacuate → s.evac g ≠ 0 → exec .rehashSweep s = .next s) ∧
      (∀ l rest, x.st = .rehash ∨ x.st = .undo → s.strayLines g = l :: rest → ∃ t, exec .rehashSweep s = .next t ∧ t.mem = s.mem ∧
        t.l2Find l.line = some { l with slice := s.sliceFor g (64 * l.line) } ∧
        ((∀ y ∈ s.l2, y.slice ≠ s.sliceFor g (64 * l.line)) → t = { s with l2 := t.l2 } ∧ ∀ j, j ≠ l.line → t.l2Find j = s.l2Find j)) ∧
      (x.st ≠ .rehash ∨ s.strayLines g ≠ [] → exec .rehashDone s = .next s) ∧
      (x.st = .rehash → s.strayLines g = [] → x.grow = false → exec .rehashDone s = .next (s.setGlade g { x with st := .relocate })) ∧
      (x.st = .rehash → s.strayLines g = [] → x.grow = true → x.resetDue = false → ∃ t, exec .rehashDone s = .next t ∧
        t.gladeAt g = { x with st := .idle, result := 0, committing := false, copies := [] } ∧ irqMigration ∈ t.host.aplic ∧
        ∀ k, t.plot k = if k ∈ s.plotsIn g .joining then { s.plot k with st := .owned } else s.plot k) ∧
      (x.st ≠ .undo ∨ s.strayLines g ≠ [] → exec .undoDone s = .next s) ∧
      (x.st = .undo → s.strayLines g = [] → x.resetDue = false → ∃ t, exec .undoDone s = .next t ∧
        t.gladeAt g = { x with st := .idle, result := 7, committing := false, copies := [] } ∧ irqMigration ∈ t.host.aplic ∧
        ∀ k, t.plot k = if k ∈ s.plotsIn g .leaving then { s.plot k with st := .owned } else s.plot k) ∧
      (x.committing = false → exec .commitDrainDone s = .next s) ∧
      (x.committing = true → s.ops = [] → s.l2 = [] → x.resetDue = false → ∃ t, exec .commitDrainDone s = .next t ∧
        t.gladeAt g = { x with st := .idle, result := 0, committing := false, copies := [] } ∧
        (∀ k, t.plot k = if k ∈ s.plotsIn g .leaving then { st := .firebreak } else s.plot k) ∧ t.mem = s.mem)) ∧
    (∀ j c, s.arg = .pair g j → x.copies.find? (fun c => c.j == j) = some c → s.ops = [] → c.k < 32 → c.m < 32 → c.k ≠ c.m →
      ∃ t, exec .canopyCopyDone s = .next t ∧
        t = { s with mem := t.mem, poison := t.poison, latent := t.latent, plots := t.plots, glades := t.glades } ∧
        (∀ i, i < 2 ^ 21 → Map.get 0 t.mem (canopyPpa c.m i) = Map.get 0 s.mem (canopyPpa c.k i)) ∧ t.plot c.m = { s.plot c.m with seg := j } ∧
        (t.gladeAt g).copies = x.copies.filter (fun d => d.j != j) ∧
        ((t.gladeAt g).committing = true ↔ x.copies.filter (fun d => d.j != j) = [])) ∧
    ∀ ok, s.arg = .pair g ok → g < 32 →
      ((s.plot g).st ≠ .firebreak → exec .scrubDone s = .next s) ∧
      ((s.plot g).st = .firebreak → ∃ t, exec .scrubDone s = .next t ∧ t.plot g = { st := if ok = 0 then .failed else .free } ∧
        irqMigration ∈ t.host.aplic ∧ (∀ k, k ≠ g → t.plot k = s.plot k) ∧
        (∀ a, Map.get 0 t.mem a = if (g * 2 ^ 34 ≤ a ∧ a < (g + 1) * 2 ^ 34) ∨ (canopyPpa g 0 ≤ a ∧ a < canopyPpa g 0 + 2 ^ 21) then 0
          else Map.get 0 s.mem a) ∧ (t.groups, t.warps, t.ops) = (s.groups, s.warps, s.ops))

/-! ## Issue -/

/-- A warp on a core that stands between clauses, neither cancelled nor yielding, and what it sees as the current warp. -/
def Sys2Proof.Claims.between (s : State) (g w : Nat) (e : Entry) (rest : List Entry) : Prop :=
  s.arg = .pair g w ∧ w < 64 ∧ (∃ c, (s.groupAt g).place = .core c) ∧ (s.warpAt g w).live ≠ 0 ∧ (s.warpAt g w).clause.active = false ∧
    (s.groupAt g).saving = false ∧ (s.warpAt g w).yieldOn = [] ∧ (s.warpAt g w).front = e :: rest

/-- 08 R249, R250, R253, R255, R256, R259; 11 R319, R320, R325; 12 R374: issue between clauses. A clause begins at the entry whose
turn it is once it does not sleep and the flags of its header's WAIT read 0; a report due at those flags, a malformed header, or a
cancel is taken there as a trap. A missing block of instruction memory is filled from the overlay's image. The timers end a demotion, a
sleep and a yield, or boost a warp, and change nothing else. -/
def Obligations.ClauseIssue : Prop :=
  ∀ (s : State) (g w : Nat),
    let cur : State := { s with curG := g, curW := w }
    let x := s.warpAt g w
    let begun := fun (e : Entry) (h : Header) (words : List Word) => ({
      active := true, hdr := e.pc, len := h.len, pc := e.resume.getD (e.pc + 1), words := words, wait := h.wait, fa := h.fa, fb := h.fb,
      prio := h.prio, yld := h.yld, mask := e.mask, d := e.d, resume := e.resume, spin := e.spin } : Clause)
    (∀ e h words, between s g w e [] → x.cancelled = false → e.sleep = 0 → s.checkHeader (s.groupAt g) e.pc = .ok h words →
      (∀ i, i < 12 → h.wait.getLsbD i = true → x.getF i = 0) →
      (x.reports = [] → exec .clauseBegin s = .next (cur.setWarp { x with clause := begun e h words, stall := .none })) ∧
      (∀ r, x.reports = [r] → h.wait.getLsbD r.flag = true →
        exec .clauseBegin s = .next ((cur.setWarp { x with reports := [] }).takeTrap e.pc e.resume e.mask
          ⟨r.cause, r.mask.getD e.mask, r.addr, r.info.toNat⟩ (tpcOf e.pc e.pc) r.tier))) ∧
    (∀ a b ha wa hb wb, between s g w a [b] → x.cancelled = false → x.reports = [] → a.sleep = 0 → b.sleep = 0 →
      s.checkHeader (s.groupAt g) a.pc = .ok ha wa → s.checkHeader (s.groupAt g) b.pc = .ok hb wb → ha.wait = 0 → hb.wait = 0 →
      let second := (a.d = true ∧ b.d = false) ∨ (a.d = b.d ∧ s.prioAt (s.groupAt g) a.pc < s.prioAt (s.groupAt g) b.pc)
      (second → exec .clauseBegin s = .next (cur.setWarp { x with clause := begun b hb wb, stall := .none })) ∧
      (¬ second → exec .clauseBegin s = .next (cur.setWarp { x with clause := begun a ha wa, stall := .none }))) ∧
    (∀ e reason, between s g w e [] → x.cancelled = false → e.sleep = 0 → s.checkHeader (s.groupAt g) e.pc = .bad reason →
      exec .clauseBegin s = .next (cur.takeTrap e.pc e.resume e.mask ⟨0x02, e.mask, 0, reason⟩ (tpcOf e.pc e.pc))) ∧
    (∀ e, between s g w e [] → x.cancelled = true →
      exec .clauseBegin s = .next ((cur.setWarp { x with cancelled := false }).takeTrap e.pc e.resume e.mask ⟨0x11, e.mask, 0, 0⟩
        (tpcOf e.pc e.pc))) ∧
    (∀ e h words i, between s g w e [] → x.cancelled = false → s.checkHeader (s.groupAt g) e.pc = .ok h words → i < 12 → h.wait.getLsbD i = true →
      0 < x.getF i → exec .clauseBegin s = .next cur) ∧
    (∀ (a : CodeAddr) sl, s.arg = .triple g w a.toNat → (∃ c, (s.groupAt g).place = .core c) → x.live ≠ 0 → x.wordTag = none →
      x.wordFailed = none → (s.groupAt g).saving = false → x.clause.active = false → (s.groupAt g).slot (a.toNat / 16384) = some sl →
      a.toNat % 16384 < sl.length → (∀ y ∈ s.imem, y.image ≠ sl.image ∨ y.blk ≠ a.toNat % 16384 / 256) →
      let blk := a.toNat % 16384 / 256
      let va := sl.image + 64 + 1024 * blk
      let n := min 256 (sl.length - 256 * blk)
      let who := whoWarp (64 * g + w)
      (∀ bs u, cur.engRead who (s.groupAt g).ctx va (4 * n) = (.ok bs, u) → u.groups = s.groups → u.warps = s.warps → u.imem = s.imem →
        (u.curG, u.curW) = (g, w) → bs.length = 4 * n → ∃ t, exec .imemFill s = .next t ∧ t.mem = u.mem ∧
        t.imemWord (s.groupAt g) a = some (BitVec.ofNat 32 (ofBytes ((bs.drop (4 * (a.toNat % 256))).take 4)))) ∧
      (∀ u, cur.engRead who (s.groupAt g).ctx va (4 * n) = (.wait, u) → exec .imemFill s = .next u) ∧
      (∀ at' code ppa u, cur.engRead who (s.groupAt g).ctx va (4 * n) = (.park code at' ppa, u) → u.groups = s.groups → (u.curG, u.curW) = (g, w) →
        let (tag, v) := u.park (s.groupAt g).ctx at' code ppa .read 0
        exec .imemFill s = .next (v.setWarp { v.warp with wordTag := tag }))) ∧
    (∀ pc : CodeAddr, s.arg = .triple g w pc.toNat →
      (∃ t, exec .spinDemotionExpiry s = .next t ∧ t = { s with warps := t.warps } ∧
        (∀ k, k ≠ 64 * g + w → Map.get ({} : Warp) t.warps k = Map.get {} s.warps k) ∧
        (t.warpAt g w).frontier = x.frontier.map (fun e => { e with d := e.d && e.pc != pc }) ∧
        (t.warpAt g w).hfront = x.hfront.map (fun e => { e with d := e.d && e.pc != pc }) ∧
        ∀ r l, (t.warpAt g w).getV r l = x.getV r l ∧ (t.warpAt g w).getS r = x.getS r) ∧
      ∃ t, exec .sleepExpiry s = .next t ∧ t = { s with warps := t.warps } ∧
        (∀ k, k ≠ 64 * g + w → Map.get ({} : Warp) t.warps k = Map.get {} s.warps k) ∧
        t.warpAt g w = { x with frontier := x.frontier.map (fun e => { e with sleep := if e.pc = pc then 0 else e.sleep }),
                                hfront := x.hfront.map (fun e => { e with sleep := if e.pc = pc then 0 else e.sleep }) }) ∧
    (s.arg = .pair g w →
      (∃ t, exec .fairnessBoost s = .next t ∧ t = { s with warps := t.warps } ∧ t.warpAt g w = { x with boosted := true } ∧
        ∀ k, k ≠ 64 * g + w → Map.get ({} : Warp) t.warps k = Map.get {} s.warps k) ∧
      ∃ t, exec .yieldTimeout s = .next t ∧ t = { s with warps := t.warps } ∧ t.warpAt g w = { x with yieldOn := [] } ∧
        ∀ k, k ≠ 64 * g + w → Map.get ({} : Warp) t.warps k = Map.get {} s.warps k)

/-! ## Accesses at their points of performance -/

/-- A part of a plain access of a warp whose turn has come. -/
def Sys2Proof.Claims.turn (s : State) (o : Op) (b : AccessBody) (i choice g w : Nat) (p : Part) : Prop :=
  s.arg = .op o.id i choice ∧ s.op o.id = some o ∧ o.body = .access b ∧ o.owner = .warp g w ∧ o.cancelled = false ∧ o.ord = 0 ∧
    o.parts[i]? = some p ∧ p.state = .waiting ∧ s.partBehind o i p = false ∧ s.soBehind o p = false ∧ (o.space = 0 → p.ord ≠ .so)

/-- The operation with a part performed; when nothing of it is left it ends, and its flag falls by one. -/
def Sys2Proof.Claims.performedPart (s t : State) (o : Op) (b : AccessBody) (i g w : Nat) (p : Part) (data : List Byte) (quiet : Bool) : Prop :=
  let o' := o.setPart i { p with state := .performed, data := data, poisoned := false }
  let ended := o'.parts.any Part.pending = false ∧ o'.toWrite b = []
  (¬ ended → t.op o.id = some o' ∧ (quiet = true → t.warpAt g w = s.warpAt g w)) ∧
    (ended → t.op o.id = none ∧ (t.warpAt g w).getF o.flag = if o.flag = 15 then (s.warpAt g w).getF 15 else (s.warpAt g w).getF o.flag - 1) ∧
    (∀ r l, (t.warpAt g w).getV r l = (s.warpAt g w).getV r l ∧ (t.warpAt g w).getS r = (s.warpAt g w).getS r) ∧
    ∀ k, k ≠ 64 * g + w → Map.get ({} : Warp) t.warps k = Map.get {} s.warps k

/-- 08 R251, R252; 09 R269; 14 R419, R421 to R424: accesses. A part reads, stores, or changes its bytes at once, and nothing else in
memory; a loaded or returned value, and the results of a command, are written to their destination registers afterwards, one by one; with
the last of them the operation ends and its flag falls. A wait on a barrier that has its answer writes it and ends; one on a counter is due its
status. -/
def Obligations.AccessesPerformed : Prop :=
  ∀ (s : State) (o : Op) (g w : Nat),
    (∀ b i choice p h off, turn s o b i choice g w p → p.place = .scratch h off → (s.groupAt h).place ≠ .none →
      let old := Map.getMany 0 (s.groupAt h).cmem off p.len
      let after := fun (t : State) (bs : List Byte) => t.mem = s.mem ∧
        (t.groupAt h).cmem = Map.setMany 0 (s.groupAt h).cmem off bs ∧ ∀ k, k ≠ h → t.groupAt k = s.groupAt k
      (b.kind = .load → ∃ t, exec .accessPerformed s = .next t ∧ performedPart s t o b i g w p old true ∧ t.mem = s.mem ∧ t.groups = s.groups) ∧
      (b.kind = .store → ∃ t, exec .accessPerformed s = .next t ∧ performedPart s t o b i g w p old true ∧ after t p.data) ∧
      ∀ aop, b.kind = .atomic aop → ∃ t, exec .accessPerformed s = .next t ∧ performedPart s t o b i g w p old false ∧
        after t (bytesOf p.len (atomicNew aop p.len (ofBytes old) p.x p.cmp))) ∧
    (∀ b i p a, turn s o b i 0 g w p → p.place = .phys a → ppaKind a = 0 → s.mayReach (s.opCtx o) a false = true → s.latent = [] →
      s.poisoned a p.len = false → s.pod.sealed = [] → s.xlat.dirtyEn = false →
      let old := s.readN a p.len
      let after := fun (t : State) (bs : List Byte) => ∀ x, t.readB x = if a ≤ x ∧ x < a + bs.length then bs[x - a]?.getD 0 else s.readB x
      (b.kind = .load → ∃ t, exec .accessPerformed s = .next t ∧ performedPart s t o b i g w p old true ∧ t.mem = s.mem ∧ t.groups = s.groups) ∧
      (b.kind = .store → ∃ t, exec .accessPerformed s = .next t ∧ performedPart s t o b i g w p [] true ∧ after t p.data ∧ t.groups = s.groups) ∧
      ∀ aop, b.kind = .atomic aop → ∃ t, exec .accessPerformed s = .next t ∧ performedPart s t o b i g w p old false ∧
        after t (bytesOf p.len (atomicNew aop p.len (ofBytes old) p.x p.cmp)) ∧ t.groups = s.groups) ∧
    (∀ b l r choice, s.arg = .op o.id (o.parts.length + 4 * l + r) choice → s.op o.id = some o → o.body = .access b → o.owner = .warp g w →
      o.cancelled = false → l < 32 → r < 4 → (l, r) ∈ o.toWrite b → (b.uniform = false → b.dst + r < 256) →
      let x := BitVec.ofNat 32 (o.laneValue b l / 2 ^ (32 * r))
      ∃ t, exec .accessPerformed s = .next t ∧ t.mem = s.mem ∧ t.groups = s.groups ∧
        (∀ k, k ≠ 64 * g + w → Map.get ({} : Warp) t.warps k = Map.get {} s.warps k) ∧
        (∀ r' l', l' < 32 → (t.warpAt g w).getV r' l' =
          if b.uniform = false ∧ r' = b.dst + r ∧ l' = l then x else (s.warpAt g w).getV r' l') ∧
        (∀ r', (t.warpAt g w).getS r' = if b.uniform = true ∧ r' = b.dst + r then x else (s.warpAt g w).getS r') ∧
        (o.toWrite b = [(l, r)] → o.parts.any Part.pending = false → t.op o.id = none ∧
          ((t.warpAt g w).getF o.flag = if o.flag = 15 then (s.warpAt g w).getF 15 else (s.warpAt g w).getF o.flag - 1))) ∧
    ∀ i choice, s.arg = .op o.id i choice → s.op o.id = some o → o.owner = .warp g w →
      let ended := fun (t : State) => t.op o.id = none ∧
        (∀ f, (t.warpAt g w).getF f = if f = o.flag ∧ f ≠ 15 then (s.warpAt g w).getF f - 1 else (s.warpAt g w).getF f) ∧ t.mem = s.mem ∧ t.groups = s.groups
      let same := fun (t : State) => ∀ r l, (t.warpAt g w).getV r l = (s.warpAt g w).getV r l ∧ (t.warpAt g w).getS r = (s.warpAt g w).getS r
      (o.body = .nothing → ∃ t, exec .accessPerformed s = .next t ∧ ended t ∧ same t) ∧
      (∀ b, o.body = .access b → o.cancelled = true → ∃ t, exec .accessPerformed s = .next t ∧ ended t ∧ same t) ∧
      (∀ b x, o.body = .barWait b → b.answer = some x → s.resident o = true → ∃ t, exec .accessPerformed s = .next t ∧ ended t ∧ same t ∧
        ∀ q, (t.warpAt g w).getQ q = if q = b.dreg then x else (s.warpAt g w).getQ q) ∧
      (∀ b st c, o.body = .cntWait b → b.answer = some st → (s.groupAt g).place = .core c → ∃ t, exec .accessPerformed s = .next t ∧
        t.op o.id = some (due o [(sKey b.dreg, BitVec.ofNat 32 st)]) ∧ t.warps = s.warps ∧ t.mem = s.mem ∧ t.groups = s.groups ∧
        (st = 0 → ∀ x ∈ t.rcache, x.core ≠ c)) ∧
      (∀ todo x, o.body = .result todo → todo[i]? = some x → s.resident o = true → ∃ t, exec .accessPerformed s = .next t ∧
        (∀ r l, r < 256 → l < 32 → (t.warpAt g w).getV r l = if x.1 = 32 * r + l then x.2 else (s.warpAt g w).getV r l) ∧
        (∀ r, (t.warpAt g w).getS r = if x.1 = sKey r then x.2 else (s.warpAt g w).getS r) ∧
        (todo.length = 1 → ended t) ∧
        (1 < todo.length → t.op o.id = some { o with body := .result (todo.eraseIdx i) } ∧ t.mem = s.mem ∧ t.groups = s.groups ∧
          ∀ f, (t.warpAt g w).getF f = (s.warpAt g w).getF f)) ∧
      (∀ b, o.body = .txcan b → s.ops.any (fun x => b.targets.contains x.id) = false →
        ∃ t, exec .accessPerformed s = .next t ∧ ended t ∧ same t)

/-! ## Commands at work -/

/-- An operation of a warp that is not cancelled. -/
def Sys2Proof.Claims.running (s : State) (o : Op) (g w : Nat) : Prop :=
  s.arg = .unit o.id ∧ s.op o.id = some o ∧ o.owner = .warp g w ∧ o.cancelled = false

/-- The work of an operation is done, and its results are due (08 R252); its warp is as it was. -/
def Sys2Proof.Claims.owes (s t : State) (o : Op) (todo : List (Nat × Word)) : Prop :=
  t.op o.id = some (due o todo) ∧ t.warps = s.warps

/-- 12 R350, R372; 14 R426, R427, R435 to R437, R444: the commands. A copy writes its lanes in the order of their destinations, then
is due each lane's status word and frees its channel for the next; a queue operation takes effect at its module once no head holds its
lines and is due its result and entry; a publication flips the buffer's version once the writes before it are done, and is due 2 for a buffer
that is not valid and 1 where the address is no back view; an overlay is bound by its header, with 1 for a bad image and 2 for a handler slot
that is not its own; a wait on the scratchpad is due the value once it meets its condition or its time has passed. -/
def Obligations.CommandsAtWork : Prop :=
  ∀ (s : State) (o : Op) (g w : Nat), running s o g w →
    (∀ b i l, o.body = .cpa b → s.resident o = true → s.cpaHead g o.id b.chan = true → b.next = some (i, l) →
      let wrote := fun (u t : State) (fails : Bool) =>
        t = { u with ops := t.ops } ∧ ∃ c, (t.op o.id).map (fun x => x.body) = some (.cpa c) ∧
          c = { b with lanes := c.lanes } ∧ c.lanes[i]? = (b.lanes[i]?).map (fun x => { x with done := true, failed := fails || x.failed }) ∧
          ∀ j, j ≠ i → c.lanes[j]? = b.lanes[j]?
      (l.src.state = .performed → l.src.poisoned = false → ∃ t, exec .cpaCompletion s = .next t ∧
        wrote (s.putLocal (s.placeOf g w l.lane b.dstSpace l.dst) l.src.data) t false) ∧
      (l.src.state = .failed ∨ (l.src.state = .performed ∧ l.src.poisoned = true) → ∃ t, exec .cpaCompletion s = .next t ∧ wrote s t true) ∧
      ∀ h off, l.src.state = .waiting → l.src.place = .scratch h off → o.ord ≠ 2 → ∃ t, exec .cpaCompletion s = .next t ∧
        wrote (s.putLocal (s.placeOf g w l.lane b.dstSpace l.dst) (Map.getMany 0 (s.groupAt h).cmem off l.src.len)) t false) ∧
    (∀ b, o.body = .cpa b → s.resident o = true → s.cpaHead g o.id b.chan = true → b.next = none → b.bar = none →
      ∃ t, exec .cpaCompletion s = .next t ∧ owes s t o (b.lanes.map (fun l =>
          (32 * b.dreg + l.lane, BitVec.ofNat 32 (if l.failed then 0x10 * 2 ^ 24 else min b.bytes 0xFFFFFF)))) ∧ t.mem = s.mem ∧
        Map.get {} (t.groupAt g).chans b.chan =
          { (Map.get {} (s.groupAt g).chans b.chan : Channel) with lastSeq := b.seq, lastSpan := b.span } ∧
        (t.groupAt g).cmem = (s.groupAt g).cmem ∧ (t.groupAt g).lmem = (s.groupAt g).lmem) ∧
    (∀ b p ps, o.body = .mq b → o.parts = p :: ps →
      let ends := fun (v : State) (res : Nat) (data : List Byte) (t : State) => exec .mqResult s = .next t ∧ t.mem = v.mem ∧
        owes s t o ((if b.enq = true ∨ res ≠ 0 then [] else (List.range (b.bytes / 4)).map (fun k =>
          (sKey (b.sreg + k), BitVec.ofNat 32 (ofBytes ((data.drop (4 * k)).take 4))))) ++ [(sKey b.dreg, BitVec.ofNat 32 res)])
      let malformed := fun (t : State) => exec .mqResult s = .next t ∧ t.op o.id = none ∧ (t.warpAt g w).s = (s.warpAt g w).s ∧
        ∃ r, (t.warpAt g w).reports = (s.warpAt g w).reports ++ [r] ∧ r.cause = 0x07 ∧ r.addr = b.va ∧ r.flag = o.flag ∧ r.mask = some o.emask
      (∀ res data, b.answer = some (res, data) → (res ≠ 3 → ∃ t, ends s res data t) ∧ (res = 3 → ∃ t, malformed t)) ∧
      ∀ m off k res data u, b.answer = none → p.state = .waiting → p.place = .phys (modPpa m off) → m < 128 → off < 2 ^ 50 →
        (b.enq = false ∨ p.ord = .uo ∨ (s.relBlocked o = false ∧ o.scope ≠ 5)) → s.mayReach (s.opCtx o) (modPpa m off) true = true →
        s.modRoute m = .direct k → (s.module m).failed = false → s.linkOk k (s.opCtx o) m = true → s.poisoned (modPpa m off) 64 = false →
        (s.module m).reqs = [] → (∀ l ∈ s.queueLines m off, (s.dirAt m l).owner = none ∧ (s.dirAt m l).sharers = []) →
        s.queueOp m off b.bytes b.enq b.data = (res, data, u) →
        (res ≠ 3 → ∃ t, ends u res data t) ∧ (res = 3 → ∃ t, malformed t)) ∧
    (∀ b p ps back sb page off, o.body = .pub b → o.parts = p :: ps → p.state = .waiting →
      let ends := fun (status : Word) (t : State) => exec .pubFlip s = .next t ∧ owes s t o [(sKey b.dreg, status)] ∧ t.mem = s.mem
      ((∀ x y z v, p.place ≠ .shadow x y z v) → ∃ t, ends 1 t ∧ t.xlat = s.xlat) ∧
      (p.place = .shadow back sb page off →
        (s.sbValid sb = false → ∃ t, ends 2 t ∧ t.xlat = s.xlat) ∧
        (s.sbValid sb = true → s.backWrites sb o.id = true ∨ s.relBlocked o = true → exec .pubFlip s = .next s) ∧
        (s.sbValid sb = true → s.backWrites sb o.id = false → s.relBlocked o = false → o.scope ≠ 5 → ∃ t, ends 0 t ∧
          ∀ k, t.version k = if k = sb then !s.version k else s.version k))) ∧
    (∀ b, o.body = .ovlld b → o.failed = false → o.park = none → o.queuedCode ≠ some 0 →
      let who := whoOp o.id 0
      let at' := (s.groupAt g).ovltab + 8 * b.ovl
      (∀ u, s.engRead who (s.opCtx o) at' 8 = (.wait, u) → exec .ovlldCompletion s = .next u) ∧
      ∀ e u, s.engRead who (s.opCtx o) at' 8 = (.ok e, u) →
        (∀ v, u.engRead who (u.opCtx o) (ofBytes e) 64 = (.wait, v) → exec .ovlldCompletion s = .next v) ∧
        ∀ h v, u.engRead who (u.opCtx o) (ofBytes e) 64 = (.ok h, v) → v.ops = s.ops → v.warps = s.warps → v.groups = s.groups →
          let image := ofBytes e
          let done := fun (status : Word) (t : State) => exec .ovlldCompletion s = .next t ∧ owes s t o [(sKey b.dreg, status)] ∧ t.mem = v.mem
          (imageHeader h = none ∨ image % 64 ≠ 0 → ∃ t, done 1 t ∧ t.groups = s.groups ∧ t.imem = v.imem) ∧
          ∀ len home, imageHeader h = some (len, home) → image % 64 = 0 →
            (home = 3 → b.ovl ≠ (s.groupAt g).handler → ∃ t, done 2 t ∧ t.groups = s.groups ∧ t.imem = v.imem) ∧
            (home ≠ 3 ∨ b.ovl = (s.groupAt g).handler → ∃ t, done 0 t ∧ ∃ sl, (t.groupAt g).slot home = some sl ∧ sl.ovl = b.ovl ∧
              (((s.groupAt g).slot home).any (fun x => x.ovl == b.ovl) = false → sl = ⟨b.ovl, image, len⟩ ∧
                ∀ x ∈ t.imem, ¬ (x.ctx = (s.groupAt g).ctx ∧ x.image = image)))) ∧
    ∀ b h off, o.body = .waitmem b → s.resident o = true → b.part.state = .waiting → b.part.place = .scratch h off → b.space ≠ 0 →
      (∀ x ∈ s.ops, x.id = o.id ∨ x.owner ≠ o.owner) → o.ord = 0 → b.part.len = (if b.wide then 8 else 4) →
      let v := ofBytes (Map.getMany 0 (s.groupAt h).cmem off b.part.len)
      let met := b.elapsed = true ∨ waitMet b.cmp b.part.len v b.value = true
      (¬ met → ∃ t, exec .waitmemRecheck s = .next t ∧ t.warps = s.warps ∧ t.groups = s.groups ∧ t.mem = s.mem ∧ (t.op o.id).isSome = true) ∧
      (met → ∃ t, exec .waitmemRecheck s = .next t ∧ t.groups = s.groups ∧ t.mem = s.mem ∧
        owes s t o ((sKey b.dreg, BitVec.ofNat 32 v) :: if b.wide then [(sKey (b.dreg + 1), BitVec.ofNat 32 (v / 2 ^ 32))] else []))

/-! ## The matrix unit at work -/

/-- A queued command that takes its next step now. -/
def Sys2Proof.Claims.stepping (s : State) (k : Nat) (c : MxCmd) : Prop :=
  s.arg = .unit c.op ∧ s.mxFind c.op = some (k, c) ∧ s.mxReady k c = true ∧ (∀ o, s.op c.op = some o → o.cancelled = false) ∧
    s.dead k = none

/-- The bytes of a row of which every 16-byte part has been read. -/
def Sys2Proof.Claims.rowRead (c : MxCmd) (a : Int) (n : Nat) : Option (List Byte) :=
  let parts := (granulesAt a.toNat n).map (fun p => (c.got.find? (fun g => g.1 == p.1)).map (fun g => g.2))
  if parts.all (fun p => p.isSome) then some (parts.flatMap (fun p => p.getD [])) else none

/-- A step that reads one more 16-byte part of a row. -/
def Sys2Proof.Claims.partRead (s t : State) (k : Nat) (c : MxCmd) (space : Nat) (a : Int) (n : Nat) : Prop :=
  (t.groups, t.warps, t.ops, t.mem) = (s.groups, s.warps, s.ops, s.mem) ∧ (t.quadAt k).acc = (s.quadAt k).acc ∧
    ((t.quadAt k).active, (t.quadAt k).shadow) = ((s.quadAt k).active, (s.quadAt k).shadow) ∧
    ∃ p ∈ granulesAt a.toNat n, (∀ g ∈ c.got, g.1 ≠ p.1) ∧ (t.quadAt k).queue = (s.quadAt k).queue.map (fun e =>
      if e.op = c.op then { c with got := c.got ++ [(p.1, s.mxRead c.gid space p.1 p.2)] } else e)

/-- 09 R277; 15 R448, R452 to R462, R465: the queued matrix commands. Fusing empties the planes of both quadrants, and a release frees
them; a row of weights or of a stream is read in 16-byte parts, in any order; then a weight row enters the shadow plane of an unfused quadrant,
whose format is latched with the last, and which stays EMPTY, with a report of UNCORRECTABLE, when a byte of the last could not be read; a swap
exchanges the planes; a stream row adds to one accumulator row of it; a drained row is formed, may be cleared, and is written part by part; a
clear zeroes whole tiles; a status or a read of the accumulators is due its registers. A row that fails goes onto a spare, and the third one
takes the quadrant offline. -/
def Obligations.MatrixAtWork : Prop :=
  ∀ (s : State) (k : Nat),
    (∀ c, stepping s k c →
      let q := s.quadAt k
      let other := s.quadAt (partner k)
      let queued := fun (t : State) (d : MxCmd) => (t.quadAt k).queue = q.queue.map (fun e => if e.op = c.op then d else e)
      (∀ mode, c.body = .qfuse mode → mode < 2 → ∃ t, exec .matrixCommandCompletion s = .next t ∧
        (t.quadAt k).fused = (mode == 1) ∧ ((t.quadAt k).active, (t.quadAt k).shadow) = ({}, {}) ∧ (t.quadAt k).acc = q.acc ∧
        ((t.quadAt (partner k)).active, (t.quadAt (partner k)).shadow) = ({}, {}) ∧ (t.quadAt (partner k)).acc = other.acc ∧ t.op c.op = none) ∧
      (c.body = .qfuse 2 → ∃ t, exec .matrixCommandCompletion s = .next t ∧ t.op c.op = none ∧ (t.quadAt k).fused = false ∧
        (t.quadAt k).acc = [] ∧ (t.quadAt k).active = {} ∧ (q.queue = [c] → (t.quadAt k).holder = none) ∧
        (q.fused = false → t.quadAt (partner k) = other) ∧
        (q.fused = true → (t.quadAt (partner k)).acc = [] ∧ (other.queue = [] → (t.quadAt (partner k)).holder = none))) ∧
      (∀ d, c.body = .wload d → c.bad = none →
        let a := (d.saddr : Int) + (c.row : Int) * d.stride
        let n := mxRowBytes d.fmt
        (rowRead c a n = none → ∃ t, exec .matrixCommandCompletion s = .next t ∧ partRead s t k c d.space a n) ∧
        ∀ bs, rowRead c a n = some bs → bs.length = n → q.fused = false → c.row < 32 → ∃ t, exec .matrixCommandCompletion s = .next t ∧
          (t.quadAt k).active = q.active ∧ (t.quadAt k).acc = q.acc ∧ Map.getMany 0 (t.quadAt k).shadow.bytes (64 * c.row) n = bs ∧
          (t.quadAt k).shadow.fmt = (if c.row = 31 then some d.fmt else none) ∧ (t.quadAt k).shadow.scale = d.scale ∧
          (c.row = 31 → t.op c.op = none) ∧ (c.row < 31 → queued t { c with row := c.row + 1, got := [], out := none })) ∧
      (c.body = .wswap → ∃ t, exec .matrixCommandCompletion s = .next t ∧ t.op c.op = none ∧
        ((t.quadAt k).active, (t.quadAt k).shadow) = (q.shadow, q.active) ∧ (t.quadAt k).acc = q.acc ∧
        ((t.quadAt (partner k)).active, (t.quadAt (partner k)).shadow) =
          (if q.fused then (other.shadow, other.active) else (other.active, other.shadow))) ∧
      (∀ d wf, c.body = .mms d → q.active.fmt = some wf →
        let a := (d.addr : Int) + (c.row : Int) * d.stride
        let n := if q.fused then 2 * mxRowBytes d.afmt else mxRowBytes d.afmt
        (rowRead c a n = none → ∃ t, exec .matrixCommandCompletion s = .next t ∧ partRead s t k c d.space a n) ∧
        ∀ bs, rowRead c a n = some bs → q.fused = false → ∃ t, exec .matrixCommandCompletion s = .next t ∧
          let sigma := c.sigma.getD (BitVec.ofNat 32 (Fmt.f32.mul FpMode.plain d.ascale.toNat q.active.scale.toNat).1)
          let out := mmsRow (wf == 4) d.ovw (mxRow d.afmt (bs.take n)) q.active.weights ((List.range 64).filter (fun i => d.kmask.getLsbD i))
            sigma.toNat (q.accRow (d.row0 + c.row))
          (t.quadAt k).acc = (q.setAccRow (d.row0 + c.row) out.1).acc ∧ (t.quadAt k).active = q.active ∧ (t.quadAt k).shadow = q.shadow ∧
          (t.groupAt c.gid).gnstat = (s.groupAt c.gid).gnstat ||| out.2.1.bits ∧ (t.groupAt c.gid).cmem = (s.groupAt c.gid).cmem ∧
          (d.rows ≤ c.row + 1 → t.op c.op = none ∧ (t.quadAt k).awm = ⟨d.seq, d.row0, d.rows⟩)) ∧
      (∀ d, c.body = .adrn d →
        let r := 32 * d.tile0 + c.row
        let out := drainRow (drainMode c.fmode d.ofmt) d.ofmt d.oscale.toNat (q.accRow r)
        let a := ((d.daddr : Int) + (c.row : Int) * d.stride).toNat
        (c.out = none → ∃ t, exec .matrixCommandCompletion s = .next t ∧
          (t.groupAt c.gid).gnstat = (s.groupAt c.gid).gnstat ||| out.2.1.bits ∧ (t.groupAt c.gid).cmem = (s.groupAt c.gid).cmem ∧
          (t.quadAt k).acc = (if d.clr then (q.setAccRow r (List.replicate 32 0)).acc else q.acc) ∧
          Map.get 0 (t.quadAt k).sat (r / 32) = min (2 ^ 32 - 1) (Map.get 0 q.sat (r / 32) + out.2.2.1) ∧
          ∃ e : MxCmd, queued t { e with out := some ((granulesAt a out.1.length).map (fun p => (p.1, (out.1.drop (p.1 - a)).take p.2))) } ∧
            (e.op, e.row, e.body) = (c.op, c.row, c.body)) ∧
        (∀ l, c.out = some l → l ≠ [] → d.dspace = 1 → (s.groupAt c.gid).place ≠ .none → ∃ t i p, exec .matrixCommandCompletion s = .next t ∧
          l[i]? = some p ∧ (t.groupAt c.gid).cmem = Map.setMany 0 (s.groupAt c.gid).cmem p.1 p.2 ∧ (t.quadAt k).acc = q.acc ∧
          queued t { c with out := some (l.eraseIdx i) }) ∧
        (c.out = some [] → d.be = false → ∃ t, exec .matrixCommandCompletion s = .next t ∧ t.groups = s.groups ∧ (t.quadAt k).acc = q.acc ∧
          (32 * d.ntiles ≤ c.row + 1 → t.op c.op = none) ∧
          (c.row + 1 < 32 * d.ntiles → queued t { c with row := c.row + 1, got := [], out := none }))) ∧
      (∀ m, c.body = .aclr m → ∃ t, exec .matrixCommandCompletion s = .next t ∧ t.op c.op = none ∧
        (∀ e, Map.get 0 (t.quadAt k).acc e = if m.getLsbD (e / 1024) then 0 else Map.get 0 q.acc e) ∧
        (∀ e, Map.get 0 (t.quadAt k).sat e = if m.getLsbD e then 0 else Map.get 0 q.sat e) ∧ (t.quadAt k).active = q.active) ∧
      (∀ kind tile clr dreg o, c.body = .mstat kind tile clr dreg → s.op c.op = some o → ∃ t, exec .matrixCommandCompletion s = .next t ∧
        owes s t o [(sKey dreg, BitVec.ofNat 32 (q.status kind tile))] ∧
        (∀ e, Map.get 0 (t.quadAt k).sat e = if clr = true ∧ e = tile then 0 else Map.get 0 q.sat e) ∧ (t.quadAt k).acc = q.acc ∧
        (t.quadAt k).queue = q.queue.filter (fun e => e.op != c.op)) ∧
      (∀ m dreg addrs o, c.body = .ardl m dreg addrs → s.op c.op = some o → ∃ (t : State) (x : Nat → Word), exec .matrixCommandCompletion s = .next t ∧
        owes s t o ((lanesOf m).map (fun l => (32 * dreg + l, x l))) ∧ (t.quadAt k).acc = q.acc ∧
        (∀ l a, (l, a) ∈ addrs → (addrs.map (fun y => y.1)).Nodup → x l = Map.get 0 q.acc (32 * (a.toNat % 512) + a.toNat / 2 ^ 16 % 32)) ∧
        (t.quadAt k).queue = q.queue.filter (fun e => e.op != c.op))) ∧
    (∀ c, s.arg = .unit c.op → s.mxFind c.op = some (k, c) → s.mxReady k c = false → exec .matrixCommandCompletion s = .next s) ∧
    (∀ c d a, s.arg = .op c.op 0 a → s.mxFind c.op = some (k, c) → s.mxReady k c = true → (∀ o, s.op c.op = some o → o.cancelled = false) →
      s.dead k = none → (s.quadAt k).fused = false → c.body = .wload d → c.nan = none → c.row = 31 →
      rowRead c ((d.saddr : Int) + (c.row : Int) * d.stride) (mxRowBytes d.fmt) ≠ none →
      ((d.saddr : Int) + 31 * d.stride).toNat ≤ a → a < ((d.saddr : Int) + 31 * d.stride).toNat + mxRowBytes d.fmt →
      ∃ t, exec .matrixCommandCompletion s = .next t ∧ t.op c.op = none ∧ (t.quadAt k).shadow.fmt = none ∧
        (t.quadAt k).active = (s.quadAt k).active ∧ (t.quadAt k).acc = (s.quadAt k).acc ∧
        ∃ r, (t.warpAt c.gid c.wid).reports = (s.warpAt c.gid c.wid).reports ++ [r] ∧ r.cause = 0x10 ∧ r.order = c.op ∧
          r.addr = (c.bad.map (fun b => min a b)).getD a ∧ r.info = BitVec.ofNat 32 (d.space + 48)) ∧
    ∀ row, s.arg = .pair k row →
      ((s.quadAt k).queue = [] → (s.quadAt (partner k)).queue = [] → ∃ t, exec .arrayRowFailure s = .next t ∧
        (∀ j, j ≠ k → t.quadAt j = s.quadAt j) ∧ t = { s with quads := t.quads } ∧
        t.quadAt k = if (s.quadAt k).spares.length < 2 then { s.quadAt k with spares := (s.quadAt k).spares ++ [row] }
          else { s.quadAt k with offline := true }) ∧
      ∀ c g w, (s.quadAt k).queue = [c] → c.body.cls ≠ .all → (s.quadAt k).fused = false → (s.quadAt (partner k)).fused = false →
        s.mxReady k c = true → (c.gid, c.wid) = (g, w) → ∃ t, exec .arrayRowFailure s = .next t ∧ (t.quadAt k).queue = [] ∧ t.op c.op = none ∧
          ∃ r, (t.warpAt g w).reports = (s.warpAt g w).reports ++ [r] ∧ r.cause = 0x10 ∧ r.order = c.op ∧
            r.info = BitVec.ofNat 32 (63 + 256 * (k % 4) + 1024 * row)

/-! ## Tile transfers at work -/

/-- A running tile transfer of a warp: its next step. -/
def Sys2Proof.Claims.moving (s : State) (o : Op) (b : TxfBody) (g w n choice : Nat) : Prop :=
  s.arg = .op o.id n choice ∧ s.op o.id = some o ∧ o.owner = .warp g w ∧ o.body = .txf b ∧ o.failed = false ∧ o.cancelled = false ∧
    o.park = none ∧ o.queuedCode ≠ some 0 ∧ s.resident o = true

/-- 14 R438 to R442: a copy within the scratchpad takes its parts in any order, each read whole from its source and written to its
destination; when none is left its work is done. Then its barriers lose its bytes, its status word is written, and last its register is due
its status. A part that lies outside its space, or a status word that cannot be written, ends the work with FAULT, and no barrier is touched; a
barrier that is gone, or another one by now, ends it with the code for that. -/
def Obligations.TransfersAtWork : Prop :=
  ∀ (s : State) (o : Op) (b : TxfBody) (g w n choice : Nat), moving s o b g w n choice →
    let became := fun (t : State) (c : TxfBody) => t.op o.id = some { o with body := .txf c }
    (b.stage = 0 → b.ending = 0 → b.shape.kind = 0 → b.left = [] → ∃ t, exec .txfCompletion s = .next t ∧ t.mem = s.mem ∧
      t.groups = s.groups ∧ t.warps = s.warps ∧
      became t { b with ending := 1, count := b.bytesDone, stage := 2, sent := [], got := [] }) ∧
    (∀ e len, b.stage = 0 → b.ending = 0 → b.shape.kind = 0 → b.shape.sspace = 1 → b.shape.dspace = 1 → b.sent = [] → b.got = [] →
      b.left[n % b.left.length]? = some (e, len) → 0 < len → 0 ≤ b.shape.srcOf e → 0 ≤ b.shape.dstOf e →
      (b.shape.srcOf e).toNat % 16 + len ≤ 16 → (b.shape.srcOf e).toNat + len ≤ (s.groupAt g).scratch →
      (b.shape.dstOf e).toNat + len ≤ (s.groupAt g).scratch → (s.groupAt g).place ≠ .none → ∃ t, exec .txfCompletion s = .next t ∧ t.mem = s.mem ∧
        (t.groupAt g).cmem = Map.setMany 0 (s.groupAt g).cmem (b.shape.dstOf e).toNat
          (Map.getMany 0 (s.groupAt g).cmem (b.shape.srcOf e).toNat len) ∧
        (∀ k, k ≠ g → t.groupAt k = s.groupAt k) ∧ t.warps = s.warps ∧ became t { b with written := e :: b.written }) ∧
    (∀ e len, b.stage = 0 → b.ending = 0 → b.shape.kind = 0 → b.shape.sspace = 1 → b.sent = [] → b.got = [] →
      b.left[n % b.left.length]? = some (e, len) → 0 < len → len ≤ 16 → b.shape.srcOf e < 0 →
      ∃ t, exec .txfCompletion s = .next t ∧ t.mem = s.mem ∧ t.groups = s.groups ∧ became t { b with ending := 0x11 }) ∧
    (∀ c, b.stage = 0 → b.shape.kind = 0 → b.ending = c + 1 → ∃ t, exec .txfCompletion s = .next t ∧
      became t { b with count := b.bytesDone, stage := 2, sent := [], got := [] }) ∧
    (∀ c, b.stage = 2 → o.scope ≠ 5 → b.shape.kind = 0 → (s.groupAt g).place = .core c → b.ending = 0x11 ∨ b.ending = 0x13 →
      ∃ t, exec .txfCompletion s = .next t ∧ became t { b with stage := 3 } ∧ t.mem = s.mem ∧ t.groups = s.groups) ∧
    (∀ c u, b.stage = 2 → o.scope ≠ 5 → b.shape.kind = 0 → (s.groupAt g).place = .core c → b.ending ≠ 0x11 → b.ending ≠ 0x13 →
      (s.dropCache c).statusOk o b = (some false, u) → u.ops = s.ops →
      ∃ t, exec .txfCompletion s = .next t ∧ became t { b with stage := 3, ending := 0x11 } ∧ t.mem = u.mem ∧ t.groups = u.groups) ∧
    (∀ c u, b.stage = 2 → b.gen = [] → o.scope ≠ 5 → b.shape.kind = 0 → (s.groupAt g).place = .core c → b.ending ≠ 0x11 → b.ending ≠ 0x13 →
      (s.dropCache c).statusOk o b = (some true, u) → u.ops = s.ops →
      ∃ t, exec .txfCompletion s = .next t ∧ became t { b with stage := 3 } ∧ t.mem = u.mem ∧ t.groups = u.groups) ∧
    (∀ a gen c u, b.stage = 2 → b.gen = [(a, gen)] → o.scope ≠ 5 → b.shape.kind = 0 → (s.groupAt g).place = .core c →
      (s.dropCache c).statusOk o b = (some true, u) → u.ops = s.ops → u.groups = s.groups →
      (b.ending = 1 → b.shape.bspace = 1 → a + 16 ≤ (s.groupAt g).scratch →
        let x := s.bar (g, a)
        let left := x.pb - b.count
        let due := x.pa = 0 ∧ left = 0
        let good := x.st = 1 ∧ gen = some x.gen ∧ -(2 ^ 31) ≤ left ∧ left < 2 ^ 31
        (¬ good → ∃ t, exec .txfCompletion s = .next t ∧ became t { b with stage := 3, ending := 0x12 } ∧ t.groups = s.groups) ∧
        (good → ¬ due → ∃ t, exec .txfCompletion s = .next t ∧ became t { b with stage := 3 } ∧ t.bar (g, a) = { x with pb := left }) ∧
        (good → due → ∃ t, exec .txfCompletion s = .next t ∧ became t { b with stage := 3 } ∧
          t.bar (g, a) = { x with pb := 0, ph := !x.ph, pa := x.ex, w := 0 }))) ∧
    (b.stage = 3 → b.shape.stataddr = 0 → ∃ t, exec .txfCompletion s = .next t ∧ became t { b with stage := 4, sent := [], got := [] } ∧ t.mem = s.mem) ∧
    (b.stage = 4 → b.nodeStat = 0 → ∃ t, exec .txfCompletion s = .next t ∧ became t { b with stage := 5, sent := [], got := [] } ∧ t.mem = s.mem) ∧
    (b.stage = 5 → ∃ t, exec .txfCompletion s = .next t ∧ t.mem = s.mem ∧
      owes s t o [(sKey b.dreg, BitVec.ofNat 32 ((b.ending - 1) * 2 ^ 24 + min b.count 0xFFFFFF))])

/-! ## The encoding -/

/-- 11 Tables 11-1 to 11-6, R328 to R338: what a few words say, one of each format. The literal of an operand is the next word. -/
def Obligations.DecodeWords : Prop :=
  let l : LSrc := .vreg 6
  decode [0x1BC306C2] = .ok (.shl ⟨7, 6, 6, .inl 66⟩, []) ∧
  decode [0x01C286FF, 0x12345678, 0] = .ok (.iadd ⟨7, 5, 6, .lit 0x12345678⟩, [0]) ∧
  decode [0x41C20406, 0x0F000000] = .ok (.iadd64 ⟨7, 4, 4, l, .vreg 0, false, false, false, false, 0, false, 0⟩, []) ∧
  decode [0x63C08400, 0x04000000] = .ok (.ld ⟨7, 1, 4, .vreg 0, ⟨0, 2, false, 0, 0, 0, false, 0, 0⟩⟩, []) ∧
  decode [0x58007FFE] = .ok (.br ⟨0, 0, 0x7FFE⟩, []) ∧
  decode [0x5FC00000] = .ok (.exit ⟨7, 0, 0⟩, []) ∧
  decode [0x61C00300, 0x00050120] = .ok (.jmpi ⟨7, 3, 5, 0x120⟩, []) ∧
  decode [0x81C517FD] = .ok (.uiadd ⟨7, 5, 5, .imm 0x1FD⟩, []) ∧
  decode [0xC1C30000, 0x04000200] = .ok (.srd ⟨7, 3, 0, .sreg 0, 0, false, 1, false, 0⟩, []) ∧
  decode [0xB1C0FFF0] = .ok (.bru ⟨7, 0, 0xFFF0⟩, []) ∧
  decode [0xB9C80000, 0x00020010] = .ok (.callx ⟨7, 8, 2, 0x10⟩, []) ∧
  (∀ rest, decode (0x37C00000 :: rest) = .error .reserved) ∧ (∀ rest, decode (0x41C20406 :: 0x10000000 :: rest) = .error .reserved) ∧
  (∀ rest, decode (0x41C20406 :: 0x0F000100 :: rest) = .error .field) ∧ decode [0x41C20406] = .error .short

/-- 11 Tables 11-2 to 11-6: decoding the words of any well-formed word instruction gives it back, with every operand, whatever words
follow. -/
def Obligations.DecodeEncode : Prop :=
  ∀ (i : Instr) (rest : List Word), isWord i = true → wellFormed i = true → decode (encode i ++ rest) = .ok (i, rest)

/-- 11 Tables 11-1 to 11-6: an instruction has one encoding: words that decode to it begin with the words that it encodes to. -/
def Obligations.EncodeDecode : Prop :=
  ∀ (ws : List Word) (i : Instr) (rest : List Word), decode ws = .ok (i, rest) → ws = encode i ++ rest

/-! ## Steps -/

/-- 08 R249, R250; 11 Table 11-7: a step runs what the issuing warp's present words decode to, and then counts that the warp has
issued (`noteIssue`, for R256: which warp has waited longest); words that decode to nothing trap, with the reason that Table 11-7 or
R249 gives. Where several things may happen next, the choice is the schedule's (the model's own: log 2). -/
def Obligations.StepRunsDecoded : Prop :=
  ∀ (s : State),
    (∀ g w, s.candidates = [.word g w] →
      let cur : State := { s with curG := g, curW := w }
      let c := (s.warpAt g w).clause
      (∀ i rest, decode c.rest = .ok (i, rest) →
        (∀ t, exec i cur = .next t → step s = .next (t.noteIssue (64 * g + w))) ∧
        (∀ f, exec i cur = .fault f → step s = .fault f) ∧ ∀ r, exec i cur = .refused r → step s = .refused r) ∧
      (decode c.rest = .error .reserved → step s = .next ((cur.trap ⟨0x01, c.mask, 0, 1⟩).noteIssue (64 * g + w))) ∧
      (decode c.rest = .error .field → step s = .next ((cur.trap ⟨0x01, c.mask, 0, 2⟩).noteIssue (64 * g + w))) ∧
      (decode c.rest = .error .short → step s = .next ((cur.trap ⟨0x02, c.mask, 0, 3⟩).noteIssue (64 * g + w)))) ∧
    (∀ i a, s.candidates = [.event i a] → step s = exec i { s with arg := a }) ∧
    (∀ i a, s.candidates = [.outer i a] →
      let cur : State := { s with inbox := s.inbox.erase (i, a), arg := a }
      (s.alive = true → step s = exec i cur) ∧
      (s.alive = false → (i = .coldReset ∨ i = .pwrgoodFall ∨ i = .perstNAssert → step s = exec i cur) ∧
        (i ≠ .coldReset → i ≠ .pwrgoodFall → i ≠ .perstNAssert → step s = .next cur))) ∧
    (s.candidates = [.posts] → step s = .next s.settlePosts) ∧
    (s.candidates = [] → step s = .next s) ∧
    ∀ c, 2 ≤ s.candidates.length → s.candidates[Config.schedule s.tick % s.candidates.length]? = some c →
      step s = stepCand c { s with tick := s.tick + 1 }

/-! ## Reset, and what every step keeps -/

/-- 01 Tables 1-7 to 1-11; 02 Tables 2-2 to 2-4, 2-12; 03 Tables 3-7, 3-8; 04 Tables 4-5, 4-7, 4-10 to 4-14; 05 Tables 5-5, 5-6,
5-12; 06 Tables 6-7 to 6-10; 07 Tables 7-2 to 7-7: what each register reads after a cold reset; no code has run and no work is there. The
fuses that ROLLBACK shows read 0 (the model's choice: log 5). -/
def Obligations.ResetState : Prop :=
  let s := State.reset
  (∀ off ∈ [0x00, 0x08, 0x28, 0x80, 0x90, 0x228, 0x22C, 0x230, 0x234, 0x238, 0x248, 0x260, 0x264, 0x268, 0x310, 0x314], s.reg32 off = 0) ∧
  s.reg32 0x10 = 2400 * 2 ^ 16 + 2100 ∧ s.reg32 0x18 = 108 * 2 ^ 16 ∧ s.reg32 0x23C = 1000 ∧ s.reg32 0x300 = 200 * 2 ^ 16 + 50 ∧
  s.reg32 0x304 = 200 ∧ s.reg32 0x680 = 150 ∧
  (∀ k, k < 9 → s.reg32 (0x100 + 16 * k) = 8 ∧ s.reg32 (0x108 + 16 * k) = 0) ∧
  (∀ k, k < 32 → s.reg32 (0x600 + 4 * k) = 0) ∧ (∀ k, k < 128 → s.reg32 (0x1000 + 4 * k) = 0 ∧ s.reg32 (0x1200 + 4 * k) = 0) ∧
  (∀ g, g < 32 → s.reg64 (0x3000 + 32 * g) = some 0 ∧ s.reg64 (0x3008 + 32 * g) = some 0 ∧ s.reg32 (0x3010 + 32 * g) = 0 ∧
    s.reg32 (0x3014 + 32 * g) = 200 ∧ s.reg64 (0x3018 + 32 * g) = some 0) ∧
  (∀ off ∈ [0x20, 0x88, 0x200, 0x208, 0x210, 0x218, 0x220, 0x240, 0x250, 0x258, 0x308], s.reg64 off = some 0) ∧
  (∀ f, f < 65 → s.reg64 (0x2000 + 16 * f) = some (if f = 0 then 2 ^ 31 else 0) ∧ s.reg64 (0x2008 + 16 * f) = some 0 ∧
    s.fn32 f 0x00 = f * 2 ^ 16 + (if f = 0 then 1 else 0) ∧ (∀ off ∈ [0x10, 0x14, 0x18, 0x1C, 0x20], s.fn32 f off = 0) ∧
    s.fn64 f 0x30 = some 0x280000000 ∧ ∀ off ∈ [0x08, 0x38, 0x40, 0x48], s.fn64 f off = some 0) ∧
  s.boot.phase = .rom ∧ (s.groups, s.warps, s.ops) = ([], [], []) ∧ s.graph.nodes = [] ∧ s.xlat.tlb = [] ∧ s.mem = []

/-- After reset the memory is in its canonical form. -/
def Obligations.ResetCanonical : Prop := State.reset.canonical

/-- Every step keeps the memory's canonical form: addresses rise strictly, and none is listed with the value that an unlisted one
reads as. -/
def Obligations.StepKeepsCanonical : Prop := ∀ (s t : State), s.canonical → step s = .next t → t.canonical

/-! ## Two rules word for word -/

/-- 00 R5: a value of n bytes, as it is stored and as it is read: byte k from the lowest address holds its bits 8k to 8k + 7. -/
def Obligations.LittleEndian : Prop :=
  (∀ (s : State) (a n v k : Nat), k < n → ((s.poke a (bytesOf n v)).readB (a + k)).toNat = v / 2 ^ (8 * k) % 256) ∧
  (∀ (s : State) (a n k : Nat), k < n → ofBytes (s.readN a n) / 2 ^ (8 * k) % 256 = (s.readB (a + k)).toNat) ∧
  ∀ (s : State) (g off n k : Nat), k < n →
    ofBytes (s.localBytes (.scratch g off) n) / 2 ^ (8 * k) % 256 = (Map.get 0 (s.groupAt g).cmem (off + k)).toNat

/-- 03 R76: the members of a record are the packages of its mask, ascending, and chunk i is owned by ROOT for KIND 3 and 4, else by
member i mod k. -/
def Obligations.ChunkOwners : Prop :=
  ∀ (b : List Byte) (op ctx : Nat),
    let c := Coll.parse b op ctx
    c.members.Pairwise (fun p q => p < q) ∧ (∀ p, p ∈ c.members ↔ p < 128 ∧ bitOf (fieldOf b 8 16) p = true) ∧
    ∀ i, (c.kind = 3 ∨ c.kind = 4 → c.owner i = fieldOf b 7 1) ∧
      (c.kind ≠ 3 → c.kind ≠ 4 → c.members ≠ [] → c.members[i % c.members.length]? = some (c.owner i))
end

