-- ==== Sys2Proof/Laws/Map.lean ====
section
/-!
SUPPORT. The laws of the sparse lists: read after write, and that every write keeps the canonical form.
-/
namespace Sys2Proof.Machine

variable {α : Type}

/-! ## Read after write -/

theorem Map.get_del (d : α) (m : List (Nat × α)) (k j : Nat) :
    Map.get d (Map.del m k) j = if j = k then d else Map.get d m j := by
  induction m with
  | nil => simp [Map.del, Map.get]
  | cons e t ih =>
    obtain ⟨i, y⟩ := e
    simp only [Map.del]
    split
    · subst i
      rw [ih]
      by_cases h : j = k
      · rw [if_pos h, if_pos h]
      · rw [if_neg h, if_neg h, Map.get, if_neg (fun e => h e.symm)]
    · simp only [Map.get, ih]; split <;> split <;> simp_all

theorem Map.get_ins (d : α) (m : List (Nat × α)) (k : Nat) (x : α) (j : Nat) :
    Map.get d (Map.ins m k x) j = if j = k then x else Map.get d m j := by
  induction m with
  | nil => simp only [Map.ins, Map.get, eq_comm]
  | cons e t ih =>
    obtain ⟨i, y⟩ := e
    simp only [Map.ins]
    split
    · simp only [Map.get, eq_comm]
    · split
      · subst i; simp only [Map.get, eq_comm]; split <;> rfl
      · simp only [Map.get, ih]; split <;> split <;> simp_all

theorem Map.get_set [DecidableEq α] (d : α) (m : List (Nat × α)) (k : Nat) (x : α) (j : Nat) :
    Map.get d (Map.set d m k x) j = if j = k then x else Map.get d m j := by
  unfold Map.set
  split
  · rw [Map.get_del]; split <;> simp_all
  · exact Map.get_ins d m k x j

@[simp] theorem Map.get_set_self [DecidableEq α] (d : α) (m : List (Nat × α)) (k : Nat) (x : α) :
    Map.get d (Map.set d m k x) k = x := by rw [Map.get_set, if_pos rfl]

@[simp] theorem Map.get_nil (d : α) (k : Nat) : Map.get d ([] : List (Nat × α)) k = d := rfl

theorem Map.get_setMany [DecidableEq α] (d : α) (xs : List α) (m : List (Nat × α)) (k j : Nat) :
    Map.get d (Map.setMany d m k xs) j = if k ≤ j then (xs[j - k]?).getD (Map.get d m j) else Map.get d m j := by
  induction xs generalizing m k with
  | nil => simp [Map.setMany]
  | cons x t ih =>
    rw [Map.setMany, ih, Map.get_set]
    by_cases h : j = k
    · subst h; simp [show ¬ j + 1 ≤ j by omega]
    · by_cases h' : k ≤ j
      · have h2 : k + 1 ≤ j := by omega
        have h3 : j - k = (j - (k + 1)) + 1 := by omega
        simp [h, h', h2, h3]
      · simp [h, h', show ¬ k + 1 ≤ j by omega]

/-- Outside the bytes written, a run of writes changes nothing. -/
theorem Map.get_setMany_out [DecidableEq α] (d : α) (xs : List α) (m : List (Nat × α)) (k j : Nat)
    (h : j < k ∨ k + xs.length ≤ j) : Map.get d (Map.setMany d m k xs) j = Map.get d m j := by
  rw [Map.get_setMany]
  split
  · rw [List.getElem?_eq_none (by omega)]; rfl
  · rfl

theorem Map.length_getMany (d : α) (m : List (Nat × α)) (k n : Nat) : (Map.getMany d m k n).length = n := by
  induction n generalizing k with
  | zero => rfl
  | succ n ih => simp [Map.getMany, ih]

/-- A run that was just written reads back. -/
theorem Map.getMany_setMany [DecidableEq α] (d : α) (xs : List α) (m : List (Nat × α)) (k : Nat) :
    Map.getMany d (Map.setMany d m k xs) k xs.length = xs := by
  induction xs generalizing m k with
  | nil => rfl
  | cons x t ih =>
    simp only [Map.setMany, List.length_cons, Map.getMany, ih]
    rw [Map.get_setMany_out d t _ (k + 1) k (Or.inl (by omega)), Map.get_set_self]

/-! ## The canonical form -/

theorem Map.rising_cons (j : Nat) (y : α) (t : List (Nat × α)) :
    Map.rising ((j, y) :: t) = true ↔ (∀ e ∈ t, j < e.1) ∧ Map.rising t = true := by
  induction t generalizing j y with
  | nil => simp [Map.rising]
  | cons e t ih =>
    obtain ⟨k, z⟩ := e
    simp only [Map.rising, Bool.and_eq_true, decide_eq_true_eq, ih k z, List.mem_cons, forall_eq_or_imp]
    constructor
    · rintro ⟨h1, h2, h3⟩; exact ⟨⟨h1, fun e he => by have := h2 e he; omega⟩, h2, h3⟩
    · rintro ⟨⟨h1, _⟩, h2, h3⟩; exact ⟨h1, h2, h3⟩

theorem Map.rising_filter (p : Nat × α → Bool) (m : List (Nat × α)) (h : Map.rising m = true) :
    Map.rising (m.filter p) = true := by
  induction m with
  | nil => rfl
  | cons e t ih =>
    obtain ⟨j, y⟩ := e
    rw [Map.rising_cons] at h
    rw [List.filter_cons]
    split
    · rw [Map.rising_cons]; exact ⟨fun e he => h.1 e ((List.mem_filter.1 he).1), ih h.2⟩
    · exact ih h.2

theorem Map.del_eq_filter (m : List (Nat × α)) (k : Nat) : Map.del m k = m.filter (fun e => e.1 != k) := by
  induction m with
  | nil => rfl
  | cons e t ih => obtain ⟨j, y⟩ := e; by_cases h : j = k <;> simp [Map.del, ih, h]

theorem Map.mem_ins (m : List (Nat × α)) (k : Nat) (x : α) (e : Nat × α) (h : e ∈ Map.ins m k x) :
    e = (k, x) ∨ e ∈ m := by
  induction m with
  | nil => simpa [Map.ins] using h
  | cons f t ih =>
    obtain ⟨j, y⟩ := f
    simp only [Map.ins] at h
    split at h
    · simpa using h
    · split at h
      · simp only [List.mem_cons] at h ⊢; exact h.elim Or.inl (fun h => Or.inr (Or.inr h))
      · rcases List.mem_cons.1 h with h | h
        · simp [h]
        · rcases ih h with h | h <;> simp [h]

theorem Map.rising_ins (m : List (Nat × α)) (k : Nat) (x : α) (h : Map.rising m = true) :
    Map.rising (Map.ins m k x) = true := by
  induction m with
  | nil => rfl
  | cons f t ih =>
    obtain ⟨j, y⟩ := f
    have h' := (Map.rising_cons j y t).1 h
    simp only [Map.ins]
    split
    · rw [Map.rising_cons]
      refine ⟨fun e he => ?_, h⟩
      rcases List.mem_cons.1 he with rfl | he
      · assumption
      · have := h'.1 e he; omega
    · split
      · subst j; rw [Map.rising_cons]; exact h'
      · rw [Map.rising_cons]
        refine ⟨fun e he => ?_, ih h'.2⟩
        rcases Map.mem_ins t k x e he with rfl | he
        · dsimp only; omega
        · exact h'.1 e he

theorem Map.wf_iff [DecidableEq α] (d : α) (m : List (Nat × α)) :
    Map.wf d m = true ↔ Map.rising m = true ∧ ∀ e ∈ m, e.2 ≠ d := by
  simp [Map.wf]

theorem Map.wf_filter [DecidableEq α] (d : α) (p : Nat × α → Bool) (m : List (Nat × α)) (h : Map.wf d m = true) :
    Map.wf d (m.filter p) = true := by
  rw [Map.wf_iff] at h ⊢
  exact ⟨Map.rising_filter p m h.1, fun e he => h.2 e ((List.mem_filter.1 he).1)⟩

theorem Map.wf_set [DecidableEq α] (d : α) (m : List (Nat × α)) (k : Nat) (x : α) (h : Map.wf d m = true) :
    Map.wf d (Map.set d m k x) = true := by
  unfold Map.set
  split
  · rw [Map.del_eq_filter]; exact Map.wf_filter d _ m h
  · rename_i hx
    rw [Map.wf_iff] at h ⊢
    refine ⟨Map.rising_ins m k x h.1, fun e he => ?_⟩
    rcases Map.mem_ins m k x e he with rfl | he
    · exact hx
    · exact h.2 e he

theorem Map.wf_setMany [DecidableEq α] (d : α) (xs : List α) (m : List (Nat × α)) (k : Nat) (h : Map.wf d m = true) :
    Map.wf d (Map.setMany d m k xs) = true := by
  induction xs generalizing m k with
  | nil => exact h
  | cons x t ih => exact ih _ _ (Map.wf_set d m k x h)

theorem Map.wf_clear [DecidableEq α] (d : α) (m : List (Nat × α)) (k n : Nat) (h : Map.wf d m = true) :
    Map.wf d (Map.clear m k n) = true := Map.wf_filter d _ m h

theorem Map.rising_iff_pairwise (m : List (Nat × α)) : Map.rising m = true ↔ m.Pairwise (fun a b => a.1 < b.1) := by
  induction m with
  | nil => simp [Map.rising]
  | cons e t ih => obtain ⟨j, y⟩ := e; rw [Map.rising_cons, List.pairwise_cons, ih]

theorem Map.wf_copy [DecidableEq α] (d : α) (m : List (Nat × α)) (src dst n : Nat) (h : Map.wf d m = true) :
    Map.wf d (Map.copy m src dst n) = true := by
  rw [Map.wf_iff, Map.rising_iff_pairwise] at h ⊢
  obtain ⟨h1, h2⟩ := h
  constructor
  · simp only [Map.copy]
    rw [List.pairwise_append, List.pairwise_append]
    refine ⟨⟨h1.filter _, ?_, ?_⟩, h1.filter _, ?_⟩
    · rw [List.pairwise_map]
      refine (h1.filter _).imp_of_mem ?_
      intro a b ha hb hab
      simp only [List.mem_filter, Bool.and_eq_true, decide_eq_true_eq] at ha hb
      dsimp only; omega
    · intro a ha b hb
      simp only [List.mem_filter, List.mem_map, Bool.and_eq_true, decide_eq_true_eq] at ha hb
      obtain ⟨c, hc, rfl⟩ := hb
      dsimp only; omega
    · intro a ha b hb
      simp only [List.mem_append, List.mem_filter, List.mem_map, Bool.and_eq_true, decide_eq_true_eq] at ha hb
      rcases ha with ha | ⟨c, hc, rfl⟩
      · omega
      · dsimp only; omega
  · intro e he
    simp only [Map.copy, List.mem_append, List.mem_filter, List.mem_map] at he
    rcases he with (he | ⟨c, hc, rfl⟩) | he
    · exact h2 e he.1
    · exact h2 c hc.1
    · exact h2 e he.1

end Sys2Proof.Machine
end

