-- ==== Sys2Proof/Laws/State.lean ====
section
/-!
SUPPORT. What each update of the state leaves unchanged: one lemma for each field and update.
-/
namespace Sys2Proof.Machine

/-! ## putWarp -/

@[simp] theorem State.putWarp_mem (s : State) (g w : Nat) (x : Warp) : (s.putWarp g w x).mem = s.mem := rfl
@[simp] theorem State.putWarp_poison (s : State) (g w : Nat) (x : Warp) : (s.putWarp g w x).poison = s.poison := rfl
@[simp] theorem State.putWarp_latent (s : State) (g w : Nat) (x : Warp) : (s.putWarp g w x).latent = s.latent := rfl
@[simp] theorem State.putWarp_l2 (s : State) (g w : Nat) (x : Warp) : (s.putWarp g w x).l2 = s.l2 := rfl
@[simp] theorem State.putWarp_rcache (s : State) (g w : Nat) (x : Warp) : (s.putWarp g w x).rcache = s.rcache := rfl
@[simp] theorem State.putWarp_imem (s : State) (g w : Nat) (x : Warp) : (s.putWarp g w x).imem = s.imem := rfl
@[simp] theorem State.putWarp_groups (s : State) (g w : Nat) (x : Warp) : (s.putWarp g w x).groups = s.groups := rfl
@[simp] theorem State.putWarp_ops (s : State) (g w : Nat) (x : Warp) : (s.putWarp g w x).ops = s.ops := rfl
@[simp] theorem State.putWarp_nextOp (s : State) (g w : Nat) (x : Warp) : (s.putWarp g w x).nextOp = s.nextOp := rfl
@[simp] theorem State.putWarp_quads (s : State) (g w : Nat) (x : Warp) : (s.putWarp g w x).quads = s.quads := rfl
@[simp] theorem State.putWarp_clocks (s : State) (g w : Nat) (x : Warp) : (s.putWarp g w x).clocks = s.clocks := rfl
@[simp] theorem State.putWarp_hostDirty (s : State) (g w : Nat) (x : Warp) : (s.putWarp g w x).hostDirty = s.hostDirty := rfl
@[simp] theorem State.putWarp_xlat (s : State) (g w : Nat) (x : Warp) : (s.putWarp g w x).xlat = s.xlat := rfl
@[simp] theorem State.putWarp_boot (s : State) (g w : Nat) (x : Warp) : (s.putWarp g w x).boot = s.boot := rfl
@[simp] theorem State.putWarp_spdm (s : State) (g w : Nat) (x : Warp) : (s.putWarp g w x).spdm = s.spdm := rfl
@[simp] theorem State.putWarp_power (s : State) (g w : Nat) (x : Warp) : (s.putWarp g w x).power = s.power := rfl
@[simp] theorem State.putWarp_pod (s : State) (g w : Nat) (x : Warp) : (s.putWarp g w x).pod = s.pod := rfl
@[simp] theorem State.putWarp_host (s : State) (g w : Nat) (x : Warp) : (s.putWarp g w x).host = s.host := rfl
@[simp] theorem State.putWarp_recPark (s : State) (g w : Nat) (x : Warp) : (s.putWarp g w x).recPark = s.recPark := rfl
@[simp] theorem State.putWarp_recFailed (s : State) (g w : Nat) (x : Warp) : (s.putWarp g w x).recFailed = s.recFailed := rfl
@[simp] theorem State.putWarp_graph (s : State) (g w : Nat) (x : Warp) : (s.putWarp g w x).graph = s.graph := rfl
@[simp] theorem State.putWarp_plots (s : State) (g w : Nat) (x : Warp) : (s.putWarp g w x).plots = s.plots := rfl
@[simp] theorem State.putWarp_glades (s : State) (g w : Nat) (x : Warp) : (s.putWarp g w x).glades = s.glades := rfl
@[simp] theorem State.putWarp_savens (s : State) (g w : Nat) (x : Warp) : (s.putWarp g w x).savens = s.savens := rfl
@[simp] theorem State.putWarp_curG (s : State) (g w : Nat) (x : Warp) : (s.putWarp g w x).curG = s.curG := rfl
@[simp] theorem State.putWarp_curW (s : State) (g w : Nat) (x : Warp) : (s.putWarp g w x).curW = s.curW := rfl
@[simp] theorem State.putWarp_tick (s : State) (g w : Nat) (x : Warp) : (s.putWarp g w x).tick = s.tick := rfl
@[simp] theorem State.putWarp_now (s : State) (g w : Nat) (x : Warp) : (s.putWarp g w x).now = s.now := rfl
@[simp] theorem State.putWarp_arg (s : State) (g w : Nat) (x : Warp) : (s.putWarp g w x).arg = s.arg := rfl
@[simp] theorem State.putWarp_inbox (s : State) (g w : Nat) (x : Warp) : (s.putWarp g w x).inbox = s.inbox := rfl
@[simp] theorem State.putWarp_outbox (s : State) (g w : Nat) (x : Warp) : (s.putWarp g w x).outbox = s.outbox := rfl

/-! ## setWarp -/

@[simp] theorem State.setWarp_mem (s : State) (x : Warp) : (s.setWarp x).mem = s.mem := rfl
@[simp] theorem State.setWarp_poison (s : State) (x : Warp) : (s.setWarp x).poison = s.poison := rfl
@[simp] theorem State.setWarp_latent (s : State) (x : Warp) : (s.setWarp x).latent = s.latent := rfl
@[simp] theorem State.setWarp_l2 (s : State) (x : Warp) : (s.setWarp x).l2 = s.l2 := rfl
@[simp] theorem State.setWarp_rcache (s : State) (x : Warp) : (s.setWarp x).rcache = s.rcache := rfl
@[simp] theorem State.setWarp_imem (s : State) (x : Warp) : (s.setWarp x).imem = s.imem := rfl
@[simp] theorem State.setWarp_groups (s : State) (x : Warp) : (s.setWarp x).groups = s.groups := rfl
@[simp] theorem State.setWarp_ops (s : State) (x : Warp) : (s.setWarp x).ops = s.ops := rfl
@[simp] theorem State.setWarp_nextOp (s : State) (x : Warp) : (s.setWarp x).nextOp = s.nextOp := rfl
@[simp] theorem State.setWarp_quads (s : State) (x : Warp) : (s.setWarp x).quads = s.quads := rfl
@[simp] theorem State.setWarp_clocks (s : State) (x : Warp) : (s.setWarp x).clocks = s.clocks := rfl
@[simp] theorem State.setWarp_hostDirty (s : State) (x : Warp) : (s.setWarp x).hostDirty = s.hostDirty := rfl
@[simp] theorem State.setWarp_xlat (s : State) (x : Warp) : (s.setWarp x).xlat = s.xlat := rfl
@[simp] theorem State.setWarp_boot (s : State) (x : Warp) : (s.setWarp x).boot = s.boot := rfl
@[simp] theorem State.setWarp_spdm (s : State) (x : Warp) : (s.setWarp x).spdm = s.spdm := rfl
@[simp] theorem State.setWarp_power (s : State) (x : Warp) : (s.setWarp x).power = s.power := rfl
@[simp] theorem State.setWarp_pod (s : State) (x : Warp) : (s.setWarp x).pod = s.pod := rfl
@[simp] theorem State.setWarp_host (s : State) (x : Warp) : (s.setWarp x).host = s.host := rfl
@[simp] theorem State.setWarp_recPark (s : State) (x : Warp) : (s.setWarp x).recPark = s.recPark := rfl
@[simp] theorem State.setWarp_recFailed (s : State) (x : Warp) : (s.setWarp x).recFailed = s.recFailed := rfl
@[simp] theorem State.setWarp_graph (s : State) (x : Warp) : (s.setWarp x).graph = s.graph := rfl
@[simp] theorem State.setWarp_plots (s : State) (x : Warp) : (s.setWarp x).plots = s.plots := rfl
@[simp] theorem State.setWarp_glades (s : State) (x : Warp) : (s.setWarp x).glades = s.glades := rfl
@[simp] theorem State.setWarp_savens (s : State) (x : Warp) : (s.setWarp x).savens = s.savens := rfl
@[simp] theorem State.setWarp_curG (s : State) (x : Warp) : (s.setWarp x).curG = s.curG := rfl
@[simp] theorem State.setWarp_curW (s : State) (x : Warp) : (s.setWarp x).curW = s.curW := rfl
@[simp] theorem State.setWarp_tick (s : State) (x : Warp) : (s.setWarp x).tick = s.tick := rfl
@[simp] theorem State.setWarp_now (s : State) (x : Warp) : (s.setWarp x).now = s.now := rfl
@[simp] theorem State.setWarp_arg (s : State) (x : Warp) : (s.setWarp x).arg = s.arg := rfl
@[simp] theorem State.setWarp_inbox (s : State) (x : Warp) : (s.setWarp x).inbox = s.inbox := rfl
@[simp] theorem State.setWarp_outbox (s : State) (x : Warp) : (s.setWarp x).outbox = s.outbox := rfl

/-! ## putGroup -/

@[simp] theorem State.putGroup_mem (s : State) (g : Nat) (x : Group) : (s.putGroup g x).mem = s.mem := rfl
@[simp] theorem State.putGroup_poison (s : State) (g : Nat) (x : Group) : (s.putGroup g x).poison = s.poison := rfl
@[simp] theorem State.putGroup_latent (s : State) (g : Nat) (x : Group) : (s.putGroup g x).latent = s.latent := rfl
@[simp] theorem State.putGroup_l2 (s : State) (g : Nat) (x : Group) : (s.putGroup g x).l2 = s.l2 := rfl
@[simp] theorem State.putGroup_rcache (s : State) (g : Nat) (x : Group) : (s.putGroup g x).rcache = s.rcache := rfl
@[simp] theorem State.putGroup_imem (s : State) (g : Nat) (x : Group) : (s.putGroup g x).imem = s.imem := rfl
@[simp] theorem State.putGroup_warps (s : State) (g : Nat) (x : Group) : (s.putGroup g x).warps = s.warps := rfl
@[simp] theorem State.putGroup_ops (s : State) (g : Nat) (x : Group) : (s.putGroup g x).ops = s.ops := rfl
@[simp] theorem State.putGroup_nextOp (s : State) (g : Nat) (x : Group) : (s.putGroup g x).nextOp = s.nextOp := rfl
@[simp] theorem State.putGroup_quads (s : State) (g : Nat) (x : Group) : (s.putGroup g x).quads = s.quads := rfl
@[simp] theorem State.putGroup_clocks (s : State) (g : Nat) (x : Group) : (s.putGroup g x).clocks = s.clocks := rfl
@[simp] theorem State.putGroup_hostDirty (s : State) (g : Nat) (x : Group) : (s.putGroup g x).hostDirty = s.hostDirty := rfl
@[simp] theorem State.putGroup_xlat (s : State) (g : Nat) (x : Group) : (s.putGroup g x).xlat = s.xlat := rfl
@[simp] theorem State.putGroup_boot (s : State) (g : Nat) (x : Group) : (s.putGroup g x).boot = s.boot := rfl
@[simp] theorem State.putGroup_spdm (s : State) (g : Nat) (x : Group) : (s.putGroup g x).spdm = s.spdm := rfl
@[simp] theorem State.putGroup_power (s : State) (g : Nat) (x : Group) : (s.putGroup g x).power = s.power := rfl
@[simp] theorem State.putGroup_pod (s : State) (g : Nat) (x : Group) : (s.putGroup g x).pod = s.pod := rfl
@[simp] theorem State.putGroup_host (s : State) (g : Nat) (x : Group) : (s.putGroup g x).host = s.host := rfl
@[simp] theorem State.putGroup_recPark (s : State) (g : Nat) (x : Group) : (s.putGroup g x).recPark = s.recPark := rfl
@[simp] theorem State.putGroup_recFailed (s : State) (g : Nat) (x : Group) : (s.putGroup g x).recFailed = s.recFailed := rfl
@[simp] theorem State.putGroup_graph (s : State) (g : Nat) (x : Group) : (s.putGroup g x).graph = s.graph := rfl
@[simp] theorem State.putGroup_plots (s : State) (g : Nat) (x : Group) : (s.putGroup g x).plots = s.plots := rfl
@[simp] theorem State.putGroup_glades (s : State) (g : Nat) (x : Group) : (s.putGroup g x).glades = s.glades := rfl
@[simp] theorem State.putGroup_savens (s : State) (g : Nat) (x : Group) : (s.putGroup g x).savens = s.savens := rfl
@[simp] theorem State.putGroup_curG (s : State) (g : Nat) (x : Group) : (s.putGroup g x).curG = s.curG := rfl
@[simp] theorem State.putGroup_curW (s : State) (g : Nat) (x : Group) : (s.putGroup g x).curW = s.curW := rfl
@[simp] theorem State.putGroup_tick (s : State) (g : Nat) (x : Group) : (s.putGroup g x).tick = s.tick := rfl
@[simp] theorem State.putGroup_now (s : State) (g : Nat) (x : Group) : (s.putGroup g x).now = s.now := rfl
@[simp] theorem State.putGroup_arg (s : State) (g : Nat) (x : Group) : (s.putGroup g x).arg = s.arg := rfl
@[simp] theorem State.putGroup_inbox (s : State) (g : Nat) (x : Group) : (s.putGroup g x).inbox = s.inbox := rfl
@[simp] theorem State.putGroup_outbox (s : State) (g : Nat) (x : Group) : (s.putGroup g x).outbox = s.outbox := rfl

/-! ## setGroup -/

@[simp] theorem State.setGroup_mem (s : State) (x : Group) : (s.setGroup x).mem = s.mem := rfl
@[simp] theorem State.setGroup_poison (s : State) (x : Group) : (s.setGroup x).poison = s.poison := rfl
@[simp] theorem State.setGroup_latent (s : State) (x : Group) : (s.setGroup x).latent = s.latent := rfl
@[simp] theorem State.setGroup_l2 (s : State) (x : Group) : (s.setGroup x).l2 = s.l2 := rfl
@[simp] theorem State.setGroup_rcache (s : State) (x : Group) : (s.setGroup x).rcache = s.rcache := rfl
@[simp] theorem State.setGroup_imem (s : State) (x : Group) : (s.setGroup x).imem = s.imem := rfl
@[simp] theorem State.setGroup_warps (s : State) (x : Group) : (s.setGroup x).warps = s.warps := rfl
@[simp] theorem State.setGroup_ops (s : State) (x : Group) : (s.setGroup x).ops = s.ops := rfl
@[simp] theorem State.setGroup_nextOp (s : State) (x : Group) : (s.setGroup x).nextOp = s.nextOp := rfl
@[simp] theorem State.setGroup_quads (s : State) (x : Group) : (s.setGroup x).quads = s.quads := rfl
@[simp] theorem State.setGroup_clocks (s : State) (x : Group) : (s.setGroup x).clocks = s.clocks := rfl
@[simp] theorem State.setGroup_hostDirty (s : State) (x : Group) : (s.setGroup x).hostDirty = s.hostDirty := rfl
@[simp] theorem State.setGroup_xlat (s : State) (x : Group) : (s.setGroup x).xlat = s.xlat := rfl
@[simp] theorem State.setGroup_boot (s : State) (x : Group) : (s.setGroup x).boot = s.boot := rfl
@[simp] theorem State.setGroup_spdm (s : State) (x : Group) : (s.setGroup x).spdm = s.spdm := rfl
@[simp] theorem State.setGroup_power (s : State) (x : Group) : (s.setGroup x).power = s.power := rfl
@[simp] theorem State.setGroup_pod (s : State) (x : Group) : (s.setGroup x).pod = s.pod := rfl
@[simp] theorem State.setGroup_host (s : State) (x : Group) : (s.setGroup x).host = s.host := rfl
@[simp] theorem State.setGroup_recPark (s : State) (x : Group) : (s.setGroup x).recPark = s.recPark := rfl
@[simp] theorem State.setGroup_recFailed (s : State) (x : Group) : (s.setGroup x).recFailed = s.recFailed := rfl
@[simp] theorem State.setGroup_graph (s : State) (x : Group) : (s.setGroup x).graph = s.graph := rfl
@[simp] theorem State.setGroup_plots (s : State) (x : Group) : (s.setGroup x).plots = s.plots := rfl
@[simp] theorem State.setGroup_glades (s : State) (x : Group) : (s.setGroup x).glades = s.glades := rfl
@[simp] theorem State.setGroup_savens (s : State) (x : Group) : (s.setGroup x).savens = s.savens := rfl
@[simp] theorem State.setGroup_curG (s : State) (x : Group) : (s.setGroup x).curG = s.curG := rfl
@[simp] theorem State.setGroup_curW (s : State) (x : Group) : (s.setGroup x).curW = s.curW := rfl
@[simp] theorem State.setGroup_tick (s : State) (x : Group) : (s.setGroup x).tick = s.tick := rfl
@[simp] theorem State.setGroup_now (s : State) (x : Group) : (s.setGroup x).now = s.now := rfl
@[simp] theorem State.setGroup_arg (s : State) (x : Group) : (s.setGroup x).arg = s.arg := rfl
@[simp] theorem State.setGroup_inbox (s : State) (x : Group) : (s.setGroup x).inbox = s.inbox := rfl
@[simp] theorem State.setGroup_outbox (s : State) (x : Group) : (s.setGroup x).outbox = s.outbox := rfl

/-! ## poke -/

@[simp] theorem State.poke_l2 (s : State) (a : Nat) (bs : List Byte) : (s.poke a bs).l2 = s.l2 := rfl
@[simp] theorem State.poke_rcache (s : State) (a : Nat) (bs : List Byte) : (s.poke a bs).rcache = s.rcache := rfl
@[simp] theorem State.poke_imem (s : State) (a : Nat) (bs : List Byte) : (s.poke a bs).imem = s.imem := rfl
@[simp] theorem State.poke_groups (s : State) (a : Nat) (bs : List Byte) : (s.poke a bs).groups = s.groups := rfl
@[simp] theorem State.poke_warps (s : State) (a : Nat) (bs : List Byte) : (s.poke a bs).warps = s.warps := rfl
@[simp] theorem State.poke_ops (s : State) (a : Nat) (bs : List Byte) : (s.poke a bs).ops = s.ops := rfl
@[simp] theorem State.poke_nextOp (s : State) (a : Nat) (bs : List Byte) : (s.poke a bs).nextOp = s.nextOp := rfl
@[simp] theorem State.poke_quads (s : State) (a : Nat) (bs : List Byte) : (s.poke a bs).quads = s.quads := rfl
@[simp] theorem State.poke_clocks (s : State) (a : Nat) (bs : List Byte) : (s.poke a bs).clocks = s.clocks := rfl
@[simp] theorem State.poke_hostDirty (s : State) (a : Nat) (bs : List Byte) : (s.poke a bs).hostDirty = s.hostDirty := rfl
@[simp] theorem State.poke_xlat (s : State) (a : Nat) (bs : List Byte) : (s.poke a bs).xlat = s.xlat := rfl
@[simp] theorem State.poke_boot (s : State) (a : Nat) (bs : List Byte) : (s.poke a bs).boot = s.boot := rfl
@[simp] theorem State.poke_spdm (s : State) (a : Nat) (bs : List Byte) : (s.poke a bs).spdm = s.spdm := rfl
@[simp] theorem State.poke_power (s : State) (a : Nat) (bs : List Byte) : (s.poke a bs).power = s.power := rfl
@[simp] theorem State.poke_pod (s : State) (a : Nat) (bs : List Byte) : (s.poke a bs).pod = s.pod := rfl
@[simp] theorem State.poke_host (s : State) (a : Nat) (bs : List Byte) : (s.poke a bs).host = s.host := rfl
@[simp] theorem State.poke_recPark (s : State) (a : Nat) (bs : List Byte) : (s.poke a bs).recPark = s.recPark := rfl
@[simp] theorem State.poke_recFailed (s : State) (a : Nat) (bs : List Byte) : (s.poke a bs).recFailed = s.recFailed := rfl
@[simp] theorem State.poke_graph (s : State) (a : Nat) (bs : List Byte) : (s.poke a bs).graph = s.graph := rfl
@[simp] theorem State.poke_plots (s : State) (a : Nat) (bs : List Byte) : (s.poke a bs).plots = s.plots := rfl
@[simp] theorem State.poke_glades (s : State) (a : Nat) (bs : List Byte) : (s.poke a bs).glades = s.glades := rfl
@[simp] theorem State.poke_savens (s : State) (a : Nat) (bs : List Byte) : (s.poke a bs).savens = s.savens := rfl
@[simp] theorem State.poke_curG (s : State) (a : Nat) (bs : List Byte) : (s.poke a bs).curG = s.curG := rfl
@[simp] theorem State.poke_curW (s : State) (a : Nat) (bs : List Byte) : (s.poke a bs).curW = s.curW := rfl
@[simp] theorem State.poke_tick (s : State) (a : Nat) (bs : List Byte) : (s.poke a bs).tick = s.tick := rfl
@[simp] theorem State.poke_now (s : State) (a : Nat) (bs : List Byte) : (s.poke a bs).now = s.now := rfl
@[simp] theorem State.poke_arg (s : State) (a : Nat) (bs : List Byte) : (s.poke a bs).arg = s.arg := rfl
@[simp] theorem State.poke_inbox (s : State) (a : Nat) (bs : List Byte) : (s.poke a bs).inbox = s.inbox := rfl
@[simp] theorem State.poke_outbox (s : State) (a : Nat) (bs : List Byte) : (s.poke a bs).outbox = s.outbox := rfl

/-! ## setPlot -/

@[simp] theorem State.setPlot_mem (s : State) (k : Nat) (p : Plot) : (s.setPlot k p).mem = s.mem := rfl
@[simp] theorem State.setPlot_poison (s : State) (k : Nat) (p : Plot) : (s.setPlot k p).poison = s.poison := rfl
@[simp] theorem State.setPlot_latent (s : State) (k : Nat) (p : Plot) : (s.setPlot k p).latent = s.latent := rfl
@[simp] theorem State.setPlot_l2 (s : State) (k : Nat) (p : Plot) : (s.setPlot k p).l2 = s.l2 := rfl
@[simp] theorem State.setPlot_rcache (s : State) (k : Nat) (p : Plot) : (s.setPlot k p).rcache = s.rcache := rfl
@[simp] theorem State.setPlot_imem (s : State) (k : Nat) (p : Plot) : (s.setPlot k p).imem = s.imem := rfl
@[simp] theorem State.setPlot_groups (s : State) (k : Nat) (p : Plot) : (s.setPlot k p).groups = s.groups := rfl
@[simp] theorem State.setPlot_warps (s : State) (k : Nat) (p : Plot) : (s.setPlot k p).warps = s.warps := rfl
@[simp] theorem State.setPlot_ops (s : State) (k : Nat) (p : Plot) : (s.setPlot k p).ops = s.ops := rfl
@[simp] theorem State.setPlot_nextOp (s : State) (k : Nat) (p : Plot) : (s.setPlot k p).nextOp = s.nextOp := rfl
@[simp] theorem State.setPlot_quads (s : State) (k : Nat) (p : Plot) : (s.setPlot k p).quads = s.quads := rfl
@[simp] theorem State.setPlot_clocks (s : State) (k : Nat) (p : Plot) : (s.setPlot k p).clocks = s.clocks := rfl
@[simp] theorem State.setPlot_hostDirty (s : State) (k : Nat) (p : Plot) : (s.setPlot k p).hostDirty = s.hostDirty := rfl
@[simp] theorem State.setPlot_xlat (s : State) (k : Nat) (p : Plot) : (s.setPlot k p).xlat = s.xlat := rfl
@[simp] theorem State.setPlot_boot (s : State) (k : Nat) (p : Plot) : (s.setPlot k p).boot = s.boot := rfl
@[simp] theorem State.setPlot_spdm (s : State) (k : Nat) (p : Plot) : (s.setPlot k p).spdm = s.spdm := rfl
@[simp] theorem State.setPlot_power (s : State) (k : Nat) (p : Plot) : (s.setPlot k p).power = s.power := rfl
@[simp] theorem State.setPlot_pod (s : State) (k : Nat) (p : Plot) : (s.setPlot k p).pod = s.pod := rfl
@[simp] theorem State.setPlot_host (s : State) (k : Nat) (p : Plot) : (s.setPlot k p).host = s.host := rfl
@[simp] theorem State.setPlot_recPark (s : State) (k : Nat) (p : Plot) : (s.setPlot k p).recPark = s.recPark := rfl
@[simp] theorem State.setPlot_recFailed (s : State) (k : Nat) (p : Plot) : (s.setPlot k p).recFailed = s.recFailed := rfl
@[simp] theorem State.setPlot_graph (s : State) (k : Nat) (p : Plot) : (s.setPlot k p).graph = s.graph := rfl
@[simp] theorem State.setPlot_glades (s : State) (k : Nat) (p : Plot) : (s.setPlot k p).glades = s.glades := rfl
@[simp] theorem State.setPlot_savens (s : State) (k : Nat) (p : Plot) : (s.setPlot k p).savens = s.savens := rfl
@[simp] theorem State.setPlot_curG (s : State) (k : Nat) (p : Plot) : (s.setPlot k p).curG = s.curG := rfl
@[simp] theorem State.setPlot_curW (s : State) (k : Nat) (p : Plot) : (s.setPlot k p).curW = s.curW := rfl
@[simp] theorem State.setPlot_tick (s : State) (k : Nat) (p : Plot) : (s.setPlot k p).tick = s.tick := rfl
@[simp] theorem State.setPlot_now (s : State) (k : Nat) (p : Plot) : (s.setPlot k p).now = s.now := rfl
@[simp] theorem State.setPlot_arg (s : State) (k : Nat) (p : Plot) : (s.setPlot k p).arg = s.arg := rfl
@[simp] theorem State.setPlot_inbox (s : State) (k : Nat) (p : Plot) : (s.setPlot k p).inbox = s.inbox := rfl
@[simp] theorem State.setPlot_outbox (s : State) (k : Nat) (p : Plot) : (s.setPlot k p).outbox = s.outbox := rfl

/-! ## setGlade -/

@[simp] theorem State.setGlade_mem (s : State) (g : Nat) (x : Glade) : (s.setGlade g x).mem = s.mem := rfl
@[simp] theorem State.setGlade_poison (s : State) (g : Nat) (x : Glade) : (s.setGlade g x).poison = s.poison := rfl
@[simp] theorem State.setGlade_latent (s : State) (g : Nat) (x : Glade) : (s.setGlade g x).latent = s.latent := rfl
@[simp] theorem State.setGlade_l2 (s : State) (g : Nat) (x : Glade) : (s.setGlade g x).l2 = s.l2 := rfl
@[simp] theorem State.setGlade_rcache (s : State) (g : Nat) (x : Glade) : (s.setGlade g x).rcache = s.rcache := rfl
@[simp] theorem State.setGlade_imem (s : State) (g : Nat) (x : Glade) : (s.setGlade g x).imem = s.imem := rfl
@[simp] theorem State.setGlade_groups (s : State) (g : Nat) (x : Glade) : (s.setGlade g x).groups = s.groups := rfl
@[simp] theorem State.setGlade_warps (s : State) (g : Nat) (x : Glade) : (s.setGlade g x).warps = s.warps := rfl
@[simp] theorem State.setGlade_ops (s : State) (g : Nat) (x : Glade) : (s.setGlade g x).ops = s.ops := rfl
@[simp] theorem State.setGlade_nextOp (s : State) (g : Nat) (x : Glade) : (s.setGlade g x).nextOp = s.nextOp := rfl
@[simp] theorem State.setGlade_quads (s : State) (g : Nat) (x : Glade) : (s.setGlade g x).quads = s.quads := rfl
@[simp] theorem State.setGlade_clocks (s : State) (g : Nat) (x : Glade) : (s.setGlade g x).clocks = s.clocks := rfl
@[simp] theorem State.setGlade_hostDirty (s : State) (g : Nat) (x : Glade) : (s.setGlade g x).hostDirty = s.hostDirty := rfl
@[simp] theorem State.setGlade_xlat (s : State) (g : Nat) (x : Glade) : (s.setGlade g x).xlat = s.xlat := rfl
@[simp] theorem State.setGlade_boot (s : State) (g : Nat) (x : Glade) : (s.setGlade g x).boot = s.boot := rfl
@[simp] theorem State.setGlade_spdm (s : State) (g : Nat) (x : Glade) : (s.setGlade g x).spdm = s.spdm := rfl
@[simp] theorem State.setGlade_power (s : State) (g : Nat) (x : Glade) : (s.setGlade g x).power = s.power := rfl
@[simp] theorem State.setGlade_pod (s : State) (g : Nat) (x : Glade) : (s.setGlade g x).pod = s.pod := rfl
@[simp] theorem State.setGlade_host (s : State) (g : Nat) (x : Glade) : (s.setGlade g x).host = s.host := rfl
@[simp] theorem State.setGlade_recPark (s : State) (g : Nat) (x : Glade) : (s.setGlade g x).recPark = s.recPark := rfl
@[simp] theorem State.setGlade_recFailed (s : State) (g : Nat) (x : Glade) : (s.setGlade g x).recFailed = s.recFailed := rfl
@[simp] theorem State.setGlade_graph (s : State) (g : Nat) (x : Glade) : (s.setGlade g x).graph = s.graph := rfl
@[simp] theorem State.setGlade_plots (s : State) (g : Nat) (x : Glade) : (s.setGlade g x).plots = s.plots := rfl
@[simp] theorem State.setGlade_savens (s : State) (g : Nat) (x : Glade) : (s.setGlade g x).savens = s.savens := rfl
@[simp] theorem State.setGlade_curG (s : State) (g : Nat) (x : Glade) : (s.setGlade g x).curG = s.curG := rfl
@[simp] theorem State.setGlade_curW (s : State) (g : Nat) (x : Glade) : (s.setGlade g x).curW = s.curW := rfl
@[simp] theorem State.setGlade_tick (s : State) (g : Nat) (x : Glade) : (s.setGlade g x).tick = s.tick := rfl
@[simp] theorem State.setGlade_now (s : State) (g : Nat) (x : Glade) : (s.setGlade g x).now = s.now := rfl
@[simp] theorem State.setGlade_arg (s : State) (g : Nat) (x : Glade) : (s.setGlade g x).arg = s.arg := rfl
@[simp] theorem State.setGlade_inbox (s : State) (g : Nat) (x : Glade) : (s.setGlade g x).inbox = s.inbox := rfl
@[simp] theorem State.setGlade_outbox (s : State) (g : Nat) (x : Glade) : (s.setGlade g x).outbox = s.outbox := rfl

/-! ## setModule -/

@[simp] theorem State.setModule_mem (s : State) (m : Nat) (x : Module) : (s.setModule m x).mem = s.mem := rfl
@[simp] theorem State.setModule_poison (s : State) (m : Nat) (x : Module) : (s.setModule m x).poison = s.poison := rfl
@[simp] theorem State.setModule_latent (s : State) (m : Nat) (x : Module) : (s.setModule m x).latent = s.latent := rfl
@[simp] theorem State.setModule_l2 (s : State) (m : Nat) (x : Module) : (s.setModule m x).l2 = s.l2 := rfl
@[simp] theorem State.setModule_rcache (s : State) (m : Nat) (x : Module) : (s.setModule m x).rcache = s.rcache := rfl
@[simp] theorem State.setModule_imem (s : State) (m : Nat) (x : Module) : (s.setModule m x).imem = s.imem := rfl
@[simp] theorem State.setModule_groups (s : State) (m : Nat) (x : Module) : (s.setModule m x).groups = s.groups := rfl
@[simp] theorem State.setModule_warps (s : State) (m : Nat) (x : Module) : (s.setModule m x).warps = s.warps := rfl
@[simp] theorem State.setModule_ops (s : State) (m : Nat) (x : Module) : (s.setModule m x).ops = s.ops := rfl
@[simp] theorem State.setModule_nextOp (s : State) (m : Nat) (x : Module) : (s.setModule m x).nextOp = s.nextOp := rfl
@[simp] theorem State.setModule_quads (s : State) (m : Nat) (x : Module) : (s.setModule m x).quads = s.quads := rfl
@[simp] theorem State.setModule_clocks (s : State) (m : Nat) (x : Module) : (s.setModule m x).clocks = s.clocks := rfl
@[simp] theorem State.setModule_hostDirty (s : State) (m : Nat) (x : Module) : (s.setModule m x).hostDirty = s.hostDirty := rfl
@[simp] theorem State.setModule_xlat (s : State) (m : Nat) (x : Module) : (s.setModule m x).xlat = s.xlat := rfl
@[simp] theorem State.setModule_boot (s : State) (m : Nat) (x : Module) : (s.setModule m x).boot = s.boot := rfl
@[simp] theorem State.setModule_spdm (s : State) (m : Nat) (x : Module) : (s.setModule m x).spdm = s.spdm := rfl
@[simp] theorem State.setModule_power (s : State) (m : Nat) (x : Module) : (s.setModule m x).power = s.power := rfl
@[simp] theorem State.setModule_host (s : State) (m : Nat) (x : Module) : (s.setModule m x).host = s.host := rfl
@[simp] theorem State.setModule_recPark (s : State) (m : Nat) (x : Module) : (s.setModule m x).recPark = s.recPark := rfl
@[simp] theorem State.setModule_recFailed (s : State) (m : Nat) (x : Module) : (s.setModule m x).recFailed = s.recFailed := rfl
@[simp] theorem State.setModule_graph (s : State) (m : Nat) (x : Module) : (s.setModule m x).graph = s.graph := rfl
@[simp] theorem State.setModule_plots (s : State) (m : Nat) (x : Module) : (s.setModule m x).plots = s.plots := rfl
@[simp] theorem State.setModule_glades (s : State) (m : Nat) (x : Module) : (s.setModule m x).glades = s.glades := rfl
@[simp] theorem State.setModule_savens (s : State) (m : Nat) (x : Module) : (s.setModule m x).savens = s.savens := rfl
@[simp] theorem State.setModule_curG (s : State) (m : Nat) (x : Module) : (s.setModule m x).curG = s.curG := rfl
@[simp] theorem State.setModule_curW (s : State) (m : Nat) (x : Module) : (s.setModule m x).curW = s.curW := rfl
@[simp] theorem State.setModule_tick (s : State) (m : Nat) (x : Module) : (s.setModule m x).tick = s.tick := rfl
@[simp] theorem State.setModule_now (s : State) (m : Nat) (x : Module) : (s.setModule m x).now = s.now := rfl
@[simp] theorem State.setModule_arg (s : State) (m : Nat) (x : Module) : (s.setModule m x).arg = s.arg := rfl
@[simp] theorem State.setModule_inbox (s : State) (m : Nat) (x : Module) : (s.setModule m x).inbox = s.inbox := rfl
@[simp] theorem State.setModule_outbox (s : State) (m : Nat) (x : Module) : (s.setModule m x).outbox = s.outbox := rfl

/-! ## setPort -/

@[simp] theorem State.setPort_mem (s : State) (k : Nat) (x : Port) : (s.setPort k x).mem = s.mem := rfl
@[simp] theorem State.setPort_poison (s : State) (k : Nat) (x : Port) : (s.setPort k x).poison = s.poison := rfl
@[simp] theorem State.setPort_latent (s : State) (k : Nat) (x : Port) : (s.setPort k x).latent = s.latent := rfl
@[simp] theorem State.setPort_l2 (s : State) (k : Nat) (x : Port) : (s.setPort k x).l2 = s.l2 := rfl
@[simp] theorem State.setPort_rcache (s : State) (k : Nat) (x : Port) : (s.setPort k x).rcache = s.rcache := rfl
@[simp] theorem State.setPort_imem (s : State) (k : Nat) (x : Port) : (s.setPort k x).imem = s.imem := rfl
@[simp] theorem State.setPort_groups (s : State) (k : Nat) (x : Port) : (s.setPort k x).groups = s.groups := rfl
@[simp] theorem State.setPort_warps (s : State) (k : Nat) (x : Port) : (s.setPort k x).warps = s.warps := rfl
@[simp] theorem State.setPort_ops (s : State) (k : Nat) (x : Port) : (s.setPort k x).ops = s.ops := rfl
@[simp] theorem State.setPort_nextOp (s : State) (k : Nat) (x : Port) : (s.setPort k x).nextOp = s.nextOp := rfl
@[simp] theorem State.setPort_quads (s : State) (k : Nat) (x : Port) : (s.setPort k x).quads = s.quads := rfl
@[simp] theorem State.setPort_clocks (s : State) (k : Nat) (x : Port) : (s.setPort k x).clocks = s.clocks := rfl
@[simp] theorem State.setPort_hostDirty (s : State) (k : Nat) (x : Port) : (s.setPort k x).hostDirty = s.hostDirty := rfl
@[simp] theorem State.setPort_xlat (s : State) (k : Nat) (x : Port) : (s.setPort k x).xlat = s.xlat := rfl
@[simp] theorem State.setPort_boot (s : State) (k : Nat) (x : Port) : (s.setPort k x).boot = s.boot := rfl
@[simp] theorem State.setPort_spdm (s : State) (k : Nat) (x : Port) : (s.setPort k x).spdm = s.spdm := rfl
@[simp] theorem State.setPort_power (s : State) (k : Nat) (x : Port) : (s.setPort k x).power = s.power := rfl
@[simp] theorem State.setPort_host (s : State) (k : Nat) (x : Port) : (s.setPort k x).host = s.host := rfl
@[simp] theorem State.setPort_recPark (s : State) (k : Nat) (x : Port) : (s.setPort k x).recPark = s.recPark := rfl
@[simp] theorem State.setPort_recFailed (s : State) (k : Nat) (x : Port) : (s.setPort k x).recFailed = s.recFailed := rfl
@[simp] theorem State.setPort_graph (s : State) (k : Nat) (x : Port) : (s.setPort k x).graph = s.graph := rfl
@[simp] theorem State.setPort_plots (s : State) (k : Nat) (x : Port) : (s.setPort k x).plots = s.plots := rfl
@[simp] theorem State.setPort_glades (s : State) (k : Nat) (x : Port) : (s.setPort k x).glades = s.glades := rfl
@[simp] theorem State.setPort_savens (s : State) (k : Nat) (x : Port) : (s.setPort k x).savens = s.savens := rfl
@[simp] theorem State.setPort_curG (s : State) (k : Nat) (x : Port) : (s.setPort k x).curG = s.curG := rfl
@[simp] theorem State.setPort_curW (s : State) (k : Nat) (x : Port) : (s.setPort k x).curW = s.curW := rfl
@[simp] theorem State.setPort_tick (s : State) (k : Nat) (x : Port) : (s.setPort k x).tick = s.tick := rfl
@[simp] theorem State.setPort_now (s : State) (k : Nat) (x : Port) : (s.setPort k x).now = s.now := rfl
@[simp] theorem State.setPort_arg (s : State) (k : Nat) (x : Port) : (s.setPort k x).arg = s.arg := rfl
@[simp] theorem State.setPort_inbox (s : State) (k : Nat) (x : Port) : (s.setPort k x).inbox = s.inbox := rfl
@[simp] theorem State.setPort_outbox (s : State) (k : Nat) (x : Port) : (s.setPort k x).outbox = s.outbox := rfl

/-! ## setFn -/

@[simp] theorem State.setFn_mem (s : State) (f : Nat) (x : Func) : (s.setFn f x).mem = s.mem := rfl
@[simp] theorem State.setFn_poison (s : State) (f : Nat) (x : Func) : (s.setFn f x).poison = s.poison := rfl
@[simp] theorem State.setFn_latent (s : State) (f : Nat) (x : Func) : (s.setFn f x).latent = s.latent := rfl
@[simp] theorem State.setFn_l2 (s : State) (f : Nat) (x : Func) : (s.setFn f x).l2 = s.l2 := rfl
@[simp] theorem State.setFn_rcache (s : State) (f : Nat) (x : Func) : (s.setFn f x).rcache = s.rcache := rfl
@[simp] theorem State.setFn_imem (s : State) (f : Nat) (x : Func) : (s.setFn f x).imem = s.imem := rfl
@[simp] theorem State.setFn_groups (s : State) (f : Nat) (x : Func) : (s.setFn f x).groups = s.groups := rfl
@[simp] theorem State.setFn_warps (s : State) (f : Nat) (x : Func) : (s.setFn f x).warps = s.warps := rfl
@[simp] theorem State.setFn_ops (s : State) (f : Nat) (x : Func) : (s.setFn f x).ops = s.ops := rfl
@[simp] theorem State.setFn_nextOp (s : State) (f : Nat) (x : Func) : (s.setFn f x).nextOp = s.nextOp := rfl
@[simp] theorem State.setFn_quads (s : State) (f : Nat) (x : Func) : (s.setFn f x).quads = s.quads := rfl
@[simp] theorem State.setFn_clocks (s : State) (f : Nat) (x : Func) : (s.setFn f x).clocks = s.clocks := rfl
@[simp] theorem State.setFn_hostDirty (s : State) (f : Nat) (x : Func) : (s.setFn f x).hostDirty = s.hostDirty := rfl
@[simp] theorem State.setFn_xlat (s : State) (f : Nat) (x : Func) : (s.setFn f x).xlat = s.xlat := rfl
@[simp] theorem State.setFn_boot (s : State) (f : Nat) (x : Func) : (s.setFn f x).boot = s.boot := rfl
@[simp] theorem State.setFn_spdm (s : State) (f : Nat) (x : Func) : (s.setFn f x).spdm = s.spdm := rfl
@[simp] theorem State.setFn_power (s : State) (f : Nat) (x : Func) : (s.setFn f x).power = s.power := rfl
@[simp] theorem State.setFn_pod (s : State) (f : Nat) (x : Func) : (s.setFn f x).pod = s.pod := rfl
@[simp] theorem State.setFn_recPark (s : State) (f : Nat) (x : Func) : (s.setFn f x).recPark = s.recPark := rfl
@[simp] theorem State.setFn_recFailed (s : State) (f : Nat) (x : Func) : (s.setFn f x).recFailed = s.recFailed := rfl
@[simp] theorem State.setFn_graph (s : State) (f : Nat) (x : Func) : (s.setFn f x).graph = s.graph := rfl
@[simp] theorem State.setFn_plots (s : State) (f : Nat) (x : Func) : (s.setFn f x).plots = s.plots := rfl
@[simp] theorem State.setFn_glades (s : State) (f : Nat) (x : Func) : (s.setFn f x).glades = s.glades := rfl
@[simp] theorem State.setFn_savens (s : State) (f : Nat) (x : Func) : (s.setFn f x).savens = s.savens := rfl
@[simp] theorem State.setFn_curG (s : State) (f : Nat) (x : Func) : (s.setFn f x).curG = s.curG := rfl
@[simp] theorem State.setFn_curW (s : State) (f : Nat) (x : Func) : (s.setFn f x).curW = s.curW := rfl
@[simp] theorem State.setFn_tick (s : State) (f : Nat) (x : Func) : (s.setFn f x).tick = s.tick := rfl
@[simp] theorem State.setFn_now (s : State) (f : Nat) (x : Func) : (s.setFn f x).now = s.now := rfl
@[simp] theorem State.setFn_arg (s : State) (f : Nat) (x : Func) : (s.setFn f x).arg = s.arg := rfl
@[simp] theorem State.setFn_inbox (s : State) (f : Nat) (x : Func) : (s.setFn f x).inbox = s.inbox := rfl
@[simp] theorem State.setFn_outbox (s : State) (f : Nat) (x : Func) : (s.setFn f x).outbox = s.outbox := rfl

/-! ## setQuad -/

@[simp] theorem State.setQuad_mem (s : State) (k : Nat) (q : Quad) : (s.setQuad k q).mem = s.mem := rfl
@[simp] theorem State.setQuad_poison (s : State) (k : Nat) (q : Quad) : (s.setQuad k q).poison = s.poison := rfl
@[simp] theorem State.setQuad_latent (s : State) (k : Nat) (q : Quad) : (s.setQuad k q).latent = s.latent := rfl
@[simp] theorem State.setQuad_l2 (s : State) (k : Nat) (q : Quad) : (s.setQuad k q).l2 = s.l2 := rfl
@[simp] theorem State.setQuad_rcache (s : State) (k : Nat) (q : Quad) : (s.setQuad k q).rcache = s.rcache := rfl
@[simp] theorem State.setQuad_imem (s : State) (k : Nat) (q : Quad) : (s.setQuad k q).imem = s.imem := rfl
@[simp] theorem State.setQuad_groups (s : State) (k : Nat) (q : Quad) : (s.setQuad k q).groups = s.groups := rfl
@[simp] theorem State.setQuad_warps (s : State) (k : Nat) (q : Quad) : (s.setQuad k q).warps = s.warps := rfl
@[simp] theorem State.setQuad_ops (s : State) (k : Nat) (q : Quad) : (s.setQuad k q).ops = s.ops := rfl
@[simp] theorem State.setQuad_nextOp (s : State) (k : Nat) (q : Quad) : (s.setQuad k q).nextOp = s.nextOp := rfl
@[simp] theorem State.setQuad_clocks (s : State) (k : Nat) (q : Quad) : (s.setQuad k q).clocks = s.clocks := rfl
@[simp] theorem State.setQuad_hostDirty (s : State) (k : Nat) (q : Quad) : (s.setQuad k q).hostDirty = s.hostDirty := rfl
@[simp] theorem State.setQuad_xlat (s : State) (k : Nat) (q : Quad) : (s.setQuad k q).xlat = s.xlat := rfl
@[simp] theorem State.setQuad_boot (s : State) (k : Nat) (q : Quad) : (s.setQuad k q).boot = s.boot := rfl
@[simp] theorem State.setQuad_spdm (s : State) (k : Nat) (q : Quad) : (s.setQuad k q).spdm = s.spdm := rfl
@[simp] theorem State.setQuad_power (s : State) (k : Nat) (q : Quad) : (s.setQuad k q).power = s.power := rfl
@[simp] theorem State.setQuad_pod (s : State) (k : Nat) (q : Quad) : (s.setQuad k q).pod = s.pod := rfl
@[simp] theorem State.setQuad_host (s : State) (k : Nat) (q : Quad) : (s.setQuad k q).host = s.host := rfl
@[simp] theorem State.setQuad_recPark (s : State) (k : Nat) (q : Quad) : (s.setQuad k q).recPark = s.recPark := rfl
@[simp] theorem State.setQuad_recFailed (s : State) (k : Nat) (q : Quad) : (s.setQuad k q).recFailed = s.recFailed := rfl
@[simp] theorem State.setQuad_graph (s : State) (k : Nat) (q : Quad) : (s.setQuad k q).graph = s.graph := rfl
@[simp] theorem State.setQuad_plots (s : State) (k : Nat) (q : Quad) : (s.setQuad k q).plots = s.plots := rfl
@[simp] theorem State.setQuad_glades (s : State) (k : Nat) (q : Quad) : (s.setQuad k q).glades = s.glades := rfl
@[simp] theorem State.setQuad_savens (s : State) (k : Nat) (q : Quad) : (s.setQuad k q).savens = s.savens := rfl
@[simp] theorem State.setQuad_curG (s : State) (k : Nat) (q : Quad) : (s.setQuad k q).curG = s.curG := rfl
@[simp] theorem State.setQuad_curW (s : State) (k : Nat) (q : Quad) : (s.setQuad k q).curW = s.curW := rfl
@[simp] theorem State.setQuad_tick (s : State) (k : Nat) (q : Quad) : (s.setQuad k q).tick = s.tick := rfl
@[simp] theorem State.setQuad_now (s : State) (k : Nat) (q : Quad) : (s.setQuad k q).now = s.now := rfl
@[simp] theorem State.setQuad_arg (s : State) (k : Nat) (q : Quad) : (s.setQuad k q).arg = s.arg := rfl
@[simp] theorem State.setQuad_inbox (s : State) (k : Nat) (q : Quad) : (s.setQuad k q).inbox = s.inbox := rfl
@[simp] theorem State.setQuad_outbox (s : State) (k : Nat) (q : Quad) : (s.setQuad k q).outbox = s.outbox := rfl

/-! ## setOp -/

@[simp] theorem State.setOp_mem (s : State) (o : Op) : (s.setOp o).mem = s.mem := rfl
@[simp] theorem State.setOp_poison (s : State) (o : Op) : (s.setOp o).poison = s.poison := rfl
@[simp] theorem State.setOp_latent (s : State) (o : Op) : (s.setOp o).latent = s.latent := rfl
@[simp] theorem State.setOp_l2 (s : State) (o : Op) : (s.setOp o).l2 = s.l2 := rfl
@[simp] theorem State.setOp_rcache (s : State) (o : Op) : (s.setOp o).rcache = s.rcache := rfl
@[simp] theorem State.setOp_imem (s : State) (o : Op) : (s.setOp o).imem = s.imem := rfl
@[simp] theorem State.setOp_groups (s : State) (o : Op) : (s.setOp o).groups = s.groups := rfl
@[simp] theorem State.setOp_warps (s : State) (o : Op) : (s.setOp o).warps = s.warps := rfl
@[simp] theorem State.setOp_nextOp (s : State) (o : Op) : (s.setOp o).nextOp = s.nextOp := rfl
@[simp] theorem State.setOp_quads (s : State) (o : Op) : (s.setOp o).quads = s.quads := rfl
@[simp] theorem State.setOp_clocks (s : State) (o : Op) : (s.setOp o).clocks = s.clocks := rfl
@[simp] theorem State.setOp_hostDirty (s : State) (o : Op) : (s.setOp o).hostDirty = s.hostDirty := rfl
@[simp] theorem State.setOp_xlat (s : State) (o : Op) : (s.setOp o).xlat = s.xlat := rfl
@[simp] theorem State.setOp_boot (s : State) (o : Op) : (s.setOp o).boot = s.boot := rfl
@[simp] theorem State.setOp_spdm (s : State) (o : Op) : (s.setOp o).spdm = s.spdm := rfl
@[simp] theorem State.setOp_power (s : State) (o : Op) : (s.setOp o).power = s.power := rfl
@[simp] theorem State.setOp_pod (s : State) (o : Op) : (s.setOp o).pod = s.pod := rfl
@[simp] theorem State.setOp_host (s : State) (o : Op) : (s.setOp o).host = s.host := rfl
@[simp] theorem State.setOp_recPark (s : State) (o : Op) : (s.setOp o).recPark = s.recPark := rfl
@[simp] theorem State.setOp_recFailed (s : State) (o : Op) : (s.setOp o).recFailed = s.recFailed := rfl
@[simp] theorem State.setOp_graph (s : State) (o : Op) : (s.setOp o).graph = s.graph := rfl
@[simp] theorem State.setOp_plots (s : State) (o : Op) : (s.setOp o).plots = s.plots := rfl
@[simp] theorem State.setOp_glades (s : State) (o : Op) : (s.setOp o).glades = s.glades := rfl
@[simp] theorem State.setOp_savens (s : State) (o : Op) : (s.setOp o).savens = s.savens := rfl
@[simp] theorem State.setOp_curG (s : State) (o : Op) : (s.setOp o).curG = s.curG := rfl
@[simp] theorem State.setOp_curW (s : State) (o : Op) : (s.setOp o).curW = s.curW := rfl
@[simp] theorem State.setOp_tick (s : State) (o : Op) : (s.setOp o).tick = s.tick := rfl
@[simp] theorem State.setOp_now (s : State) (o : Op) : (s.setOp o).now = s.now := rfl
@[simp] theorem State.setOp_arg (s : State) (o : Op) : (s.setOp o).arg = s.arg := rfl
@[simp] theorem State.setOp_inbox (s : State) (o : Op) : (s.setOp o).inbox = s.inbox := rfl
@[simp] theorem State.setOp_outbox (s : State) (o : Op) : (s.setOp o).outbox = s.outbox := rfl

/-! ## setNode -/

@[simp] theorem State.setNode_mem (s : State) (n : Node) : (s.setNode n).mem = s.mem := rfl
@[simp] theorem State.setNode_poison (s : State) (n : Node) : (s.setNode n).poison = s.poison := rfl
@[simp] theorem State.setNode_latent (s : State) (n : Node) : (s.setNode n).latent = s.latent := rfl
@[simp] theorem State.setNode_l2 (s : State) (n : Node) : (s.setNode n).l2 = s.l2 := rfl
@[simp] theorem State.setNode_rcache (s : State) (n : Node) : (s.setNode n).rcache = s.rcache := rfl
@[simp] theorem State.setNode_imem (s : State) (n : Node) : (s.setNode n).imem = s.imem := rfl
@[simp] theorem State.setNode_groups (s : State) (n : Node) : (s.setNode n).groups = s.groups := rfl
@[simp] theorem State.setNode_warps (s : State) (n : Node) : (s.setNode n).warps = s.warps := rfl
@[simp] theorem State.setNode_ops (s : State) (n : Node) : (s.setNode n).ops = s.ops := rfl
@[simp] theorem State.setNode_nextOp (s : State) (n : Node) : (s.setNode n).nextOp = s.nextOp := rfl
@[simp] theorem State.setNode_quads (s : State) (n : Node) : (s.setNode n).quads = s.quads := rfl
@[simp] theorem State.setNode_clocks (s : State) (n : Node) : (s.setNode n).clocks = s.clocks := rfl
@[simp] theorem State.setNode_hostDirty (s : State) (n : Node) : (s.setNode n).hostDirty = s.hostDirty := rfl
@[simp] theorem State.setNode_xlat (s : State) (n : Node) : (s.setNode n).xlat = s.xlat := rfl
@[simp] theorem State.setNode_boot (s : State) (n : Node) : (s.setNode n).boot = s.boot := rfl
@[simp] theorem State.setNode_spdm (s : State) (n : Node) : (s.setNode n).spdm = s.spdm := rfl
@[simp] theorem State.setNode_power (s : State) (n : Node) : (s.setNode n).power = s.power := rfl
@[simp] theorem State.setNode_pod (s : State) (n : Node) : (s.setNode n).pod = s.pod := rfl
@[simp] theorem State.setNode_host (s : State) (n : Node) : (s.setNode n).host = s.host := rfl
@[simp] theorem State.setNode_recPark (s : State) (n : Node) : (s.setNode n).recPark = s.recPark := rfl
@[simp] theorem State.setNode_recFailed (s : State) (n : Node) : (s.setNode n).recFailed = s.recFailed := rfl
@[simp] theorem State.setNode_plots (s : State) (n : Node) : (s.setNode n).plots = s.plots := rfl
@[simp] theorem State.setNode_glades (s : State) (n : Node) : (s.setNode n).glades = s.glades := rfl
@[simp] theorem State.setNode_savens (s : State) (n : Node) : (s.setNode n).savens = s.savens := rfl
@[simp] theorem State.setNode_curG (s : State) (n : Node) : (s.setNode n).curG = s.curG := rfl
@[simp] theorem State.setNode_curW (s : State) (n : Node) : (s.setNode n).curW = s.curW := rfl
@[simp] theorem State.setNode_tick (s : State) (n : Node) : (s.setNode n).tick = s.tick := rfl
@[simp] theorem State.setNode_now (s : State) (n : Node) : (s.setNode n).now = s.now := rfl
@[simp] theorem State.setNode_arg (s : State) (n : Node) : (s.setNode n).arg = s.arg := rfl
@[simp] theorem State.setNode_inbox (s : State) (n : Node) : (s.setNode n).inbox = s.inbox := rfl
@[simp] theorem State.setNode_outbox (s : State) (n : Node) : (s.setNode n).outbox = s.outbox := rfl

/-! ## send -/

@[simp] theorem State.send_mem (s : State) (k : SentKind) (ws : List Nat) (d : List Byte) : (s.send k ws d).mem = s.mem := rfl
@[simp] theorem State.send_poison (s : State) (k : SentKind) (ws : List Nat) (d : List Byte) : (s.send k ws d).poison = s.poison := rfl
@[simp] theorem State.send_latent (s : State) (k : SentKind) (ws : List Nat) (d : List Byte) : (s.send k ws d).latent = s.latent := rfl
@[simp] theorem State.send_l2 (s : State) (k : SentKind) (ws : List Nat) (d : List Byte) : (s.send k ws d).l2 = s.l2 := rfl
@[simp] theorem State.send_rcache (s : State) (k : SentKind) (ws : List Nat) (d : List Byte) : (s.send k ws d).rcache = s.rcache := rfl
@[simp] theorem State.send_imem (s : State) (k : SentKind) (ws : List Nat) (d : List Byte) : (s.send k ws d).imem = s.imem := rfl
@[simp] theorem State.send_groups (s : State) (k : SentKind) (ws : List Nat) (d : List Byte) : (s.send k ws d).groups = s.groups := rfl
@[simp] theorem State.send_warps (s : State) (k : SentKind) (ws : List Nat) (d : List Byte) : (s.send k ws d).warps = s.warps := rfl
@[simp] theorem State.send_ops (s : State) (k : SentKind) (ws : List Nat) (d : List Byte) : (s.send k ws d).ops = s.ops := rfl
@[simp] theorem State.send_nextOp (s : State) (k : SentKind) (ws : List Nat) (d : List Byte) : (s.send k ws d).nextOp = s.nextOp := rfl
@[simp] theorem State.send_quads (s : State) (k : SentKind) (ws : List Nat) (d : List Byte) : (s.send k ws d).quads = s.quads := rfl
@[simp] theorem State.send_clocks (s : State) (k : SentKind) (ws : List Nat) (d : List Byte) : (s.send k ws d).clocks = s.clocks := rfl
@[simp] theorem State.send_hostDirty (s : State) (k : SentKind) (ws : List Nat) (d : List Byte) : (s.send k ws d).hostDirty = s.hostDirty := rfl
@[simp] theorem State.send_xlat (s : State) (k : SentKind) (ws : List Nat) (d : List Byte) : (s.send k ws d).xlat = s.xlat := rfl
@[simp] theorem State.send_boot (s : State) (k : SentKind) (ws : List Nat) (d : List Byte) : (s.send k ws d).boot = s.boot := rfl
@[simp] theorem State.send_spdm (s : State) (k : SentKind) (ws : List Nat) (d : List Byte) : (s.send k ws d).spdm = s.spdm := rfl
@[simp] theorem State.send_power (s : State) (k : SentKind) (ws : List Nat) (d : List Byte) : (s.send k ws d).power = s.power := rfl
@[simp] theorem State.send_pod (s : State) (k : SentKind) (ws : List Nat) (d : List Byte) : (s.send k ws d).pod = s.pod := rfl
@[simp] theorem State.send_host (s : State) (k : SentKind) (ws : List Nat) (d : List Byte) : (s.send k ws d).host = s.host := rfl
@[simp] theorem State.send_recPark (s : State) (k : SentKind) (ws : List Nat) (d : List Byte) : (s.send k ws d).recPark = s.recPark := rfl
@[simp] theorem State.send_recFailed (s : State) (k : SentKind) (ws : List Nat) (d : List Byte) : (s.send k ws d).recFailed = s.recFailed := rfl
@[simp] theorem State.send_graph (s : State) (k : SentKind) (ws : List Nat) (d : List Byte) : (s.send k ws d).graph = s.graph := rfl
@[simp] theorem State.send_plots (s : State) (k : SentKind) (ws : List Nat) (d : List Byte) : (s.send k ws d).plots = s.plots := rfl
@[simp] theorem State.send_glades (s : State) (k : SentKind) (ws : List Nat) (d : List Byte) : (s.send k ws d).glades = s.glades := rfl
@[simp] theorem State.send_savens (s : State) (k : SentKind) (ws : List Nat) (d : List Byte) : (s.send k ws d).savens = s.savens := rfl
@[simp] theorem State.send_curG (s : State) (k : SentKind) (ws : List Nat) (d : List Byte) : (s.send k ws d).curG = s.curG := rfl
@[simp] theorem State.send_curW (s : State) (k : SentKind) (ws : List Nat) (d : List Byte) : (s.send k ws d).curW = s.curW := rfl
@[simp] theorem State.send_tick (s : State) (k : SentKind) (ws : List Nat) (d : List Byte) : (s.send k ws d).tick = s.tick := rfl
@[simp] theorem State.send_now (s : State) (k : SentKind) (ws : List Nat) (d : List Byte) : (s.send k ws d).now = s.now := rfl
@[simp] theorem State.send_arg (s : State) (k : SentKind) (ws : List Nat) (d : List Byte) : (s.send k ws d).arg = s.arg := rfl
@[simp] theorem State.send_inbox (s : State) (k : SentKind) (ws : List Nat) (d : List Byte) : (s.send k ws d).inbox = s.inbox := rfl

/-! ## raiseIrq -/

@[simp] theorem State.raiseIrq_mem (s : State) (k : Nat) : (s.raiseIrq k).mem = s.mem := rfl
@[simp] theorem State.raiseIrq_poison (s : State) (k : Nat) : (s.raiseIrq k).poison = s.poison := rfl
@[simp] theorem State.raiseIrq_latent (s : State) (k : Nat) : (s.raiseIrq k).latent = s.latent := rfl
@[simp] theorem State.raiseIrq_l2 (s : State) (k : Nat) : (s.raiseIrq k).l2 = s.l2 := rfl
@[simp] theorem State.raiseIrq_rcache (s : State) (k : Nat) : (s.raiseIrq k).rcache = s.rcache := rfl
@[simp] theorem State.raiseIrq_imem (s : State) (k : Nat) : (s.raiseIrq k).imem = s.imem := rfl
@[simp] theorem State.raiseIrq_groups (s : State) (k : Nat) : (s.raiseIrq k).groups = s.groups := rfl
@[simp] theorem State.raiseIrq_warps (s : State) (k : Nat) : (s.raiseIrq k).warps = s.warps := rfl
@[simp] theorem State.raiseIrq_ops (s : State) (k : Nat) : (s.raiseIrq k).ops = s.ops := rfl
@[simp] theorem State.raiseIrq_nextOp (s : State) (k : Nat) : (s.raiseIrq k).nextOp = s.nextOp := rfl
@[simp] theorem State.raiseIrq_quads (s : State) (k : Nat) : (s.raiseIrq k).quads = s.quads := rfl
@[simp] theorem State.raiseIrq_clocks (s : State) (k : Nat) : (s.raiseIrq k).clocks = s.clocks := rfl
@[simp] theorem State.raiseIrq_hostDirty (s : State) (k : Nat) : (s.raiseIrq k).hostDirty = s.hostDirty := rfl
@[simp] theorem State.raiseIrq_xlat (s : State) (k : Nat) : (s.raiseIrq k).xlat = s.xlat := rfl
@[simp] theorem State.raiseIrq_boot (s : State) (k : Nat) : (s.raiseIrq k).boot = s.boot := rfl
@[simp] theorem State.raiseIrq_spdm (s : State) (k : Nat) : (s.raiseIrq k).spdm = s.spdm := rfl
@[simp] theorem State.raiseIrq_power (s : State) (k : Nat) : (s.raiseIrq k).power = s.power := rfl
@[simp] theorem State.raiseIrq_pod (s : State) (k : Nat) : (s.raiseIrq k).pod = s.pod := rfl
@[simp] theorem State.raiseIrq_recPark (s : State) (k : Nat) : (s.raiseIrq k).recPark = s.recPark := rfl
@[simp] theorem State.raiseIrq_recFailed (s : State) (k : Nat) : (s.raiseIrq k).recFailed = s.recFailed := rfl
@[simp] theorem State.raiseIrq_graph (s : State) (k : Nat) : (s.raiseIrq k).graph = s.graph := rfl
@[simp] theorem State.raiseIrq_plots (s : State) (k : Nat) : (s.raiseIrq k).plots = s.plots := rfl
@[simp] theorem State.raiseIrq_glades (s : State) (k : Nat) : (s.raiseIrq k).glades = s.glades := rfl
@[simp] theorem State.raiseIrq_savens (s : State) (k : Nat) : (s.raiseIrq k).savens = s.savens := rfl
@[simp] theorem State.raiseIrq_curG (s : State) (k : Nat) : (s.raiseIrq k).curG = s.curG := rfl
@[simp] theorem State.raiseIrq_curW (s : State) (k : Nat) : (s.raiseIrq k).curW = s.curW := rfl
@[simp] theorem State.raiseIrq_tick (s : State) (k : Nat) : (s.raiseIrq k).tick = s.tick := rfl
@[simp] theorem State.raiseIrq_now (s : State) (k : Nat) : (s.raiseIrq k).now = s.now := rfl
@[simp] theorem State.raiseIrq_arg (s : State) (k : Nat) : (s.raiseIrq k).arg = s.arg := rfl
@[simp] theorem State.raiseIrq_inbox (s : State) (k : Nat) : (s.raiseIrq k).inbox = s.inbox := rfl
@[simp] theorem State.raiseIrq_outbox (s : State) (k : Nat) : (s.raiseIrq k).outbox = s.outbox := rfl

/-! ## setBoot -/

@[simp] theorem State.setBoot_mem (s : State) (b : Boot) : (s.setBoot b).mem = s.mem := rfl
@[simp] theorem State.setBoot_poison (s : State) (b : Boot) : (s.setBoot b).poison = s.poison := rfl
@[simp] theorem State.setBoot_latent (s : State) (b : Boot) : (s.setBoot b).latent = s.latent := rfl
@[simp] theorem State.setBoot_l2 (s : State) (b : Boot) : (s.setBoot b).l2 = s.l2 := rfl
@[simp] theorem State.setBoot_rcache (s : State) (b : Boot) : (s.setBoot b).rcache = s.rcache := rfl
@[simp] theorem State.setBoot_imem (s : State) (b : Boot) : (s.setBoot b).imem = s.imem := rfl
@[simp] theorem State.setBoot_groups (s : State) (b : Boot) : (s.setBoot b).groups = s.groups := rfl
@[simp] theorem State.setBoot_warps (s : State) (b : Boot) : (s.setBoot b).warps = s.warps := rfl
@[simp] theorem State.setBoot_ops (s : State) (b : Boot) : (s.setBoot b).ops = s.ops := rfl
@[simp] theorem State.setBoot_nextOp (s : State) (b : Boot) : (s.setBoot b).nextOp = s.nextOp := rfl
@[simp] theorem State.setBoot_quads (s : State) (b : Boot) : (s.setBoot b).quads = s.quads := rfl
@[simp] theorem State.setBoot_clocks (s : State) (b : Boot) : (s.setBoot b).clocks = s.clocks := rfl
@[simp] theorem State.setBoot_hostDirty (s : State) (b : Boot) : (s.setBoot b).hostDirty = s.hostDirty := rfl
@[simp] theorem State.setBoot_xlat (s : State) (b : Boot) : (s.setBoot b).xlat = s.xlat := rfl
@[simp] theorem State.setBoot_spdm (s : State) (b : Boot) : (s.setBoot b).spdm = s.spdm := rfl
@[simp] theorem State.setBoot_power (s : State) (b : Boot) : (s.setBoot b).power = s.power := rfl
@[simp] theorem State.setBoot_pod (s : State) (b : Boot) : (s.setBoot b).pod = s.pod := rfl
@[simp] theorem State.setBoot_host (s : State) (b : Boot) : (s.setBoot b).host = s.host := rfl
@[simp] theorem State.setBoot_recPark (s : State) (b : Boot) : (s.setBoot b).recPark = s.recPark := rfl
@[simp] theorem State.setBoot_recFailed (s : State) (b : Boot) : (s.setBoot b).recFailed = s.recFailed := rfl
@[simp] theorem State.setBoot_graph (s : State) (b : Boot) : (s.setBoot b).graph = s.graph := rfl
@[simp] theorem State.setBoot_plots (s : State) (b : Boot) : (s.setBoot b).plots = s.plots := rfl
@[simp] theorem State.setBoot_glades (s : State) (b : Boot) : (s.setBoot b).glades = s.glades := rfl
@[simp] theorem State.setBoot_savens (s : State) (b : Boot) : (s.setBoot b).savens = s.savens := rfl
@[simp] theorem State.setBoot_curG (s : State) (b : Boot) : (s.setBoot b).curG = s.curG := rfl
@[simp] theorem State.setBoot_curW (s : State) (b : Boot) : (s.setBoot b).curW = s.curW := rfl
@[simp] theorem State.setBoot_tick (s : State) (b : Boot) : (s.setBoot b).tick = s.tick := rfl
@[simp] theorem State.setBoot_now (s : State) (b : Boot) : (s.setBoot b).now = s.now := rfl
@[simp] theorem State.setBoot_arg (s : State) (b : Boot) : (s.setBoot b).arg = s.arg := rfl
@[simp] theorem State.setBoot_inbox (s : State) (b : Boot) : (s.setBoot b).inbox = s.inbox := rfl
@[simp] theorem State.setBoot_outbox (s : State) (b : Boot) : (s.setBoot b).outbox = s.outbox := rfl

/-! ## setDie -/

@[simp] theorem State.setDie_mem (s : State) (k : Nat) (d : Die) : (s.setDie k d).mem = s.mem := rfl
@[simp] theorem State.setDie_poison (s : State) (k : Nat) (d : Die) : (s.setDie k d).poison = s.poison := rfl
@[simp] theorem State.setDie_latent (s : State) (k : Nat) (d : Die) : (s.setDie k d).latent = s.latent := rfl
@[simp] theorem State.setDie_l2 (s : State) (k : Nat) (d : Die) : (s.setDie k d).l2 = s.l2 := rfl
@[simp] theorem State.setDie_rcache (s : State) (k : Nat) (d : Die) : (s.setDie k d).rcache = s.rcache := rfl
@[simp] theorem State.setDie_imem (s : State) (k : Nat) (d : Die) : (s.setDie k d).imem = s.imem := rfl
@[simp] theorem State.setDie_groups (s : State) (k : Nat) (d : Die) : (s.setDie k d).groups = s.groups := rfl
@[simp] theorem State.setDie_warps (s : State) (k : Nat) (d : Die) : (s.setDie k d).warps = s.warps := rfl
@[simp] theorem State.setDie_ops (s : State) (k : Nat) (d : Die) : (s.setDie k d).ops = s.ops := rfl
@[simp] theorem State.setDie_nextOp (s : State) (k : Nat) (d : Die) : (s.setDie k d).nextOp = s.nextOp := rfl
@[simp] theorem State.setDie_quads (s : State) (k : Nat) (d : Die) : (s.setDie k d).quads = s.quads := rfl
@[simp] theorem State.setDie_clocks (s : State) (k : Nat) (d : Die) : (s.setDie k d).clocks = s.clocks := rfl
@[simp] theorem State.setDie_hostDirty (s : State) (k : Nat) (d : Die) : (s.setDie k d).hostDirty = s.hostDirty := rfl
@[simp] theorem State.setDie_xlat (s : State) (k : Nat) (d : Die) : (s.setDie k d).xlat = s.xlat := rfl
@[simp] theorem State.setDie_boot (s : State) (k : Nat) (d : Die) : (s.setDie k d).boot = s.boot := rfl
@[simp] theorem State.setDie_spdm (s : State) (k : Nat) (d : Die) : (s.setDie k d).spdm = s.spdm := rfl
@[simp] theorem State.setDie_pod (s : State) (k : Nat) (d : Die) : (s.setDie k d).pod = s.pod := rfl
@[simp] theorem State.setDie_host (s : State) (k : Nat) (d : Die) : (s.setDie k d).host = s.host := rfl
@[simp] theorem State.setDie_recPark (s : State) (k : Nat) (d : Die) : (s.setDie k d).recPark = s.recPark := rfl
@[simp] theorem State.setDie_recFailed (s : State) (k : Nat) (d : Die) : (s.setDie k d).recFailed = s.recFailed := rfl
@[simp] theorem State.setDie_graph (s : State) (k : Nat) (d : Die) : (s.setDie k d).graph = s.graph := rfl
@[simp] theorem State.setDie_plots (s : State) (k : Nat) (d : Die) : (s.setDie k d).plots = s.plots := rfl
@[simp] theorem State.setDie_glades (s : State) (k : Nat) (d : Die) : (s.setDie k d).glades = s.glades := rfl
@[simp] theorem State.setDie_savens (s : State) (k : Nat) (d : Die) : (s.setDie k d).savens = s.savens := rfl
@[simp] theorem State.setDie_curG (s : State) (k : Nat) (d : Die) : (s.setDie k d).curG = s.curG := rfl
@[simp] theorem State.setDie_curW (s : State) (k : Nat) (d : Die) : (s.setDie k d).curW = s.curW := rfl
@[simp] theorem State.setDie_tick (s : State) (k : Nat) (d : Die) : (s.setDie k d).tick = s.tick := rfl
@[simp] theorem State.setDie_now (s : State) (k : Nat) (d : Die) : (s.setDie k d).now = s.now := rfl
@[simp] theorem State.setDie_arg (s : State) (k : Nat) (d : Die) : (s.setDie k d).arg = s.arg := rfl
@[simp] theorem State.setDie_inbox (s : State) (k : Nat) (d : Die) : (s.setDie k d).inbox = s.inbox := rfl
@[simp] theorem State.setDie_outbox (s : State) (k : Nat) (d : Die) : (s.setDie k d).outbox = s.outbox := rfl

/-! ## passTime -/

@[simp] theorem State.passTime_mem (s : State) : (s.passTime).mem = s.mem := rfl
@[simp] theorem State.passTime_poison (s : State) : (s.passTime).poison = s.poison := rfl
@[simp] theorem State.passTime_latent (s : State) : (s.passTime).latent = s.latent := rfl
@[simp] theorem State.passTime_l2 (s : State) : (s.passTime).l2 = s.l2 := rfl
@[simp] theorem State.passTime_rcache (s : State) : (s.passTime).rcache = s.rcache := rfl
@[simp] theorem State.passTime_imem (s : State) : (s.passTime).imem = s.imem := rfl
@[simp] theorem State.passTime_groups (s : State) : (s.passTime).groups = s.groups := rfl
@[simp] theorem State.passTime_warps (s : State) : (s.passTime).warps = s.warps := rfl
@[simp] theorem State.passTime_ops (s : State) : (s.passTime).ops = s.ops := rfl
@[simp] theorem State.passTime_nextOp (s : State) : (s.passTime).nextOp = s.nextOp := rfl
@[simp] theorem State.passTime_quads (s : State) : (s.passTime).quads = s.quads := rfl
@[simp] theorem State.passTime_clocks (s : State) : (s.passTime).clocks = s.clocks := rfl
@[simp] theorem State.passTime_hostDirty (s : State) : (s.passTime).hostDirty = s.hostDirty := rfl
@[simp] theorem State.passTime_xlat (s : State) : (s.passTime).xlat = s.xlat := rfl
@[simp] theorem State.passTime_boot (s : State) : (s.passTime).boot = s.boot := rfl
@[simp] theorem State.passTime_spdm (s : State) : (s.passTime).spdm = s.spdm := rfl
@[simp] theorem State.passTime_power (s : State) : (s.passTime).power = s.power := rfl
@[simp] theorem State.passTime_pod (s : State) : (s.passTime).pod = s.pod := rfl
@[simp] theorem State.passTime_host (s : State) : (s.passTime).host = s.host := rfl
@[simp] theorem State.passTime_recPark (s : State) : (s.passTime).recPark = s.recPark := rfl
@[simp] theorem State.passTime_recFailed (s : State) : (s.passTime).recFailed = s.recFailed := rfl
@[simp] theorem State.passTime_graph (s : State) : (s.passTime).graph = s.graph := rfl
@[simp] theorem State.passTime_plots (s : State) : (s.passTime).plots = s.plots := rfl
@[simp] theorem State.passTime_glades (s : State) : (s.passTime).glades = s.glades := rfl
@[simp] theorem State.passTime_savens (s : State) : (s.passTime).savens = s.savens := rfl
@[simp] theorem State.passTime_curG (s : State) : (s.passTime).curG = s.curG := rfl
@[simp] theorem State.passTime_curW (s : State) : (s.passTime).curW = s.curW := rfl
@[simp] theorem State.passTime_arg (s : State) : (s.passTime).arg = s.arg := rfl
@[simp] theorem State.passTime_inbox (s : State) : (s.passTime).inbox = s.inbox := rfl
@[simp] theorem State.passTime_outbox (s : State) : (s.passTime).outbox = s.outbox := rfl

end Sys2Proof.Machine
end

