-- ==== Sys2Proof/Laws/Regs.lean ====
section
/-!
SUPPORT. Reads after writes of the register files, and what each register write leaves unchanged.
-/
namespace Sys2Proof.Machine

/-! ## Warps and groups in the state -/

theorem State.warpAt_putWarp (s : State) (g w : Nat) (x : Warp) (g' w' : Nat) :
    (s.putWarp g w x).warpAt g' w' = if warpKey g' w' = warpKey g w then x else s.warpAt g' w' :=
  Map.get_set _ s.warps (warpKey g w) x (warpKey g' w')

@[simp] theorem State.warpAt_putWarp_self (s : State) (g w : Nat) (x : Warp) : (s.putWarp g w x).warpAt g w = x := by
  rw [State.warpAt_putWarp, if_pos rfl]

@[simp] theorem State.warp_setWarp (s : State) (x : Warp) : (s.setWarp x).warp = x := State.warpAt_putWarp_self s _ _ x

theorem State.groupAt_putGroup (s : State) (g : Nat) (x : Group) (g' : Nat) :
    (s.putGroup g x).groupAt g' = if g' = g then x else s.groupAt g' := Map.get_set _ s.groups g x g'

@[simp] theorem State.group_setGroup (s : State) (x : Group) : (s.setGroup x).group = x := by
  show (s.putGroup s.curG x).groupAt s.curG = x
  rw [State.groupAt_putGroup, if_pos rfl]

@[simp] theorem State.warp_setGroup (s : State) (x : Group) : (s.setGroup x).warp = s.warp := rfl
@[simp] theorem State.group_setWarp (s : State) (x : Warp) : (s.setWarp x).group = s.group := rfl
@[simp] theorem State.group_putWarp (s : State) (g w : Nat) (x : Warp) : (s.putWarp g w x).group = s.group := rfl

/-! ## Registers -/

theorem Warp.getV_setV (w : Warp) (r l : Nat) (x : Word) (r' l' : Nat) (hl : l < 32) (hl' : l' < 32) :
    (w.setV r l x).getV r' l' = if r' = r ∧ l' = l then x else w.getV r' l' := by
  show Map.get 0 (Map.set 0 w.v (32 * r + l) x) (32 * r' + l') = _
  rw [Map.get_set]
  by_cases h : r' = r ∧ l' = l
  · rw [if_pos h, if_pos (by omega)]
  · rw [if_neg h, if_neg (by omega)]; rfl

theorem Warp.getS_setS (w : Warp) (r : Nat) (x : Word) (r' : Nat) :
    (w.setS r x).getS r' = if r' = r then x else w.getS r' := Map.get_set 0 w.s r x r'

theorem Warp.getP_setP (w : Warp) (i : Nat) (x : Mask) (i' : Nat) :
    (w.setP i x).getP i' = if i' = i then x else w.getP i' := Map.get_set 0 w.p i x i'

theorem Warp.getQ_setQ (w : Warp) (i : Nat) (x : Bool) (i' : Nat) :
    (w.setQ i x).getQ i' = if i' = i then x else w.getQ i' := Map.get_set false w.q i x i'

theorem Warp.getE_setE (w : Warp) (i : Nat) (x : Acc) (i' : Nat) :
    (w.setE i x).getE i' = if i' = i then x else w.getE i' := Map.get_set _ w.e i x i'

theorem Warp.getF_setF (w : Warp) (i n i' : Nat) :
    (w.setF i n).getF i' = if i' = i then n else w.getF i' := Map.get_set 0 w.f i n i'

/-! ## Lanes -/

theorem mem_lanesOf (m : Mask) (l : Nat) : l ∈ lanesOf m ↔ l < 32 ∧ inMask m l = true := by
  simp [lanesOf, lanes, List.mem_filter]

theorem getV_foldl (r : Nat) (f : Nat → Word) (ls : List Nat) (w : Warp) (r' l' : Nat) (hl : ∀ l ∈ ls, l < 32) (hl' : l' < 32) :
    (ls.foldl (fun w l => w.setV r l (f l)) w).getV r' l' = if r' = r ∧ l' ∈ ls then f l' else w.getV r' l' := by
  induction ls generalizing w with
  | nil => simp
  | cons l t ih =>
    rw [List.foldl_cons, ih _ (fun x hx => hl x (List.mem_cons_of_mem _ hx)),
      Warp.getV_setV w r l (f l) r' l' (hl l List.mem_cons_self) hl']
    by_cases h : r' = r
    · by_cases h1 : l' = l
      · subst h1; simp [h]
      · simp [h, h1]
    · simp [h]

/-- v(r) of the lanes of a mask, and nothing else. -/
theorem Warp.getV_setLanes (w : Warp) (r : Nat) (m : Mask) (f : Nat → Word) (r' l' : Nat) (hl' : l' < 32) :
    (w.setLanes r m f).getV r' l' = if r' = r ∧ inMask m l' = true then f l' else w.getV r' l' := by
  rw [Warp.setLanes, getV_foldl r f _ w r' l' (fun l h => ((mem_lanesOf m l).1 h).1) hl']
  simp [mem_lanesOf, hl']

theorem foldl_setV_eq (r : Nat) (f : Nat → Word) (ls : List Nat) (w : Warp) :
    ls.foldl (fun w l => w.setV r l (f l)) w = { w with v := (ls.foldl (fun w l => w.setV r l (f l)) w).v } := by
  induction ls generalizing w with
  | nil => rfl
  | cons l t ih => rw [List.foldl_cons, ih]; rfl

/-- Only v registers change. -/
theorem Warp.setLanes_eq (w : Warp) (r : Nat) (m : Mask) (f : Nat → Word) :
    w.setLanes r m f = { w with v := (w.setLanes r m f).v } := foldl_setV_eq r f _ w

theorem inMask_zero (l : Nat) : inMask 0 l = false := by simp [inMask]

/-! ## Writes at issue -/

/-- A write of v registers at issue changes them and the spin detector. -/
theorem Warp.wrV_eq (w : Warp) (r : Nat) (m : Mask) (f : Nat → Word) :
    ∃ sp, w.wrV r m f = { w with v := (w.setLanes r m f).v, clause := { w.clause with spin := sp } } := by
  unfold Warp.wrV
  split
  · rename_i h; subst h; exact ⟨w.clause.spin, rfl⟩
  · refine ⟨{ w.clause.spin with sig := sigStep w.clause.spin.sig r ((w.setLanes r m f).getV r (w.setLanes r m f).low) }, ?_⟩
    show (w.setLanes r m f).note r ((w.setLanes r m f).getV r (w.setLanes r m f).low) = _
    rw [Warp.setLanes_eq w r m f]
    rfl

theorem Warp.getV_wrV (w : Warp) (r : Nat) (m : Mask) (f : Nat → Word) (r' l' : Nat) (hl' : l' < 32) :
    (w.wrV r m f).getV r' l' = if r' = r ∧ inMask m l' = true then f l' else w.getV r' l' := by
  obtain ⟨sp, h⟩ := Warp.wrV_eq w r m f
  rw [← Warp.getV_setLanes w r m f r' l' hl', h]
  rfl

theorem Warp.wrS_eq (w : Warp) (r : Nat) (x : Word) :
    ∃ sp, w.wrS r x = { w with s := Map.set 0 w.s r x, clause := { w.clause with spin := sp } } := ⟨_, rfl⟩

theorem Warp.getS_wrS (w : Warp) (r : Nat) (x : Word) (r' : Nat) :
    (w.wrS r x).getS r' = if r' = r then x else w.getS r' := Map.get_set 0 w.s r x r'

theorem Warp.wrQ_eq (w : Warp) (i : Nat) (x : Bool) :
    ∃ sp, w.wrQ i x = { w with q := Map.set false w.q i x, clause := { w.clause with spin := sp } } := ⟨_, rfl⟩

theorem Warp.getQ_wrQ (w : Warp) (i : Nat) (x : Bool) (i' : Nat) :
    (w.wrQ i x).getQ i' = if i' = i then x else w.getQ i' := Map.get_set false w.q i x i'

theorem getLsbD_maskFold (p : Nat → Bool) (n : Nat) (hn : n ≤ 32) (k : Nat) (hk : k < 32) :
    ((List.range n).foldl (fun m l => if p l then m ||| (1#32 <<< l) else m) 0#32).getLsbD k = (decide (k < n) && p k) := by
  induction n with
  | zero => simp
  | succ n ih =>
    have ih := ih (by omega)
    rw [List.range_succ, List.foldl_append, List.foldl_cons, List.foldl_nil]
    have one : (1#32 <<< n).getLsbD k = decide (k = n) := by
      rw [BitVec.getLsbD_shiftLeft, BitVec.getLsbD_one]
      by_cases h : k = n
      · subst h; simp [hk]
      · by_cases h2 : k < n
        · simp [h, h2]
        · simp [h, h2, show k - n ≠ 0 by omega]
    by_cases hp : p n = true
    · rw [if_pos hp, BitVec.getLsbD_or, ih, one]
      by_cases h : k = n
      · subst h; simp [hp]
      · by_cases h2 : k < n
        · simp [h, h2, Nat.lt_succ_of_lt h2]
        · simp [h, h2, show ¬ k < n + 1 by omega]
    · rw [if_neg hp, ih]
      by_cases h : k = n
      · subst h; simp [hp]
      · by_cases h2 : k < n
        · simp [h2, Nat.lt_succ_of_lt h2]
        · simp [h2, show ¬ k < n + 1 by omega]

/-- A lane is in the mask of a condition just if it meets it. -/
theorem inMask_maskOf (p : Nat → Bool) (l : Nat) (hl : l < 32) : inMask (maskOf p) l = p l := by
  show (maskOf p).getLsbD l = p l
  rw [maskOf, lanes, getLsbD_maskFold p 32 (by omega) l hl]
  simp [hl]

theorem Warp.wrP_eq (w : Warp) (i : Nat) (m : Mask) (f : Nat → Bool) :
    ∃ sp p, w.wrP i m f = { w with p := p, clause := { w.clause with spin := sp } } := by
  unfold Warp.wrP
  split
  · exact ⟨w.clause.spin, w.p, rfl⟩
  · exact ⟨_, _, rfl⟩

/-- p(i) of the lanes of a mask, and nothing else. -/
theorem Warp.getP_wrP (w : Warp) (i : Nat) (m : Mask) (f : Nat → Bool) (i' l : Nat) (hl : l < 32) :
    inMask ((w.wrP i m f).getP i') l = if i' = i ∧ inMask m l = true then f l else inMask (w.getP i') l := by
  unfold Warp.wrP
  split
  · rename_i h; subst h; rw [inMask_zero]; simp
  · show inMask ((w.setPLanes i m f).getP i') l = _
    rw [Warp.setPLanes, Warp.getP_setP]
    by_cases h : i' = i
    · subst h
      have h1 : (maskOf f).getLsbD l = f l := inMask_maskOf f l hl
      rw [if_pos rfl]
      unfold inMask
      rw [BitVec.getLsbD_or, BitVec.getLsbD_and, BitVec.getLsbD_and, BitVec.getLsbD_not, h1]
      cases hm : m.getLsbD l <;> simp only [hl, decide_true, Bool.and_true, Bool.and_false, Bool.not_true, Bool.not_false,
        Bool.false_or, Bool.or_false, and_true, and_false, if_true, if_false, Bool.false_eq_true]
    · rw [if_neg h, if_neg (fun e => h e.1)]

end Sys2Proof.Machine
end

