-- ==== Sys2Proof/Laws/Memory.lean ====
section
/-!
SUPPORT. The operations on memory: what a read gives after a write, and that every one of them keeps the canonical form
(04 R103, 00 R5). The other writes of memory in the model are made of these, of `Map.clear` and of `Map.copy`
(`Map.wf_clear`, `Map.wf_copy`).
-/
namespace Sys2Proof.Machine

/-! ## Plain writes -/

theorem State.mem_poke (s : State) (a : Nat) (bs : List Byte) : (s.poke a bs).mem = Map.setMany 0 s.mem a bs := rfl

/-- A plain write gives back what it wrote, and leaves every other byte alone. -/
theorem State.readB_poke (s : State) (a : Nat) (bs : List Byte) (x : Nat) :
    (s.poke a bs).readB x = if a ≤ x ∧ x < a + bs.length then bs[x - a]?.getD 0 else s.readB x := by
  simp only [State.readB, State.mem_poke, Map.get_setMany]
  by_cases h : a ≤ x
  · by_cases h2 : x < a + bs.length
    · have h3 : x - a < bs.length := by omega
      simp [h, h2, h3]
    · have h3 : bs.length ≤ x - a := by omega
      simp [h, h2, h3]
  · simp [h]

theorem State.readN_poke (s : State) (a : Nat) (bs : List Byte) : (s.poke a bs).readN a bs.length = bs := by
  simp [State.readN, State.mem_poke, Map.getMany_setMany]

theorem State.canonical_poke (s : State) (a : Nat) (bs : List Byte) (h : s.canonical) : (s.poke a bs).canonical :=
  Map.wf_setMany 0 bs s.mem a h

/-! ## Writes of an agent -/

/-- The dirty bitmap is off: a write marks nothing. -/
theorem State.markDirty_off (s : State) (a : Nat) (h : s.xlat.dirtyEn = false) : s.markDirty a = s := by
  simp [State.markDirty, h]

theorem State.canonical_markDirty (s : State) (a : Nat) (h : s.canonical) : (s.markDirty a).canonical := by
  unfold State.markDirty
  split
  · exact Map.wf_set 0 _ _ _ h
  · exact h

theorem State.canonical_foldl_markDirty (ls : List Nat) (s : State) (h : s.canonical) : (ls.foldl State.markDirty s).canonical := by
  induction ls generalizing s with
  | nil => exact h
  | cons a ls ih => exact ih _ (s.canonical_markDirty a h)

theorem State.canonical_store (s : State) (a : Nat) (bs : List Byte) (h : s.canonical) : (s.store a bs).canonical :=
  State.canonical_foldl_markDirty _ _ (s.canonical_poke a bs h)

theorem State.foldl_markDirty_off (ls : List Nat) (s : State) (h : s.xlat.dirtyEn = false) : ls.foldl State.markDirty s = s := by
  induction ls with
  | nil => rfl
  | cons a ls ih => rw [List.foldl_cons, State.markDirty_off s a h]; exact ih

theorem State.store_off (s : State) (a : Nat) (bs : List Byte) (h : s.xlat.dirtyEn = false) : s.store a bs = s.poke a bs :=
  State.foldl_markDirty_off _ (s.poke a bs) h

/-- With no dirty bitmap, an agent's write changes its own bytes alone. -/
theorem State.readB_store (s : State) (a : Nat) (bs : List Byte) (x : Nat) (h : s.xlat.dirtyEn = false) :
    (s.store a bs).readB x = if a ≤ x ∧ x < a + bs.length then bs[x - a]?.getD 0 else s.readB x := by
  rw [State.store_off s a bs h, State.readB_poke]

theorem State.canonical_store64 (s : State) (a v : Nat) (h : s.canonical) : (s.store64 a v).canonical := s.canonical_store a _ h
theorem State.canonical_store32 (s : State) (a v : Nat) (h : s.canonical) : (s.store32 a v).canonical := s.canonical_store a _ h

/-! ## Updates that leave memory alone -/

theorem State.canonical_of_mem {s t : State} (h : s.canonical) (e : t.mem = s.mem) : t.canonical := by
  unfold State.canonical at *; rw [e]; exact h

theorem State.canonical_poisonLines (s : State) (ls : List Nat) (h : s.canonical) : (s.poisonLines ls).canonical := h
theorem State.canonical_putWarp (s : State) (g w : Nat) (x : Warp) (h : s.canonical) : (s.putWarp g w x).canonical := h
theorem State.canonical_putGroup (s : State) (g : Nat) (x : Group) (h : s.canonical) : (s.putGroup g x).canonical := h
theorem State.canonical_setModule (s : State) (m : Nat) (x : Module) (h : s.canonical) : (s.setModule m x).canonical := h
theorem State.canonical_send (s : State) (k : SentKind) (ws : List Nat) (d : List Byte) (h : s.canonical) :
    (s.send k ws d).canonical := h

/-! ## The memories of a core -/

theorem State.mem_putLocal (s : State) (p : Place) (bs : List Byte) : (s.putLocal p bs).mem = s.mem := by
  unfold State.putLocal
  split
  · split <;> rfl
  · split <;> rfl
  · rfl

/-- A write to the scratchpad of a group that is there. -/
theorem State.putLocal_scratch (s : State) (g off : Nat) (bs : List Byte) (h : (s.groupAt g).place ≠ .none) :
    s.putLocal (.scratch g off) bs = s.putGroup g { s.groupAt g with cmem := Map.setMany 0 (s.groupAt g).cmem off bs } := by
  simp [State.putLocal, h]

/-! ## Operations -/

theorem State.find_map_put {l : List Op} {id : Nat} {o' x : Op} (h : l.find? (fun y => y.id == id) = some x) (e : o'.id = id) :
    (l.map (fun y => if y.id = o'.id then o' else y)).find? (fun y => y.id == id) = some o' := by
  induction l with
  | nil => simp at h
  | cons y t ih =>
    by_cases hy : y.id = id
    · simp [hy, e]
    · rw [List.find?_cons_of_neg (by simpa using hy)] at h
      have : ¬ y.id = o'.id := by rw [e]; exact hy
      rw [List.map_cons, if_neg this, List.find?_cons_of_neg (by simpa using hy)]
      exact ih h

/-- An operation that is there reads as it was put back. -/
theorem State.op_setOp (s : State) (o : Op) (h : (s.op o.id).isSome = true) : (s.setOp o).op o.id = some o := by
  unfold State.op at h ⊢
  obtain ⟨x, hx⟩ := Option.isSome_iff_exists.1 h
  exact State.find_map_put hx rfl

/-- An operation that has ended is gone. -/
theorem State.op_endOp (s : State) (id : Nat) : (s.endOp id).op id = none := by
  unfold State.endOp State.op
  split
  · assumption
  · dsimp only
    split
    · simp [State.putWarp]
    · simp

theorem State.mem_endOp (s : State) (id : Nat) : (s.endOp id).mem = s.mem := by
  unfold State.endOp
  split
  · rfl
  · dsimp only
    split <;> rfl

theorem State.groups_endOp (s : State) (id : Nat) : (s.endOp id).groups = s.groups := by
  unfold State.endOp
  split
  · rfl
  · dsimp only
    split <;> rfl

/-- The end of an operation lowers its own warp's flag and changes nothing else of any warp. -/
theorem State.warps_endOp (s : State) (id : Nat) (o : Op) (g w : Nat) (h : s.op id = some o) (ho : o.owner = .warp g w) :
    (s.endOp id).warps = Map.set {} s.warps (warpKey g w) ((s.warpAt g w).flagDown o.flag) := by
  unfold State.endOp
  rw [State.op] at h
  rw [h]
  simp only [ho]
  rfl

end Sys2Proof.Machine
end

