-- ==== Sys2Proof/Laws/Moves.lean ====
section
/-!
SUPPORT. Where the lanes of an entry stand after its clause has ended (08 R253, R254; 12 R359, R360).
-/
namespace Sys2Proof.Machine

theorem inMask_or (m n : Mask) (l : Nat) : inMask (m ||| n) l = (inMask m l || inMask n l) := by
  simp [inMask]

theorem inMask_and (m n : Mask) (l : Nat) : inMask (m &&& n) l = (inMask m l && inMask n l) := by
  simp [inMask]

theorem inMask_one_shift (k l : Nat) (hl : l < 32) : inMask (1#32 <<< k) l = (l == k) := by
  unfold inMask
  rw [BitVec.getLsbD_shiftLeft, BitVec.getLsbD_one, Bool.eq_iff_iff]
  simp only [Bool.and_eq_true, Bool.not_eq_true', decide_eq_true_eq, decide_eq_false_iff_not, beq_iff_eq]
  omega

/-- An arriving entry stands where it stands, and every other entry where it stood. -/
theorem standsAt_arrive (x : Entry) (fr : List Entry) (pc : CodeAddr) (l : Nat) :
    standsAt (arrive x fr) pc l = ((x.pc == pc && inMask x.mask l) || standsAt fr pc l) := by
  induction fr with
  | nil => simp [arrive, standsAt]
  | cons e t ih =>
    unfold arrive
    split
    · rename_i h
      have h1 : x.pc = e.pc := by simp only [Bool.and_eq_true, decide_eq_true_eq] at h; exact h.1.1
      simp only [standsAt, List.any_cons, Entry.merge, h1, inMask_or]
      cases e.pc == pc <;> cases inMask e.mask l <;> cases inMask x.mask l <;> simp
    · split
      · simp [standsAt]
      · simp only [standsAt, List.any_cons] at ih ⊢
        rw [ih]
        cases (e.pc == pc && inMask e.mask l) <;> simp

/-- The same for the successors of a clause. -/
theorem standsAt_foldl (c : Clause) (ts : List (CodeAddr × Mask × Bool)) (fr : List Entry) (pc : CodeAddr) (l : Nat) :
    standsAt (ts.foldl (fun fr t => if t.2.1 = 0 then fr else arrive (c.successor t.1 t.2.1 t.2.2) fr) fr) pc l =
      (standsAt fr pc l || ts.any (fun t => t.1 == pc && inMask t.2.1 l)) := by
  induction ts generalizing fr with
  | nil => simp
  | cons t ts ih =>
    rw [List.foldl_cons, ih, List.any_cons]
    by_cases h : t.2.1 = 0
    · rw [if_pos h, h, inMask_zero]; simp
    · rw [if_neg h, standsAt_arrive]
      show ((t.1 == pc && inMask t.2.1 l || standsAt fr pc l) || _) = _
      cases (t.1 == pc && inMask t.2.1 l) <;> simp

theorem any_addTarget (a : CodeAddr) (m : Mask) (ts : List (CodeAddr × Mask)) (pc : CodeAddr) (l : Nat) :
    (addTarget a m ts).any (fun t => t.1 == pc && inMask t.2 l) =
      ((a == pc && inMask m l) || ts.any (fun t => t.1 == pc && inMask t.2 l)) := by
  induction ts with
  | nil => simp [addTarget]
  | cons t ts ih =>
    obtain ⟨b, n⟩ := t
    unfold addTarget
    split
    · rename_i h; subst h
      simp only [List.any_cons, inMask_or]
      cases b == pc <;> cases inMask n l <;> cases inMask m l <;> simp
    · simp only [List.any_cons] at ih ⊢
      rw [ih]
      cases (b == pc && inMask n l) <;> simp

theorem any_groupFold (f : Nat → CodeAddr) (ls : List Nat) (ts : List (CodeAddr × Mask)) (pc : CodeAddr) (l : Nat) (hl : l < 32) :
    (ls.foldl (fun ts k => addTarget (f k) (1#32 <<< k) ts) ts).any (fun t => t.1 == pc && inMask t.2 l) =
      (ts.any (fun t => t.1 == pc && inMask t.2 l) || (decide (l ∈ ls) && f l == pc)) := by
  induction ls generalizing ts with
  | nil => simp
  | cons k ls ih =>
    rw [List.foldl_cons, ih, any_addTarget, inMask_one_shift k l hl]
    by_cases h : l = k
    · subst h
      simp only [beq_self_eq_true, Bool.and_true, List.mem_cons, true_or, decide_true, Bool.true_and]
      cases f l == pc <;> simp
    · simp [beq_eq_false_iff_ne.2 h, h]

/-- The lanes of a mask grouped by target: each stands at its own target. -/
theorem any_groupTargets (m : Mask) (f : Nat → CodeAddr) (pc : CodeAddr) (l : Nat) (hl : l < 32) :
    (groupTargets m f).any (fun t => t.1 == pc && inMask t.2 l) = (inMask m l && f l == pc) := by
  rw [groupTargets, any_groupFold f _ _ pc l hl]
  simp [mem_lanesOf, hl]

theorem inMask_foldl (es : List Entry) (m : Mask) (l : Nat) :
    inMask (es.foldl (fun m e => m ||| e.mask) m) l = (inMask m l || es.any (fun e => inMask e.mask l)) := by
  induction es generalizing m with
  | nil => simp
  | cons e es ih => rw [List.foldl_cons, ih, inMask_or, List.any_cons, Bool.or_assoc]

/-- The live lanes are those of some entry. -/
theorem Warp.inMask_lanesIn (w : Warp) (l : Nat) : inMask w.lanesIn l = (w.frontier ++ w.hfront).any (fun e => inMask e.mask l) := by
  rw [Warp.lanesIn, inMask_foldl, inMask_zero]; simp

theorem Warp.endFront_handler (w : Warp) (fr : List Entry) (h : w.handler.isSome = true) :
    (w.setFront fr).leaveIfEmpty.hfront = fr ∧ (w.setFront fr).leaveIfEmpty.frontier = w.frontier ∧
      (w.setFront fr).leaveIfEmpty.handler = if fr = [] then none else w.handler := by
  unfold Warp.setFront Warp.leaveIfEmpty
  rw [if_pos h]
  cases fr with
  | nil => simp [h]
  | cons a b => simp

theorem Warp.endFront_plain (w : Warp) (fr : List Entry) (h : ¬ w.handler.isSome = true) :
    (w.setFront fr).leaveIfEmpty.frontier = fr ∧ (w.setFront fr).leaveIfEmpty.hfront = w.hfront ∧
      (w.setFront fr).leaveIfEmpty.handler = w.handler := by
  unfold Warp.setFront Warp.leaveIfEmpty
  rw [if_neg h]
  simp [h]

/-- What it takes to have moved: `fr` is the frontier that the warp issues from. -/
theorem moved_of (s t : State) (goes : Nat → Option CodeAddr) (fr : List Entry) (h1 : t.warp.clause = {}) (h2 : t.warp.stall = .none)
    (hs : s.warp.handler.isSome = true → t.warp.hfront = fr ∧ t.warp.frontier = s.warp.frontier ∧
      t.warp.handler = if fr = [] then none else s.warp.handler)
    (hn : ¬ s.warp.handler.isSome = true → t.warp.frontier = fr ∧ t.warp.hfront = s.warp.hfront ∧ t.warp.handler = s.warp.handler)
    (hl : ∀ l, l < 32 → inMask t.warp.live l = (t.warp.frontier ++ t.warp.hfront).any (fun e => inMask e.mask l))
    (hf : ∀ pc l, l < 32 → standsAt fr pc l =
      (standsAt (dropEntry s.warp.clause.hdr s.warp.clause.resume s.warp.clause.mask (s.frontOf s.warp)) pc l ||
        (inMask s.warp.clause.mask l && goes l == some pc))) : Moved s t goes := by
  unfold Moved
  dsimp only
  by_cases h : s.warp.handler.isSome = true
  · obtain ⟨e1, e2, e3⟩ := hs h
    have e4 : s.frontOf t.warp = fr := by unfold State.frontOf; rw [if_pos h, e1]
    refine ⟨h1, h2, by rw [if_pos h]; exact e2, fun pc l hl => by rw [e4]; exact hf pc l hl, hl, ?_⟩
    rw [e3, e1]; simp [h]
  · obtain ⟨e1, e2, e3⟩ := hn h
    have e4 : s.frontOf t.warp = fr := by unfold State.frontOf; rw [if_neg h, e1]
    refine ⟨h1, h2, by rw [if_neg h]; exact e2, fun pc l hl => by rw [e4]; exact hf pc l hl, hl, ?_⟩
    rw [e3, if_neg (fun x => h x.1)]

/-- The end of a clause whose lanes go to `goes`. `w` is the issuing warp of `s`, but for its registers. -/
theorem State.moved_setWarp (s : State) (w : Warp) (ts : List (CodeAddr × Mask × Bool)) (goes : Nat → Option CodeAddr)
    (hc : w.clause.hdr = s.warp.clause.hdr ∧ w.clause.resume = s.warp.clause.resume ∧ w.clause.mask = s.warp.clause.mask) (hf : w.frontier = s.warp.frontier)
    (hh : w.hfront = s.warp.hfront) (hd : w.handler = s.warp.handler)
    (ht : ∀ pc l, l < 32 → ts.any (fun t => t.1 == pc && inMask t.2.1 l) = (inMask s.warp.clause.mask l && goes l == some pc))
    (t : State) (hy : ∃ y, t.warp = { w.endClause ts with yieldOn := y }) : Moved s t goes := by
  obtain ⟨y, he⟩ := hy
  refine moved_of s t goes (ts.foldl (fun l t => if t.2.1 = 0 then l else arrive (w.clause.successor t.1 t.2.1 t.2.2) l)
    (dropEntry w.clause.hdr w.clause.resume w.clause.mask w.front)) (by rw [he]; rfl) (by rw [he]; rfl) ?_ ?_ ?_ ?_
  · intro h
    rw [he, ← hd, ← hf]
    exact w.endFront_handler _ (by rw [hd]; exact h)
  · intro h
    rw [he, ← hd, ← hh]
    exact w.endFront_plain _ (by rw [hd]; exact h)
  · intro l _
    rw [he]
    exact Warp.inMask_lanesIn _ l
  · intro pc l hl
    rw [standsAt_foldl, hc.1, hc.2.1, hc.2.2, ht pc l hl]
    congr 2
    unfold Warp.front State.frontOf
    rw [hd, hf, hh]

/-- A yield changes nothing of the warp but what it waits for. -/
theorem State.warp_yieldNow (s : State) : ∃ y, s.yieldNow.warp = { s.warp with yieldOn := y } :=
  ⟨_, s.warp_setWarp _⟩

/-- Closing a clause moves its lanes. -/
theorem State.moved_closeClause (s : State) (w : Warp) (ts : List (CodeAddr × Mask × Bool)) (goes : Nat → Option CodeAddr)
    (hc : w.clause.hdr = s.warp.clause.hdr ∧ w.clause.resume = s.warp.clause.resume ∧ w.clause.mask = s.warp.clause.mask) (hf : w.frontier = s.warp.frontier)
    (hh : w.hfront = s.warp.hfront) (hd : w.handler = s.warp.handler)
    (ht : ∀ pc l, l < 32 → ts.any (fun t => t.1 == pc && inMask t.2.1 l) = (inMask s.warp.clause.mask l && goes l == some pc)) :
    Moved s ((s.setWarp w).closeClause ts) goes := by
  unfold State.closeClause
  dsimp only
  rw [State.warp_setWarp]
  split
  · obtain ⟨y, hy⟩ := ((s.setWarp w).setWarp (w.endClause ts)).warp_yieldNow
    refine s.moved_setWarp w ts goes hc hf hh hd ht _ ⟨y, ?_⟩
    rw [hy, State.warp_setWarp]
  · exact s.moved_setWarp w ts goes hc hf hh hd ht _ ⟨(w.endClause ts).yieldOn, by rw [State.warp_setWarp]⟩

/-- A word that is the last of its clause moves every lane of its entry to the next header. -/
theorem any_next (c : Clause) (pc : CodeAddr) (l : Nat) :
    [(c.next, c.mask, false)].any (fun t => t.1 == pc && inMask t.2.1 l) =
      (inMask c.mask l && some (c.hdr + 1 + BitVec.ofNat 16 c.len) == some pc) := by
  simp [Clause.next, Bool.and_comm]

end Sys2Proof.Machine
end

