-- ==== Sys2Proof/Laws/Words.lean ====
section
/-!
SUPPORT. What the shared operations of the words can do: completing (R250), the checks and the guards.
-/
namespace Sys2Proof.Machine

/-! ## Completing a word -/

theorem Warp.regs_setFront (w : Warp) (l : List Entry) : (w.setFront l).regs = w.regs := by
  unfold Warp.setFront; split <;> rfl

theorem Warp.regs_leaveIfEmpty (w : Warp) : w.leaveIfEmpty.regs = w.regs := by
  unfold Warp.leaveIfEmpty; split <;> rfl

/-- The end of a clause moves the warp and changes no register. -/
theorem Warp.regs_endClause (w : Warp) (ts : List (CodeAddr × Mask × Bool)) : (w.endClause ts).regs = w.regs := by
  unfold Warp.endClause
  show (Warp.leaveIfEmpty (w.setFront _)).regs = w.regs
  rw [Warp.regs_leaveIfEmpty, Warp.regs_setFront]

theorem OnlyWarp.setWarp (s : State) (w : Warp) : OnlyWarp s (s.setWarp w) :=
  ⟨rfl, fun k hk => by rw [show (s.setWarp w).warps = Map.set _ s.warps (warpKey s.curG s.curW) w from rfl, Map.get_set, if_neg hk]⟩

theorem OnlyWarp.refl (s : State) : OnlyWarp s s := ⟨rfl, fun _ _ => rfl⟩

theorem OnlyWarp.trans {s t u : State} (h : OnlyWarp s t) (h' : OnlyWarp t u) : OnlyWarp s u := by
  have e1 : t.curG = s.curG := by rw [h.1]
  have e2 : t.curW = s.curW := by rw [h.1]
  refine ⟨?_, fun k hk => by rw [h'.2 k (by rwa [e1, e2]), h.2 k hk]⟩
  have := h'.1; rw [h.1] at this; exact this

theorem OnlyWarp.curG {s t : State} (h : OnlyWarp s t) : t.curG = s.curG := by rw [h.1]
theorem OnlyWarp.curW {s t : State} (h : OnlyWarp s t) : t.curW = s.curW := by rw [h.1]

theorem State.onlyWarp_yieldNow (s : State) : OnlyWarp s s.yieldNow := OnlyWarp.setWarp s _

theorem State.regs_yieldNow (s : State) : s.yieldNow.warp.regs = s.warp.regs := by
  unfold State.yieldNow; rw [State.warp_setWarp]; rfl

/-- Closing a clause changes nothing but the warp, and no register of it. -/
theorem State.onlyWarp_closeClause (s : State) (ts : List (CodeAddr × Mask × Bool)) : OnlyWarp s (s.closeClause ts) := by
  unfold State.closeClause
  dsimp only
  split
  · exact (OnlyWarp.setWarp s _).trans (State.onlyWarp_yieldNow _)
  · exact OnlyWarp.setWarp s _

theorem State.regs_closeClause (s : State) (ts : List (CodeAddr × Mask × Bool)) :
    (s.closeClause ts).warp.regs = s.warp.regs := by
  unfold State.closeClause
  dsimp only
  split
  · rw [State.regs_yieldNow, State.warp_setWarp, Warp.regs_endClause]
  · rw [State.warp_setWarp, Warp.regs_endClause]

theorem State.onlyWarp_retire (s : State) (n : Nat) : OnlyWarp s (s.retire n) := by
  unfold State.retire
  dsimp only
  split
  · exact State.onlyWarp_closeClause s _
  · exact OnlyWarp.setWarp s _

theorem State.regs_retire (s : State) (n : Nat) : (s.retire n).warp.regs = s.warp.regs := by
  unfold State.retire
  dsimp only
  split
  · exact State.regs_closeClause s _
  · rw [State.warp_setWarp]; rfl

/-- A word that leaves the warp `w`, which stands where the issuing warp stands, and then retires has completed. -/
theorem State.completed_retire (s : State) (w : Warp) (n : Nat)
    (hc : w.clause = { s.warp.clause with spin := w.clause.spin }) (hf : w.frontier = s.warp.frontier)
    (hh : w.hfront = s.warp.hfront) (hd : w.handler = s.warp.handler) (hl : w.live = s.warp.live)
    (hy : w.yieldOn = s.warp.yieldOn) : Completed s ((s.setWarp w).retire n) n w := by
  refine ⟨(OnlyWarp.setWarp s w).trans (State.onlyWarp_retire _ n), ?_, ?_⟩
  · rw [State.regs_retire, State.warp_setWarp]
  · have hc' : w.clause.pc = s.warp.clause.pc ∧ w.clause.hdr = s.warp.clause.hdr ∧ w.clause.len = s.warp.clause.len ∧
        w.clause.resume = s.warp.clause.resume ∧ w.clause.mask = s.warp.clause.mask := by
      rw [hc]; exact ⟨rfl, rfl, rfl, rfl, rfl⟩
    unfold StepsPast
    dsimp only
    split
    · rename_i hlt
      have hr : (s.setWarp w).retire n = (s.setWarp w).setWarp
          { (s.setWarp w).warp with clause := { (s.setWarp w).warp.clause with pc := (s.setWarp w).warp.clause.pc + BitVec.ofNat 16 n },
                                    stall := .none } := by
        unfold State.retire
        dsimp only
        rw [State.warp_setWarp, if_neg]
        rw [hc'.1, hc'.2.1, hc'.2.2.1]; omega
      rw [hr, State.warp_setWarp, State.warp_setWarp]
      refine ⟨?_, hf, hh, hd, hl, hy, rfl⟩
      rw [hc]
    · rename_i hlt
      have hr : (s.setWarp w).retire n = (s.setWarp w).closeClause [(w.clause.next, w.clause.mask, false)] := by
        unfold State.retire
        dsimp only
        rw [State.warp_setWarp, if_pos]
        rw [hc'.1, hc'.2.1, hc'.2.2.1]; omega
      rw [hr]
      refine s.moved_closeClause w _ _ ⟨hc'.2.1, hc'.2.2.2.1, hc'.2.2.2.2⟩ hf hh hd (fun pc l _ => ?_)
      rw [any_next, hc'.2.1, hc'.2.2.1, hc'.2.2.2.2]

/-! ## Checks and guards -/

/-- A word that passes the checks of rows 3 to 7 acts. -/
theorem State.checked_pass (s : State) (r : Req) (k : Out) (h : s.warp.check r = none) : s.checked r k = k := by
  unfold State.checked; rw [h]

/-- A word that fails one traps. -/
theorem State.checked_trap (s : State) (r : Req) (k : Out) (t : TrapInfo) (h : s.warp.check r = some t) :
    s.checked r k = .next (s.trap t) := by unfold State.checked; rw [h]

theorem State.guarded_pass (s : State) (q : BitVec 3) (n : Nat) (k : Out) (h : s.warp.guard q = true) :
    s.guarded q n k = k := by unfold State.guarded; rw [if_pos h]

theorem State.guarded_skip (s : State) (q : BitVec 3) (n : Nat) (k : Out) (h : s.warp.guard q = false) :
    s.guarded q n k = .next (s.retire n) := by unfold State.guarded; rw [h]; rfl

theorem Warp.check_nil (w : Warp) : w.check {} = none := by simp [Warp.check]

/-- Rows 3 to 7 of Table 11-7: a word passes whose registers are there, whose flag is not 15 (or that is a plain store),
whose role is right, and whose entry has the convergence it asks for. -/
theorem Warp.check_passes (w : Warp) (r : Req) (hp : w.passes r) : w.check r = none := by
  obtain ⟨h, he, hf, hm, hc, ht⟩ := hp
  have h3 : r.vs.any (spanBeyond w.budget) = false := by
    rw [List.any_eq_false]; intro p hp
    have := h.1 p hp
    simp only [spanBeyond, decide_eq_true_eq]; omega
  have h4 : (r.vs.any (spanBad 128) || r.ss.any (spanBad 64) || r.eBad) = false := by
    rw [Bool.or_eq_false_iff, Bool.or_eq_false_iff, List.any_eq_false, List.any_eq_false]
    refine ⟨⟨fun p hp => ?_, fun p hp => ?_⟩, he⟩
    · have := h.1 p hp
      simp only [spanBad, Bool.or_eq_true, bne_iff_ne, decide_eq_true_eq]; omega
    · have := h.2 p hp
      simp only [spanBad, Bool.or_eq_true, bne_iff_ne, decide_eq_true_eq]; omega
  have h5 : (r.fs.any (fun fs => w.clause.flagOf fs == 15) && !r.plainStore) = false := by
    cases hfs : r.fs with
    | none => rfl
    | some fs =>
      rcases hf fs hfs with h | h
      · simp [h]
      · simp [h]
  have h6 : (r.mx && w.role != .m) = false := by
    cases hmx : r.mx
    · rfl
    · simp [hm hmx]
  have h7 : (r.conv == .live && w.clause.mask != w.live) = false := by
    by_cases h : r.conv = .live
    · simp [hc h]
    · simp [h]
  have h8 : (r.conv == .tiles && w.strays != 0) = false := by
    by_cases h : r.conv = .tiles
    · simp [ht h]
    · simp [h]
  unfold Warp.check
  simp only [h3, h4, h5, h6, h7, h8, Bool.false_eq_true, if_false]

/-! ## Completed words -/

theorem Completed.v {s t : State} {n : Nat} {w : Warp} (h : Completed s t n w) : t.warp.v = w.v := by
  simpa only [Warp.regs] using congrArg Warp.v h.2.1
theorem Completed.s {s t : State} {n : Nat} {w : Warp} (h : Completed s t n w) : t.warp.s = w.s := by
  simpa only [Warp.regs] using congrArg Warp.s h.2.1
theorem Completed.p {s t : State} {n : Nat} {w : Warp} (h : Completed s t n w) : t.warp.p = w.p := by
  simpa only [Warp.regs] using congrArg Warp.p h.2.1
theorem Completed.q {s t : State} {n : Nat} {w : Warp} (h : Completed s t n w) : t.warp.q = w.q := by
  simpa only [Warp.regs] using congrArg Warp.q h.2.1
theorem Completed.e {s t : State} {n : Nat} {w : Warp} (h : Completed s t n w) : t.warp.e = w.e := by
  simpa only [Warp.regs] using congrArg Warp.e h.2.1

/-- Two warps with the same registers are the same for a completed word. -/
theorem Completed.congr {s t : State} {n : Nat} {w w' : Warp} (h : Completed s t n w) (e : w.regs = w'.regs) :
    Completed s t n w' := ⟨h.1, h.2.1.trans e, h.2.2⟩

/-- A v write at issue, completed. -/
theorem State.completed_wrV (s : State) (n r : Nat) (m : Mask) (f : Nat → Word) :
    Completed s ((s.setWarp (s.warp.wrV r m f)).retire n) n (s.warp.wrV r m f) := by
  obtain ⟨sp, h⟩ := s.warp.wrV_eq r m f
  refine s.completed_retire _ n ?_ ?_ ?_ ?_ ?_ ?_ <;> rw [h]

theorem State.completed_wrS (s : State) (n r : Nat) (x : Word) :
    Completed s ((s.setWarp (s.warp.wrS r x)).retire n) n (s.warp.wrS r x) :=
  s.completed_retire _ n rfl rfl rfl rfl rfl rfl

theorem State.completed_wrQ (s : State) (n i : Nat) (x : Bool) :
    Completed s ((s.setWarp (s.warp.wrQ i x)).retire n) n (s.warp.wrQ i x) :=
  s.completed_retire _ n rfl rfl rfl rfl rfl rfl

theorem State.completed_wrP (s : State) (n i : Nat) (m : Mask) (f : Nat → Bool) :
    Completed s ((s.setWarp (s.warp.wrP i m f)).retire n) n (s.warp.wrP i m f) := by
  obtain ⟨sp, p, h⟩ := s.warp.wrP_eq i m f
  refine s.completed_retire _ n ?_ ?_ ?_ ?_ ?_ ?_ <;> rw [h]

/-- And conversely: a word that rows 3 to 7 let through has what they ask for. -/
theorem Warp.passes_of_check (w : Warp) (r : Req) (h : w.check r = none) : w.passes r := by
  simp only [Warp.check] at h
  split at h <;> rename_i h1
  · exact absurd h (by simp)
  split at h <;> rename_i h2
  · exact absurd h (by simp)
  split at h <;> rename_i h3
  · exact absurd h (by simp)
  split at h <;> rename_i h4
  · exact absurd h (by simp)
  split at h <;> rename_i h5
  · exact absurd h (by simp)
  split at h <;> rename_i h6
  · exact absurd h (by simp)
  simp only [Bool.or_eq_true, not_or, Bool.not_eq_true] at h2
  obtain ⟨⟨hv, hs⟩, he⟩ := h2
  refine ⟨⟨fun p hp => ?_, fun p hp => ?_⟩, he, fun fs hf => ?_, fun hm => ?_, fun hc => ?_, fun hc => ?_⟩
  · have a := List.any_eq_false.1 (Bool.not_eq_true _ ▸ h1) p hp
    have b := List.any_eq_false.1 hv p hp
    simp [spanBeyond, spanBad] at a b
    omega
  · have b := List.any_eq_false.1 hs p hp
    simp [spanBad] at b
    omega
  · rw [hf] at h3
    simp at h3
    rcases Decidable.em (w.clause.flagOf fs = 15) with e | e
    · exact .inr (h3 e)
    · exact .inl e
  · simpa [hm] using h4
  · simpa [hc] using h5
  · simpa [hc] using h6

/-! ## Taking an exception (08 R260, R262) -/

/-- With a handler, outside it: the trap registers are set and the handler is entered; nothing but the warp changes. -/
theorem State.takeTrap_enter (s : State) (hdr : CodeAddr) (re : Option CodeAddr) (lanes : Mask) (x : TrapInfo) (tpc : Word) (tier : Bool)
    (h : s.warp.handler = none) (hh : s.group.handler ≠ 0xFF) :
    s.takeTrap hdr re lanes x tpc tier = s.setWarp ((s.warp.setTrap x tpc).enterHandler hdr re lanes x.cause) := by
  unfold State.takeTrap
  have h1 : (s.warp.setTrap x tpc).handler = none := h
  simp [h1, hh]

/-- Without a handler, or inside it: the warp stops and the launch fails with the cause. -/
theorem State.takeTrap_fail (s : State) (hdr : CodeAddr) (re : Option CodeAddr) (lanes : Mask) (x : TrapInfo) (tpc : Word) (tier : Bool)
    (h : s.warp.handler.isSome = true ∨ s.group.handler = 0xFF) :
    s.takeTrap hdr re lanes x tpc tier = (s.setWarp (s.warp.setTrap x tpc).stop).failNode s.group.node x.cause false tier := by
  unfold State.takeTrap
  have h1 : (s.warp.setTrap x tpc).handler = s.warp.handler := rfl
  rcases h with h | h <;> simp [h1, h]

theorem State.onlyWarp_takeTrap (s : State) (hdr : CodeAddr) (re : Option CodeAddr) (lanes : Mask) (x : TrapInfo) (tpc : Word) (tier : Bool)
    (h : s.warp.handler = none) (hh : s.group.handler ≠ 0xFF) : OnlyWarp s (s.takeTrap hdr re lanes x tpc tier) := by
  rw [State.takeTrap_enter s hdr re lanes x tpc tier h hh]; exact OnlyWarp.setWarp s _

end Sys2Proof.Machine
end

