-- ==== Sys2Proof/Tests/Slice0.lean ====
section
/-!
SUPPORT. The model's own tests: each well-formedness check refuses a term, words written out from the spec's encodings decode
to their instructions, and the hypotheses of each claim are met by a small state.
-/
open Sys2Proof Sys2Proof.Machine Sys2Proof.Claims

set_option Elab.async false

/-! ## Well-formedness: what each check refuses (11 Table 11-7 row 2) -/

/-- Operands with every field 0 and guard 7. -/
def lx0 : LxOps := ⟨7, 0, 0, .vreg 0, .vreg 0, false, false, false, false, 0, false, 0⟩
def ux0 : UxOps := ⟨7, 0, 0, .sreg 0, 0, false, 0, false, 0⟩
def m0 : MemFields := ⟨0, 2, false, 0, 0, 0, false, 0, 0⟩
def lm0 : LmOps := ⟨7, 0, 0, .vreg 0, m0⟩
def um0 : UmOps := ⟨7, 0, 0, .sreg 0, m0⟩

/-- None of a list of terms is well formed. -/
def refused (is : List Instr) : Bool := is.all (fun i => !wellFormed i)

theorem test_wf_la : refused [.iadd ⟨7, 0, 0, .inl 120⟩, .fadd ⟨7, 0, 0, .inl 63⟩, .mov ⟨7, 0, 1, .vreg 0⟩, .mov ⟨7, 0, 0, .inl 127⟩] = true := by decide

theorem test_wf_ix : refused [.imulhiS { lx0 with b := .inl 120 }, .imulhiU { lx0 with c := .vreg 1 }, .bfeU { lx0 with na := true },
    .bfeS { lx0 with aux := 1 }, .imad { lx0 with c := .inl 120 }, .imad { lx0 with nb := true }, .bfi { lx0 with nc := true },
    .prmt { lx0 with aux := 1 }, .popc { lx0 with b := .vreg 1 }, .clz { lx0 with c := .sreg 0 }, .brev { lx0 with fs := true },
    .lea { lx0 with aux := 8 }, .iadd3 { lx0 with rm := 1 }, .isad { lx0 with aux := 2 }, .icmp { lx0 with d := 7 },
    .icmp { lx0 with aux := 10 }, .icmp { lx0 with aux := 0x30 }, .icmp { lx0 with aux := 0x40 }, .icmp { lx0 with c := .vreg 1 },
    .icmp { lx0 with aux := 0x10, c := .vreg 7 }, .sel { lx0 with c := .vreg 7 }, .sel { lx0 with sat := true },
    .iadd64 { lx0 with b := .inl 112 }, .iadd64 { lx0 with c := .vreg 1 }] = true := by decide

theorem test_wf_fp : refused [.fma { lx0 with sat := true }, .fma { lx0 with rm := 5 }, .fcmp { lx0 with aux := 8 }, .fcmp { lx0 with nc := true },
    .frnd { lx0 with b := .vreg 1 }, .ffract { lx0 with nb := true }, .fscale { lx0 with nb := true }, .fclass { lx0 with na := true },
    .rcp { lx0 with b := .vreg 1 }, .rsq { lx0 with c := .vreg 1 }, .sqrt { lx0 with aux := 1 }, .exp2 { lx0 with fs := true },
    .log2 { lx0 with rm := 5 }, .sin { lx0 with sat := true }, .cos { lx0 with nc := true }, .tanh { lx0 with nb := true },
    .hfma2 { lx0 with sat := true }, .bfma2 { lx0 with aux := 1 }, .hmin2 { lx0 with rm := 1 }, .hmax2 { lx0 with c := .vreg 1 },
    .bmin2 { lx0 with nc := true }, .bmax2 { lx0 with aux := 1 }, .hcmp2 { lx0 with aux := 8 }, .bcmp2 { lx0 with rm := 1 },
    .dadd { lx0 with c := .vreg 1 }, .dmul { lx0 with nc := true }, .dfma { lx0 with sat := true }, .dmin { lx0 with rm := 1 },
    .dmax { lx0 with aux := 1 }, .dcmp { lx0 with aux := 8 }, .cvt { lx0 with aux := 9 }, .cvt { lx0 with aux := 0x90 },
    .cvt { lx0 with nb := true }, .cvt { lx0 with b := .vreg 1 }] = true := by decide

theorem test_wf_acc : refused [.xclr { lx0 with d := 16 }, .xclr { lx0 with aux := 0x10 }, .xadd { lx0 with a := 1 }, .xadd { lx0 with aux := 0x0A },
    .xsub { lx0 with d := 16 }, .xrnd { lx0 with a := 16 }, .xrnd { lx0 with aux := 4 }, .xget { lx0 with aux := 10 },
    .xget { lx0 with b := .vreg 1 }, .xset { lx0 with aux := 10 }, .xset { lx0 with a := 1 }, .xmov { lx0 with a := 16 },
    .xmov { lx0 with aux := 2 }, .xstat { lx0 with aux := 2 }, .xstat { lx0 with a := 16 }] = true := by decide

theorem test_wf_cross : refused [.shfl { lx0 with aux := 4 }, .vote { lx0 with a := 7 }, .vote { lx0 with d := 7 }, .vote { lx0 with nb := true },
    .matchLanes { lx0 with aux := 4 }, .elect { lx0 with d := 7 }, .elect { lx0 with a := 1 }, .red { lx0 with aux := 11 },
    .red { lx0 with rm := 1 }, .scan { lx0 with aux := 0x20 }, .scan { lx0 with aux := 11 }, .bpack { lx0 with aux := 3 },
    .bunpk { lx0 with b := .vreg 1 }, .plop3 { lx0 with a := 7 }, .plop3 { lx0 with b := .vreg 7 }, .p2v { lx0 with a := 1 },
    .v2p { lx0 with d := 1 }, .v2p { lx0 with aux := 0x80 }] = true := by decide

theorem test_wf_control : refused [.br ⟨7, 1, 0⟩, .ret ⟨7, 0, 1⟩, .exit ⟨7, 0, 1⟩, .exit ⟨7, 1, 0⟩, .bru ⟨7, 1, 0⟩, .retu ⟨7, 0, 1⟩,
    .retx ⟨7, 0, 1⟩, .exitw ⟨7, 1, 0⟩, .nop ⟨7, 0, 1⟩] = true := by decide

theorem test_wf_memory : refused [.ld { lm0 with b := .vreg 1 }, .ld { lm0 with a := 1 }, .ld { lm0 with m := { m0 with space := 5 } },
    .ld { lm0 with m := { m0 with size := 5 } }, .ld { lm0 with m := { m0 with scope := 6 } }, .ld { lm0 with m := { m0 with ord := 2 } },
    .ld { lm0 with m := { m0 with sx := true } }, .ld { lm0 with m := { m0 with aop := 1 } }, .st { lm0 with m := { m0 with policy := 1 } },
    .st { lm0 with m := { m0 with ord := 1 } }, .st { lm0 with m := { m0 with sx := true, size := 0 } }, .atom { lm0 with m := { m0 with aop := 13 } },
    .atom { lm0 with m := { m0 with size := 4 } }, .atom { lm0 with m := { m0 with aop := 10, size := 3 } },
    .atom { lm0 with b := .inl 64, m := { m0 with aop := 9 } }, .atom { lm0 with m := { m0 with policy := 1 } },
    .cpa { lm0 with m := { m0 with space := 4 } }, .cpa { lm0 with m := { m0 with ord := 1 } },
    .cpa { lm0 with m := { m0 with space := 1, policy := 1 } }, .cpa { lm0 with m := { m0 with sx := true } }, .ardl { lx0 with aux := 1 },
    .ardl { lx0 with rm := 1 }, .uld { um0 with a := 1 }, .uld { um0 with m := { m0 with space := 4 } }, .ust { um0 with b := .imm 1 },
    .uatom { um0 with m := { m0 with aop := 10, size := 3 } }] = true := by decide

theorem test_wf_uniform : refused [.uiadd ⟨7, 0, 0, .imm 0x100⟩, .umov ⟨7, 0, 1, .imm 1⟩, .uimulhiS { ux0 with c := 1 }, .uimulhiU { ux0 with md := 1 },
    .ubfeU { ux0 with fs := true }, .ucmp { ux0 with d := 7 }, .ucmp { ux0 with md := 10 }, .usel { ux0 with c := 7 }, .usel { ux0 with ck := true },
    .upopc { ux0 with b := .imm 1 }, .uclz { ux0 with aux := 1 }, .ubfi { ux0 with md := 1 }, .uiadd64 { ux0 with aux := 1 },
    .ulea64 { ux0 with aux := 8 }, .ulea64 { ux0 with md := 2 }, .uqlop { ux0 with a := 7 }, .uqlop { ux0 with b := .imm 1 },
    .urdl { ux0 with md := 2 }, .uwrl { ux0 with d := 1 }] = true := by decide

theorem test_wf_system : refused [.trap { ux0 with a := 1 }, .brkpt { ux0 with aux := 1 }, .eret { ux0 with md := 1 }, .yield { ux0 with fs := true },
    .svc { ux0 with ck := true }, .srd { ux0 with md := 2 }, .srd { ux0 with aux := 64 }, .swr { ux0 with d := 1 }, .smode { ux0 with md := 2 },
    .part { ux0 with aux := 1 }, .sleep { ux0 with a := 1 }, .ovlld { ux0 with md := 1 }, .waitmem { ux0 with aux := 6 },
    .waitmem { ux0 with aux := 0x30 }, .waitmem { ux0 with a := 1 }, .fence { ux0 with aux := 6 }, .pub { ux0 with a := 1 },
    .barInit { ux0 with aux := 2 }, .barInit { ux0 with aux := 3, md := 1 }, .barArrive { ux0 with md := 2 }, .barExpect { ux0 with d := 1 },
    .barWait { ux0 with d := 7 }, .barTest { ux0 with aux := 1 }, .barInval { ux0 with b := .imm 1 }, .launch { ux0 with a := 1 },
    .launch { ux0 with aux := 4 }, .cntadd { ux0 with d := 7 }, .cancel { ux0 with d := 1 }, .cntwait { ux0 with aux := 4 },
    .txf { ux0 with a := 1 }, .txcan { ux0 with aux := 12 }, .txcan { ux0 with aux := 0x11 }, .mqEnq { ux0 with b := .imm 1 },
    .mqDeq { ux0 with md := 4 }] = true := by decide

theorem test_wf_matrix : refused [.qfuse { ux0 with aux := 3 }, .wload { ux0 with d := 1 }, .adrn { ux0 with aux := 1 }, .wswap { ux0 with a := 1 },
    .mms { ux0 with md := 8 }, .mms { ux0 with md := 0x20 }, .aclr { ux0 with aux := 1 }, .mstat { ux0 with aux := 5 },
    .mstat { ux0 with md := 1, aux := 1 }] = true := by decide

/-- The words are one instruction. -/
def reads (ws : List Word) (i : Instr) : Bool :=
  match decode ws with
  | .ok (j, []) => j == i
  | _ => false

/-- The words are rejected so. -/
def rejects (ws : List Word) (e : DecodeError) : Bool :=
  match decode ws with
  | .error x => x == e
  | _ => false

/-! ## Decoding: a word of each family, from its encoding -/

-- LA: major << 25 | g << 22 | d << 15 | a << 8 | bk << 7 | b (13 R388); 66 is the inline constant 2
theorem test_decode_la : reads [0x1BC306C2] (.shl ⟨7, 6, 6, .inl 66⟩) = true := by decide
theorem test_decode_literal : reads [0x01C286FF, 0xDEADBEEF] (.iadd ⟨7, 5, 6, .lit 0xDEADBEEF⟩) = true := by decide
-- LX: word 1 is sub-op << 24 | c << 17 | ck << 16 | NA << 15 | NB << 14 | NC << 13 | SAT << 12 | RM << 9 | FS << 8 | AUX
theorem test_decode_lx : reads [0x43C18A08, 0x00128400] (.fma { lx0 with d := 3, a := 10, b := .vreg 8, c := .vreg 9, na := true, rm := 2 }) = true := by decide
theorem test_decode_sf : reads [0x45C08300, 0x07000000] (.tanh { lx0 with d := 1, a := 3 }) = true := by decide
theorem test_decode_dx : reads [0x49C10204, 0x01000000] (.dmul { lx0 with d := 2, a := 2, b := .vreg 4 }) = true := by decide
theorem test_decode_xa : reads [0x4DC00000, 0x00000001] (.xclr { lx0 with aux := 1 }) = true := by decide
theorem test_decode_xl : reads [0x4FC080C1, 0x00000001] (.shfl { lx0 with d := 1, b := .inl 65, aux := 1 }) = true := by decide
theorem test_decode_pl : reads [0x51C00001, 0x00040080] (.plop3 { lx0 with b := .vreg 1, c := .vreg 2, aux := 0x80 }) = true := by decide
-- LB, LM: 12 R359, 14 R415
theorem test_decode_lb : reads [0x58007FFE] (.br ⟨0, 0, 0x7FFE⟩) = true := by decide
theorem test_decode_exit : reads [0x5FC00000] (.exit ⟨7, 0, 0⟩) = true := by decide
theorem test_decode_jmpi : reads [0x61C00300, 0x00050120] (.jmpi ⟨7, 3, 5, 0x120⟩) = true := by decide
theorem test_decode_lm : reads [0x63C08400, 0x04000000] (.ld ⟨7, 1, 4, .vreg 0, m0⟩) = true := by decide
-- UA, UX, UB, UM
theorem test_decode_ua : reads [0x81C517FD] (.uiadd ⟨7, 5, 5, .imm 0x1FD⟩) = true := by decide
theorem test_decode_ux : reads [0xA1C10204, 0x02000600] (.ucmp { ux0 with d := 1, b := .imm 4, md := 3 }) = true := by decide
theorem test_decode_ub : reads [0xB1C0FFF0] (.bru ⟨7, 0, 0xFFF0⟩) = true := by decide
theorem test_decode_callx : reads [0xB9C80000, 0x00020010] (.callx ⟨7, 8, 2, 0x10⟩) = true := by decide
theorem test_decode_sys : reads [0xC1C30000, 0x04000200] (.srd { ux0 with d := 3, md := 1 }) = true := by decide
-- rows 1 and 2 of Table 11-7: reserved majors and sub-ops, a reserved field, a missing second word
theorem test_decode_reserved : rejects [0x37C00000] .reserved = true ∧ rejects [0x41C20406, 0x10000000] .reserved = true := by decide
theorem test_decode_field : rejects [0x41C20406, 0x0F000100] .field = true ∧ rejects [0x41C20406] .short = true := by decide

/-! ## Hypotheses met: words -/

/-- A matrix warp of 32 lanes, alone on core 0, at the first of four words of its clause; every register is 0 but those given. -/
def warp0 (s : List (Nat × Word) := []) (v : List (Nat × Word) := []) : Warp :=
  { role := .m, budget := 16, live := BitVec.allOnes 32, s := s, v := v, frontier := [{ pc := 0x10, mask := BitVec.allOnes 32 }],
    clause := { active := true, hdr := 0x10, len := 4, pc := 0x11, fa := 0, fb := 11, mask := BitVec.allOnes 32 } }

/-- Its group: 4,096 bytes of scratchpad, of the parallel class, one overlay bound at slot 0 and its first block filled. -/
def group0 : Group :=
  { place := .core 0, cls := 1, scratch := 4096, lanePriv := 256, nwarps := 1, nm := 1, novl := 3, slots := [(0, some ⟨0, 0x1000, 64⟩)] }

def on (w : Warp) (g : Group := group0) : State :=
  { groups := [(0, g)], warps := [(0, w)], imem := [⟨0, 0, 0x1000, 0, List.replicate 64 0x30000000⟩] }

def s0 : State := on (warp0 [(2, 5)])

/-- Context 0 of glade 1, whose root, table and leaf lie in the first three double words: 2³⁰ bytes from VA 2³¹ map to address 0, in plot 0.
At 2³¹ + 64 is a shape record of four bytes. -/
def sMap : State :=
  { on (warp0 [(2, 5), (4, 0x80000040), (6, 0xC0000040)]) with
    mem := [(0, 1), (8, 1), (16, 7), (76, 4), (80, 1), (82, 1)], plots := [(0, { st := .owned, glade := 1 })] }

/-- The handler of an overlay; inside it. -/
def handling (cause : Nat) : State :=
  on { warp0 with frontier := [], hfront := [{ pc := 0x10, mask := BitVec.allOnes 32 }], handler := some ⟨cause⟩, tpc := 0x00100011 }
    { group0 with handler := 1 }

/-- An access that its checks let through, from a test that evaluates. -/
theorem inr_of {α β γ : Type} (x : (α ⊕ β) × γ) (h : x.1.isRight = true) : ∃ p u, x = (.inr p, u) := by
  obtain ⟨_ | p, u⟩ := x
  · cases h
  · exact ⟨p, u, rfl⟩

def ofRight (x : (TrapInfo ⊕ List (Part × XRes)) × State) : List (Part × XRes) := match x.1 with | .inr p => p | .inl _ => []

theorem test_meets_LaneIntegerResults :
    (∃ i o f, laInt i = some (o, f) ∧ o.d = 127 ∧ s0.warp.passes o.req) ∧ ∃ i o f, ixInt i = some (o, f) ∧ s0.warp.passes (o.req 1 1 1 1) :=
  ⟨⟨.iadd ⟨7, 127, 0, .inl 64⟩, _, _, rfl, rfl, Warp.passes_of_check _ _ (by decide)⟩,
   ⟨.bfi lx0, _, _, rfl, Warp.passes_of_check _ _ (by decide)⟩⟩

theorem test_meets_LanePredicateResults : ∃ i f, predForms s0.warp i = some f ∧ s0.warp.passes f.req :=
  ⟨.icmp lx0, _, rfl, Warp.passes_of_check _ _ (by decide)⟩

theorem test_meets_LaneSelectionResults :
    (∃ i f, selectForms s0.warp i = some f ∧ s0.warp.passes f.req) ∧ (∃ i f, crossForms s0.warp i = some f ∧ s0.warp.passes f.req) ∧
      ∃ i f, accForms s0.warp i = some f ∧ s0.warp.passes f.req :=
  ⟨⟨.iadd64 { lx0 with d := 126 }, _, rfl, Warp.passes_of_check _ _ (by decide)⟩, ⟨.shfl lx0, _, rfl, Warp.passes_of_check _ _ (by decide)⟩,
   ⟨.xget { lx0 with a := 15, aux := 9 }, _, rfl, Warp.passes_of_check _ _ (by decide)⟩⟩

theorem test_meets_FloatResults : ∃ i f, flagForms s0.warp i = some f ∧ s0.warp.passes f.req ∧ trapping s0.warp f.lanes f.fl = 0 :=
  ⟨.fadd ⟨7, 1, 0, .inl 64⟩, _, rfl, Warp.passes_of_check _ _ (by decide), by decide +kernel⟩

theorem test_meets_FloatCompares : ∃ i o r c, compareForms s0.warp i = some (o, r, c) ∧ s0.warp.passes r ∧
    trapping s0.warp (s0.warp.active o.g) (fun l => (c l).2) = 0 :=
  ⟨.fcmp lx0, _, _, _, rfl, Warp.passes_of_check _ _ (by decide), by decide +kernel⟩

/-- FADD of +∞ and −∞ in every lane, with TIV set. -/
def sInf : State := on { warp0 [] ((List.range 32).map (fun l => (l, 0x7F800000#32))) with fmode := 0x40 }

theorem test_meets_FloatTraps :
    (∃ i f, flagForms sInf.warp i = some f ∧ sInf.warp.passes f.req ∧ trapping sInf.warp f.lanes f.fl ≠ 0) ∧
    (∃ i o r c, compareForms sInf.warp i = some (o, r, c) ∧ sInf.warp.passes r) ∧
    ∃ i o neg, addForms i = some (o, neg) ∧ sInf.warp.passes (addReq sInf.warp o) ∧
      trapping sInf.warp (maskIf fun l => (fed sInf.warp o).contains l) (sumFlags sInf.warp o neg) ≠ 0 :=
  ⟨⟨.fadd ⟨7, 1, 0, .lit 0xFF800000⟩, _, rfl, Warp.passes_of_check _ _ (by decide), by decide +kernel⟩,
   ⟨.fcmp lx0, _, _, _, rfl, Warp.passes_of_check _ _ (by decide)⟩,
   ⟨.xadd { lx0 with b := .lit 0x7F800001 }, _, _, rfl, Warp.passes_of_check _ _ (by decide), by decide +kernel⟩⟩

theorem test_meets_AccumulatorWrites :
    (∃ i o neg, addForms i = some (o, neg) ∧ s0.warp.passes (addReq s0.warp o) ∧
      trapping s0.warp (maskIf fun l => (fed s0.warp o).contains l) (sumFlags s0.warp o neg) = 0) ∧
    (∃ o : LxOps, o.d = 0 ∧ o.aux = 15 ∧ s0.warp.passes { eBad := decide (16 < o.d.toNat + 16) }) ∧
    (∃ o : LxOps, o.aux = 9 ∧ s0.warp.passes (o.req 0 0 1 0)) ∧ s0.warp.passes {} :=
  ⟨⟨.xadd lx0, _, _, rfl, Warp.passes_of_check _ _ (by decide), by decide +kernel⟩,
   ⟨{ lx0 with aux := 15 }, rfl, rfl, Warp.passes_of_check _ _ (by decide)⟩,
   ⟨{ lx0 with aux := 9 }, rfl, Warp.passes_of_check _ _ (by decide)⟩, Warp.passes_of_check _ _ (by decide)⟩

theorem test_meets_UniformResults :
    (∃ i f, uniForms s0.warp i = some f ∧ s0.warp.passes f.req ∧ s0.warp.guard f.q = true ∧ f.d = 62) ∧
    (∃ i o b, uniPreds s0.warp i = some (o, b) ∧ s0.warp.guard o.q = true) ∧
    ∃ o : UxOps, s0.warp.passes { vs := [(lane64 o, 1)], conv := .live } ∧ s0.warp.guard o.q = true ∧ lane64 o = 127 :=
  ⟨⟨.uiadd64 { ux0 with d := 62, b := .imm 1 }, _, rfl, Warp.passes_of_check _ _ (by decide), by decide, rfl⟩,
   ⟨.ucmp ux0, _, _, rfl, by decide⟩, ⟨{ ux0 with a := 63, md := 1 }, Warp.passes_of_check _ _ (by decide), by decide, by decide⟩⟩

theorem test_meets_WordChecks :
    (∃ i q n r, uniGuard s0.warp i = some (q, n, r) ∧ s0.warp.passes r ∧ s0.warp.guard q = false) ∧
    (∃ i r, wordReq (warp0.setS 0 0) i = some r ∧ firstFault (warp0.setS 0 0) r = some (0x01, BitVec.allOnes 32, 4)) ∧
    (∃ i r, wordReq { warp0 with budget := 15 } i = some r ∧ firstFault { warp0 with budget := 15 } r = some (0x01, BitVec.allOnes 32, 3)) ∧
    (∃ i r, wordReq { warp0 with role := .v } i = some r ∧ firstFault { warp0 with role := .v } r = some (0x12, BitVec.allOnes 32, 0)) ∧
    ∃ i r, wordReq { warp0 with live := 1 } i = some r ∧ firstFault { warp0 with live := 1 } r = some (0x03, BitVec.allOnes 32, 0) :=
  ⟨⟨.uiadd ⟨0, 0, 0, .imm 1⟩, _, _, _, rfl, Warp.passes_of_check _ _ (by decide), by decide⟩,
   ⟨.iadd64 { lx0 with d := 1 }, _, rfl, by decide⟩, ⟨.mov ⟨7, 120, 0, .vreg 0⟩, _, rfl, by decide⟩,
   ⟨.wswap ux0, _, rfl, by decide⟩, ⟨.fence ux0, _, rfl, by decide⟩⟩

theorem test_meets_LaneTransfers : s0.warp.passes { vs := [(127, 1)] } := Warp.passes_of_check _ _ (by decide)

theorem test_meets_Exits : s0.warp.clause.mask = s0.warp.live ∧ s0.warp.guard 7 = true := by decide

theorem test_meets_UniformTransfers :
    s0.warp.passes { vs := [(0, 1)] } ∧ s0.warp.guard 7 = true ∧ s0.group.tableLoaded 0 64 = true ∧ s0.group.tableLoaded 0 65 = false ∧
    (s0.imemWord s0.group (0 + BitVec.ofNat 16 0)).isSome = true ∧ s0.group.slotWith 0 = some 0 ∧ s0.group.slotWith 1 = none ∧
    s0.group.slot 0 = some ⟨0, 0x1000, 64⟩ := ⟨Warp.passes_of_check _ _ (by decide), by decide, by decide, by decide, by decide, by decide, by decide, by decide⟩

theorem test_meets_ExceptionEntry :
    ((on warp0 { group0 with handler := 1 }).warp.handler = none ∧ (on warp0 { group0 with handler := 1 }).group.handler ≠ 0xFF) ∧
      (handling 1).warp.handler.isSome = true ∧ s0.group.handler = 0xFF := by decide

theorem test_meets_SoftwareTraps : (on warp0 { group0 with handler := 1 }).warp.guard 7 = true ∧ s0.warp.guard 0 = false ∧
    (on warp0 { group0 with handler := 1 }).warp.handler = none ∧ (on warp0 { group0 with handler := 1 }).group.handler ≠ 0xFF := by decide

/-- ERET: a false guard, no handler, a return to a word of the clause, whose header is at 0x10, and a return from CANCELLED. -/
theorem test_meets_ExceptionReturn : s0.warp.guard 0 = false ∧ s0.warp.handler = none ∧ (handling 1).warp.handler = some ⟨1⟩ ∧
    (handling 1).warp.hfront.length = 1 ∧ ((handling 1).warp.tpc.extractLsb' 0 16 ≠ (handling 1).warp.tpc.extractLsb' 16 16) ∧
    (handling 1).imemWord (handling 1).group 0x10 = some 0x30000000 ∧ (Header.ofWord 0x30000000).len = 3 ∧
    (handling 0x11).warp.handler = some ⟨0x11⟩ := by decide

theorem test_meets_SpecialReads :
    ∃ q n r, uniGuard s0.warp (.srd { ux0 with aux := 44 }) = some (q, n, r) ∧ s0.warp.passes r ∧ s0.warp.guard q = true ∧
      (specialValue s0 44).isSome = true ∧ specialValue s0 45 = none :=
  ⟨_, _, _, rfl, Warp.passes_of_check _ _ (by decide), by decide, by decide, by decide⟩

theorem test_meets_SpecialWrites :
    (∃ q n r, uniGuard s0.warp (.swr { ux0 with aux := 24 }) = some (q, n, r) ∧ s0.warp.passes r ∧ s0.warp.guard q = true) ∧
      s0.warp.clause.mask = s0.warp.live ∧ (handling 1).warp.handler.isSome = true :=
  ⟨⟨_, _, _, rfl, Warp.passes_of_check _ _ (by decide), by decide⟩, by decide⟩

theorem test_meets_IssueControl : s0.warp.guard 7 = true ∧ s0.warp.clause.mask = s0.warp.live := by decide

/-- A load from C space at the last word of the scratchpad, and from G space at address 0, in every lane. -/
def ldC : LmOps := { lm0 with d := 1, m := { m0 with space := 1, off := 0 } }
def sMem : State := on (warp0 [] ((List.range 32).map (fun l => (l, 4092#32))))

theorem test_meets_ScratchMemoryIssue :
    ∃ f, memForms sMem.warp (.ld ldC) = some f ∧ sMem.warp.passes f.req ∧ f.go = true ∧ free sMem.warp f.m.fs ∧ f.m.space.toNat ≠ 0 ∧
      f.m.size.toNat ≤ 4 ∧ ∀ a ∈ f.as, sMem.inSpace sMem.group f.m.space.toNat a.addr f.m.nbytes = true ∧ a.addr % f.m.nbytes = 0 :=
  ⟨_, rfl, Warp.passes_of_check _ _ (by decide), rfl, ⟨rfl, .inr (by decide)⟩, by decide, by decide, by decide +kernel⟩

theorem test_meets_GlobalMemoryIssue :
    ∃ f u ps, memForms sMap.warp (.uld { um0 with a := 4 }) = some f ∧ sMap.warp.passes f.req ∧ f.go = true ∧ free sMap.warp f.m.fs ∧
      sMap.checkAccess f.m.space.toNat f.m.nbytes f.code f.strict f.tk (f.tk == .atomic) f.as = (.inr ps, u) :=
  have ⟨ps, u, h⟩ := inr_of (sMap.checkAccess 0 um0.m.nbytes 0 (um0.m.ord != 0) .read false [{ lane := 0, addr := 0x80000040 }]) (by decide +kernel)
  ⟨_, u, ps, rfl, Warp.passes_of_check _ _ (by decide), by decide, ⟨rfl, .inr (by decide)⟩, h⟩

theorem test_meets_MemoryTraps :
    (∃ f, memForms sMem.warp (.ld { ldC with m := { ldC.m with off := 4 } }) = some f ∧ sMem.warp.passes f.req ∧ f.go = true ∧
      free sMem.warp f.m.fs ∧ (f.as.any fun a => !sMem.inSpace sMem.group f.m.space.toNat a.addr f.m.nbytes) = true) ∧
    (∃ f, memForms sMem.warp (.ld { ldC with m := { ldC.m with off := 0xFFE } }) = some f ∧ f.m.space.toNat ≠ 0 ∧
      (∀ a ∈ f.as, sMem.inSpace sMem.group f.m.space.toNat a.addr f.m.nbytes = true) ∧ (f.as.any fun a => a.addr % f.m.nbytes != 0) = true) ∧
    (let w := warp0.setF 0 63
     w.fence = none ∧ w.clause.flagOf false ≠ 15 ∧ w.getF (w.clause.flagOf false) = 63) ∧
    ∃ o : Op, o.covered = true ∧ State.coveredBefore { sMem with ops := [o] } 0 0 1 = true :=
  ⟨⟨_, rfl, Warp.passes_of_check _ _ (by decide), rfl, ⟨rfl, .inr (by decide)⟩, by decide +kernel⟩,
   ⟨_, rfl, by decide, by decide +kernel, by decide +kernel⟩, by decide,
   ⟨{ id := 0, owner := .warp 0 0, flag := 0, parts := [{}], body := .access ⟨.store, true, 0, 4, false, 0, 0, []⟩ }, by decide, by decide⟩⟩

theorem test_meets_HierarchyIssue :
    s0.warp.passes { ss := [(0, 8), (4, 4)], fs := some false, conv := .live } ∧ s0.warp.guard 7 = true ∧
    freeTag (s0.host.tags.map (fun t => t.1)) 1024 = some 0 ∧ s0.warp.passes { fs := some false, conv := .live } ∧ (2 : Nat) < s0.group.novl ∧
    s0.group.novl ≤ 3 ∧ s0.warp.passes { ss := [(62, 2)], fs := some false, conv := .live } ∧ free s0.warp false ∧
    (s0.warp.getS64 0).toNat = 0 ∧ s0.warp.clause.mask = s0.warp.live ∧ s0.coveredBefore s0.curG s0.curW s0.nextOp = false ∧
    s0.counter s0.group.ctx 1 0 = none ∧ s0.group.cls ≠ 2 :=
  ⟨Warp.passes_of_check _ _ (by decide), by decide, by decide +kernel, Warp.passes_of_check _ _ (by decide), by decide, by decide,
   Warp.passes_of_check _ _ (by decide), ⟨rfl, .inr (by decide)⟩, by decide, by decide, by decide, by decide, by decide⟩

/-- A live unit of level 1, for CNTADD. -/
def sUnit : State := { s0 with graph := { counters := [{ ctx := 0, level := 1, ident := 0, count := 4294967290 }] } }
theorem test_meets_CountersAndCancel : ∃ c, sUnit.counter sUnit.group.ctx 1 0 = some c ∧ (sUnit.counterFloor c : Int) ≤ c.count + 5 ∧
    (c.count : Int) + (sUnit.warp.usrc (.sreg 2)).toInt = 2 ^ 32 - 1 := ⟨_, rfl, by decide⟩

theorem test_meets_TranslatedIssue :
    sMap.warp.guard 7 = true ∧ free sMap.warp false ∧ sMap.warp.passes { fs := some false, conv := .live, ss := [(4, 2)] } ∧
    (sMap.warp.getS64 4).toNat = 0x80000040 ∧
    (∃ ps u, sMap.checkAccess 0 1 0 false .read false [{ lane := 0, addr := 0x80000040 }] = (.inr ps, u)) ∧
    (∃ q n r, uniGuard sMap.warp (.waitmem { ux0 with a := 4, md := 1 }) = some (q, n, r) ∧ sMap.warp.passes r) ∧ sMap.group.cls ≠ 2 ∧
    (∃ ps u, sMap.checkAccess 0 4 0 true .read false [{ lane := 0, addr := 0x80000040 }] = (.inr ps, u)) ∧ sMap.warp.passes (mqReq { ux0 with a := 6 }) ∧
    (sMap.warp.getS64 6).toNat = 0xC0000040 ∧
    (∃ ps u, sMap.checkAccess 0 16 3 true .atomic true [{ lane := 0, addr := 0xC0000040 }] = (.inr ps, u)) ∧
    (ofRight (sMap.checkAccess 0 16 3 true .atomic true [{ lane := 0, addr := 0xC0000040 }])).all (fun p => p.2.moduleOk) = true :=
  ⟨by decide, ⟨rfl, .inr (by decide)⟩, Warp.passes_of_check _ _ (by decide), by decide, inr_of _ (by decide +kernel),
   ⟨_, _, _, rfl, Warp.passes_of_check _ _ (by decide)⟩, by decide, inr_of _ (by decide +kernel), Warp.passes_of_check _ _ (by decide), by decide,
   inr_of _ (by decide +kernel), by decide +kernel⟩

/-- What an engine reads, if it reads. -/
def readOf (x : EngRead × State) : List Byte := match x.1 with | .ok b => b | _ => []

theorem test_meets_TransferIssue :
    s0.warp.passes { vs := lm0.memReq 1 0, fs := some false } ∧ free s0.warp false ∧ s0.warp.active 7 ≠ 0 ∧ s0.warp.active 0 = 0 ∧
    (∃ ps u, s0.checkCpa 1 1 4 [{ lane := 0, src := 4092, dst := 0 }] = (.inr ps, u)) ∧ (s0.chanOps s0.curG 0).length < 32 ∧
    s0.coreCopies 0 < 256 ∧ sMap.warp.passes { ss := [(4, 2)], fs := some false, conv := .live } ∧ sMap.warp.wordFailed = none ∧
    sMap.coreTransfers 0 < 64 ∧ (sMap.translate 0 0x80000040 .engRead 64 false).1 ≠ .permission ∧
    (readOf (sMap.engRead (whoWarp 0) 0 0x80000040 64)).length = 64 ∧
    shapeBad (readOf (sMap.engRead (whoWarp 0) 0 0x80000040 64)) 1 = false ∧
    shapeBad (readOf (sMap.engRead (whoWarp 0) 0 0x80000080 64)) 1 = true ∧
    (sMap.engRead (whoWarp 0) 0 0x80000040 64).2.warp.clause = sMap.warp.clause ∧ s0.warp.passes { fs := some false, conv := .live } :=
  ⟨Warp.passes_of_check _ _ (by decide), ⟨rfl, .inr (by decide)⟩, by decide, by decide, ⟨_, _, rfl⟩, by decide, by decide,
   Warp.passes_of_check _ _ (by decide), by decide, by decide, by decide +kernel, by decide +kernel, by decide +kernel, by decide +kernel,
   by decide +kernel, Warp.passes_of_check _ _ (by decide)⟩

/-- A live barrier at 0 that counts 5 arrivals. -/
def sBar : State := on (warp0 [(2, 5)]) { group0 with cmem := Map.setMany 0 [] 0 (Bar.bytes ⟨5, 5, 0, false, 1, 1, 1, 0, 0, 1⟩) }
theorem test_meets_BarrierForms : barGoes sBar { ux0 with b := .sreg 2 } ∧ barSound (sBar.bar (0, 0)) ∧ (sBar.bar (0, 0)).st = 1 ∧
    (sBar.bar (0, 0)).pa = 5 ∧ (sBar.warp.usrc (.sreg 2)).toNat = 5 ∧ (sBar.bar (0, 0)).cls = sBar.group.cls ∧ (s0.bar (0, 0)).st = 0 ∧
    barGoes s0 { ux0 with b := .sreg 2 } ∧ sBar.warp.getF (sBar.warp.clause.flagOf false) ≠ 63 := by
  refine ⟨⟨?_, ?_, ?_, ?_, ?_, ?_⟩, ⟨?_, ?_, ?_, ?_, ?_⟩, ?_, ?_, ?_, ?_, ?_, ⟨?_, ?_, ?_, ?_, ?_, ?_⟩, ?_⟩ <;> decide +kernel

theorem test_meets_BarrierTraps : s0.warp.clause.mask = s0.warp.live ∧ s0.warp.guard 7 = true ∧ s0.warp.fence = none ∧
    (on (warp0 [(0, 4081)])).inSpace group0 1 (barAddr (on (warp0 [(0, 4081)])) ux0) 16 = false ∧
    (on (warp0 [(0, 4072)])).inSpace group0 1 (barAddr (on (warp0 [(0, 4072)])) ux0) 16 = true ∧ barAddr (on (warp0 [(0, 4072)])) ux0 % 16 ≠ 0 ∧
    (sBar.bar (0, 0)).cls ≠ 2 ∧ (s0.bar (0, 0)).st = 0 := by decide +kernel

/-- A matrix warp that holds its quadrant with an active E4M3 plane; a WLOAD descriptor of 32 rows of 32 bytes from address 0; an MMS
descriptor of one row. -/
def sMx : State := { on (warp0 [(1, 32), (3, 2)]) with quads := [(0, { holder := some 0, viewA := some 2 })] }
theorem test_meets_MatrixIssue :
    sMx.warp.passes (mxReq ux0 8) ∧ sMx.warp.passes (mxReq ux0 4) ∧ sMx.warp.passes (mxReq ux0 0) ∧ sMx.warp.guard 7 = true ∧
    sMx.warp.clause.flagOf false ≠ 15 ∧ (sMx.quadAt (ownQuad sMx)).holder = some sMx.curG ∧ (sMx.quadAt (ownQuad sMx)).viewF = false ∧
    field sMx ux0 3 = 2 ∧ (∀ r : Nat, r < 32 → 0 ≤ (field sMx ux0 0 : Int) + r * fieldInt sMx ux0 1 ∧
      sMx.inSpace sMx.group 1 ((field sMx ux0 0 : Int) + r * fieldInt sMx ux0 1).toNat (mxRowBytes 2) = true) ∧
    (sMx.quadAt (ownQuad sMx)).viewA = some 2 ∧ mxPair 2 2 = true ∧ field sMx ux0 5 = 0 :=
  ⟨Warp.passes_of_check _ _ (by decide), Warp.passes_of_check _ _ (by decide), Warp.passes_of_check _ _ (by decide), by decide, by decide,
   by decide, by decide, by decide, by decide +kernel, by decide, by decide, by decide⟩

theorem test_meets_MatrixFuse : mxGoes s0 ux0 0 ∧ (s0.quadAt (ownQuad s0 + 1)).holder = none ∧ s0.warp.subcore % 2 = 0 ∧
    s0.warp.passes { lx0.req 1 1 0 0 with fs := some false, mx := true } :=
  ⟨⟨Warp.passes_of_check _ _ (by decide), by decide, by decide, by decide, by decide, by decide, by decide⟩, by decide, by decide,
   Warp.passes_of_check _ _ (by decide)⟩

/-! ## Hypotheses met: events -/

/-- A state whose present event acts on `a`. -/
def acting (a : EventArg) (s : State := {}) : State := { s with arg := a }

/-- In a phase of the boot. -/
def booting (p : BootPhase) (a : EventArg) : State := { boot := { phase := p }, arg := a }

theorem test_meets_DeviceResets :
    (∀ p : BootPhase, (booting p (.unit 3)).boot.phase = p ∧ (booting p (.unit 3)).arg = .unit 3 ∧ (booting p (.pair 255 0)).arg = .pair 255 0 ∧
      (booting p (.pair 255 0)).boot.phase = p) ∧
    (acting (.write 0 0x8 [1, 0, 0x9A, 0xB1])).arg = .write 0 0x8 [1, 0, 0x9A, 0xB1] ∧ ofBytes [1, 0, 0x9A, 0xB1] / 2 ^ 16 = 0xB19A ∧
    ofBytes [1, 0, 0x9A, 0xB1] % 2 = 1 ∧ inPackage 0 = true ∧ inPackage (modPpa 0 0) = false ∧ (booting .stage1 .none).boot.phase ≠ .halted := by
  refine ⟨fun _ => ⟨rfl, rfl, rfl, rfl⟩, rfl, ?_⟩; decide

theorem test_meets_ManagementRequests :
    (booting .done (.pair 64 1)).boot.phase = .done ∧ (booting .done (.pair 64 1)).arg = .pair 64 1 ∧ (booting .halted (.pair 0 0)).boot.phase = .halted ∧
    (booting .ready (.message [])).arg = .message [] ∧
    (Instr.finish, 8, ({ session := true } : Spdm), ([] : List Byte)) ∈ spdmAnswers (booting .ready (.message [])) [] ∧
    inOrder { exchanged := true } 8 ∧ ¬ inOrder {} 8 := by
  refine ⟨rfl, rfl, rfl, rfl, ?_, rfl, fun h => by cases h⟩
  repeat' first | exact List.mem_cons_self | apply List.mem_cons_of_mem

theorem test_meets_PowerAndHeat :
    (acting (.reading 3 63 115)).arg = .reading 3 63 115 ∧ (acting (.pair 3 280)).arg = .pair 3 280 ∧ (acting (.level false)).arg = .level false ∧
    (acting (.power true 2101)).arg = .power true 2101 ∧ (acting (.write 0 0x10 [0, 0, 0, 0])).arg = .write 0 0x10 [0, 0, 0, 0] ∧
    (acting (.unit 0) { power := { dies := [(0, { throttle := true })] } }).arg = .unit 0 := ⟨rfl, rfl, rfl, rfl, rfl, rfl⟩

/-- A pod of order 2, this package 0, whose port 0 is up at the module that it should reach, and a key of its link. -/
def sPod : State :=
  { pod := { en := true, order := 2, ports := [(0, { state := .up, modid := 0, ext := true }), (1, { state := .training })],
             keys := [{ port := 0, kid := 1, b0 := some ⟨0, 0, 0⟩ }, { port := 0, kid := 2, step := 2 }] } }

theorem test_meets_LinkStates :
    (sPod.port 0).state = .up ∧ (sPod.port 1).state = .training ∧ (sPod.port 2).state ≠ .up ∧ (sPod.port 2).state ≠ .training ∧
    (acting (.write 0 (0x100 + 16 * 8) [7, 0, 0, 0])).arg = .write 0 (0x100 + 16 * 8) [7, 0, 0, 0] ∧ bitOf (ofBytes [7, 0, 0, 0]) 2 = true ∧
    (acting (.training 1 true false true true 0 1 9) sPod).arg = .training 1 true false true true 0 1 9 ∧
    bitOf (ofBytes [0, 6, 0, 0x82]) 31 = true ∧ ofBytes [0, 6, 0, 0x82] / 2 ^ 24 % 16 = 2 ∧ podSet 2 ≠ [] ∧ podSet 6 = [] ∧ ({} : State).pod.en = false ∧
    (acting (.flit 0 1 false 3 0 true) sPod).arg = .flit 0 1 false 3 0 true ∧ ((sPod.keyOf 0 1 false).map (fun x => x.b0.isSome)) = some true ∧
    ((sPod.keyOf 0 1 false).map (fun x => x.b1.isSome)) = some false ∧ ((sPod.keyOf 0 1 false).map (fun x => x.step)) = some 0 ∧
    ((sPod.keyOf 0 2 false).map (fun x => x.step)) = some 2 ∧
    (sPod.pod.en = true ∨ ((3 : Nat) = 3 ∧ (1 : Nat) = 0)) ∧ (sPod.keyOf 0 1 true) = none ∧ sPod.spdm.session = false ∧
    ({ spdm := { session := true } } : State).spdm.session = true ∧ ({ pod := { ports := [(0, { keyless := true })] } } : State).linkOk 0 0 0 = true ∧
    sPod.boot.phase ≠ .halted := by decide +kernel

theorem test_meets_HeadLosses :
    (({} : State).module 0).failed = false ∧ 0 ∉ (({} : State).module 0).lost ∧
    (({ pod := { modules := [(0, { failed := true })] } } : State).module 0).failed = true ∧
    0 ∈ sPod.liveHeads 0 ∧ sPod.myHead 0 ≠ some 1 ∧
    (({ pod := { modules := [(0, { dir := [(5, { owner := some 1, dirty := true })] })] } } : State).dirAt 0 5).owner = some 1 := by decide +kernel

/-- The same pod, with module 0 of this head; its line 1 is in the L2, dirty; package 1 owns its line 2; at offset 2³² + 192 is a queue
descriptor of two entries of 8 bytes at 2³² + 512. -/
def sHome : State :=
  { sPod with
    l2 := [⟨0, modPpa 0 64 / 64, 0, 4⟩]
    mem := [(modPpa 0 (2 ^ 32 + 192) + 1, 2), (modPpa 0 (2 ^ 32 + 192) + 4, 1), (modPpa 0 (2 ^ 32 + 192) + 8, 1), (modPpa 0 (2 ^ 32 + 192) + 9, 8)]
    pod := { sPod.pod with modules := [(0, { dir := [(2, { owner := some 1 }), (3, { owner := some 5 })] })] } }

/-- Nothing waits at a home; nobody holds some lines. -/
theorem homeFree_of_nil (s : State) (m : Nat) (ls : List Nat) (who : ReqWho) (h : (s.module m).reqs = []) : homeFree s m ls who := by
  intro r hr; rw [h] at hr; cases hr

def isFree (s : State) (m : Nat) (ls : List Nat) : Bool :=
  (s.module m).reqs.isEmpty && ls.all fun l => (s.dirAt m l).owner.isNone && (s.dirAt m l).sharers.isEmpty

theorem unheld_of_isFree (s : State) (m : Nat) (ls : List Nat) (h : isFree s m ls = true) : unheld s m ls := by
  intro l hl
  simp only [isFree, Bool.and_eq_true, List.all_eq_true] at h
  simpa using h.2 l hl

/-- `sHome` with a snoop of line 2 out to package 1, for a read of line 2 by package 5 that waits, or that has its answer. -/
def sSnoop (answered : List (Nat × Nat)) : State :=
  let r : HomeReq := { id := 0, who := .event .homeReadOwn (.home 0 2 5 []), lines := [2], answered := answered }
  { sHome with pod := { sHome.pod with modules := [(0, { dir := [(2, { owner := some 1 })], reqs := [r], nextReq := 1, snoops := [⟨2, 1, .inv⟩] })] } }

theorem test_meets_HomeRequests :
    (acting (.pair 0 1) sHome).arg = .pair 0 1 ∧ (sHome.l2Find (modPpa 0 64 / 64)).map (fun x => x.st) = some 4 ∧ sHome.l2Find (modPpa 0 0 / 64) = none ∧
    sHome.pod.en = true ∧ sHome.myHead 0 = some 0 ∧ ({} : State).pod.en = false ∧
    (sSnoop []).module 0 = { (sSnoop []).module 0 with snoops := [⟨2, 1, .inv⟩] } ∧ snoopOf .bisnpinv = .inv ∧
    (acting (.home 0 0 5 []) sHome).arg = .home 0 0 5 [] ∧ (sHome.dirAt 0 0) = {} ∧ (sHome.dirAt 0 3).owner = some 5 ∧
    (sHome.dirAt 0 2).owner = some 1 ∧ (sHome.module 0).failed = false ∧ (sHome.module 0).reqs = [] ∧ (sHome.module 0).snoops = [] ∧
    (List.replicate 64 (0 : Byte)).length = 64 ∧ (acting (.atomic 0 128 5 3 0 1 0) sHome).arg = .atomic 0 128 5 3 0 1 0 ∧
    isFree sHome 0 [0] = true ∧ isFree sHome 0 [2] = false ∧ isFree sHome 0 (sHome.queueLines 0 (2 ^ 32 + 192)) = true ∧
    queueBad (sHome.queueDesc 0 (2 ^ 32 + 192)) = false ∧ fieldOf (sHome.queueDesc 0 (2 ^ 32 + 192)) 9 1 = 8 ∧
    isFree sHome 0 (sHome.queueLines 0 (2 ^ 32 + 256)) = true ∧ queueBad (sHome.queueDesc 0 (2 ^ 32 + 256)) = true ∧
    (2 : Nat) ^ 32 + 192 + 64 ≤ fieldOf (sHome.queueDesc 0 (2 ^ 32 + 192)) 0 8 + 0 % 2 * 8 ∧
    ((sSnoop [(2, 1)]).module 0).reqs.length = 1 ∧ ((sSnoop [(2, 1)]).dirAt 0 2).owner = some 1 := by decide +kernel

/-- A descriptor of eight bytes for module 0. -/
def relayed : RelayDesc := { kind := 1, src := 3, dst := 0, size := 3, len := 8, target := 2 ^ 32, data := List.replicate 16 1 }

/-- Held by the relay engine of `sHome`; or one entry in the request and the response ring of head 1, whose bytes are all 0; or in the
latter, and the request that it answers. -/
def sRelay (d : RelayDesc) : State := { sHome with pod := { sHome.pod with heldBack := [d] } }
def sRing (off : Nat) (e : List Ext) : State :=
  { sPod with mem := [(modPpa 0 (relayRegion (if off = reqRing then 1 else 0) (if off = reqRing then 0 else 1) + off) + 24, 1)], pod := { sPod.pod with ext := e } }
def answering (k : ExtKind) : Ext := { id := 1, kind := k, host := false, relay := 1 }

theorem test_meets_RelayedRequests :
    ({} : State).pod.en = false ∧ ((sRing reqRing []).relayHead 0 1).map (fun d => (d.malformed, d.seq, (sRing reqRing []).relayInstr d)) = some (true, 0, .relayWrite) ∧
    (sRing reqRing []).relayRoom 0 1 = true ∧
    (acting (.relay relayed) (sRelay relayed)).arg = .relay relayed ∧ relayed ∈ (sRelay relayed).pod.heldBack ∧ relayed ∉ sHome.pod.heldBack ∧
    (sRelay relayed).relayInstr relayed = .relayWrite ∧ relayed.malformed = false ∧ relayed.seq = (sRelay relayed).nextRelay relayed ∧
    ({ relayed with seq := 1 } : RelayDesc).seq ≠ sHome.nextRelay { relayed with seq := 1 } ∧ sHome.myHead 5 = none ∧ sHome.myHead 0 ≠ none ∧
    (sHome.module 0).failed = false ∧ isFree (sRelay relayed) 0 (linesOf relayed.target relayed.len) = true ∧
    isFree (sRelay relayed) 0 ((sRelay relayed).queueLines 0 (2 ^ 32 + 192)) = true ∧ hbmOk 0 = true ∧ hbmOk (2 ^ 32 * 3) = false ∧
    sHome.hartHole 0 = false ∧ sHome.xlat.dirtyEn = false ∧ (sHome.sealsIn 0 64 = false) ∧
    ({} : State).myHead 0 = none ∧ queueBad (sHome.queueDesc 0 (relayRegion 1 0 + respRing)) = false := by decide +kernel

theorem test_meets_RelayedRequests_delivery :
    let s : State := { sPod with pod := { sPod.pod with pkgRoute := [(1, 0x80000000)] } }
    let d : RelayDesc := { relayed with kind := 4, dst := 1 }
    s.pkgRoute 1 = .direct 0 ∧ (∀ p, ({} : State).pkgRoute 1 ≠ .direct p) ∧ s.relayInstr d = .relayDelivery ∧
      (s.sendRelayAs 0 1 0 { id := 0, kind := .forward d, host := false, len := d.len, write := true } d).1.isSome = true :=
  ⟨by decide +kernel, (fun _ h => by cases h), by decide +kernel, by decide +kernel⟩

/-- A reduction header: FP32 sums of one element, from contributors 0 and 1, landing at 2³²; and one from contributor 1 alone. -/
def redHeader (mask : Byte) : List Byte := [0, 0, 0, 2, mask, 0, 1, 0, 0, 0, 0, 0, 1] ++ List.replicate 51 0

theorem test_meets_CollectiveProgress :
    headerBad (redHeader 3) = false ∧ headerBad [] = true ∧ (({} : State).module 0).failed = false ∧ ({} : State).myHead 0 ≠ some 1 ∧
    bitOf (RedSlot.ofHeader 0 (redHeader 3)).mask (identContrib 0) = true ∧
    (RedSlot.ofHeader 0 (redHeader 3)).elems * wireBytesOf (RedSlot.ofHeader 0 (redHeader 3)).wire = 4 ∧
    (RedSlot.ofHeader 0 (redHeader 1)).mask = 2 ^ identContrib 0 ∧ (RedSlot.ofHeader 0 (redHeader 3)).mask ≠ 2 ^ identContrib 0 ∧
    ({} : State).myHead 0 ≠ some (RedSlot.ofHeader 0 (redHeader 1)).owner ∧
    (RedSlot.ofHeader 0 (redHeader 3)).sameParams (RedSlot.ofHeader 0 (redHeader 1)) = false ∧
    ({} : State).collOf 0 = none ∧ ({} : State).pod.spillLog = 0 ∧ (({} : State).module 0).lost = [] := by decide +kernel

/-- A collective whose chunk 0 is awaited everywhere, and one contribution of it is held back. -/
def sColl : State :=
  { pod := { colls := [{ id := 0, op := 0, ctx := 0, number := 0, kind := 0, rop := 0, wire := 0, isPart := false, sealBit := false, attempt := 0,
                         logchunk := 6, root := 0, members := [0, 1], nchunk := 1, list := [0], src := 0, dst := 0, fail := 0, failcap := 0,
                         landbase := 0, busy := [(5, 0, 0)], step1 := [(0, 0)], step2 := [0], toGet := [0] }], spillLog := 3 } }

theorem test_meets_CollectiveProgress_answers :
    ∃ c, sColl.coll 0 = some c ∧ (∃ x ∈ c.busy, x.1 = 5) ∧ 0 ∈ c.toGet ∧ (∀ x ∈ c.ready, x.1 ≠ 0) ∧ (sColl.collOf 0).map (fun c => c.id) = some 0 ∧
      (0, 0) ∈ c.step1 ∧ 0 ∈ c.step2 ∧ 1 ∉ c.toGet ∧ c.keyIs (2 ^ 40) = false ∧ sColl.pod.spillLog ≠ 0 ∧ sColl.pod.spills.length < 2 ^ sColl.pod.spillLog :=
  ⟨_, rfl, by decide +kernel⟩

/-- A load of the warp, parked under tag 9, at the page that `sMap` maps; the entry of that tag, not yet posted; room in the ring. -/
def parkedPart : Part := { addr := 0x80000040, len := 4, state := .parked 9 }
def parkedLoad : AccessBody := { kind := .load, uniform := true, space := 0, bytes := 4, sx := false, policy := 0, dst := 0 }
def parkedOp : Op := { id := 0, owner := .warp 0 0, flag := 0, parts := [parkedPart], body := .access parkedLoad }
def parkedEntry : Pend := { tag := 9, ctx := 0, vpn := 0x80000, code := 0x20, va := 0x80000040, ppa := 0, access := 0, agent := 0, glade := 1, order := 0 }
def sPark : State := { sMap with ops := [parkedOp], xlat := { pend := [parkedEntry], fqEn := true, fqLogcap := 3 } }

theorem test_meets_FaultTable :
    sPark.xlat.pend.find? (fun p => p.tag == ofBytes [9, 0, 0, 0x40] % 1024) = some parkedEntry ∧ ofBytes [9, 0, 0, 0x40] / 2 ^ 30 = 1 ∧
    ofBytes [9, 0, 0, 0] / 2 ^ 30 = 0 ∧ sPark.ops = [parkedOp] ∧ sPark.host.windows = [] ∧ sPark.graph.nodes = [] ∧
    (({ sPark with xlat := {} } : State).translate 0 0x80000040 .read 4 false).1 = .ok (.phys 64) .so false 1 ∧
    (({ sPark with xlat := {} } : State).translate 0 0xC0000040 .read 4 false).1 = .park 0x20 0 ∧
    (sPark.warpAt 0 0).wordTag ≠ some 9 ∧ (sPark.warpAt 0 0).reports = [] ∧ sPark.nextPost = some parkedEntry ∧ sPark.fqRoom = true ∧
    sMap.nextPost = none ∧ sPark.xlat.dirtyEn = false ∧ sMap.op 0 = none ∧ sPark.xlat.pend.length < 1024 := by decide +kernel

theorem test_meets_FaultTable_invalidations :
    (∀ b, ({ xlat := { invBusy := b } } : State).xlat.invBusy = b) ∧ ofBytes [0, 8, 0, 0, 8, 0, 0, 0] / 2 ^ 10 % 4 = 2 ∧
    ({ xlat := { tlb := [⟨0, 0, 0x80000000, 30, 0, false⟩] } } : State).xlat.tlb[0]? = some ⟨0, 0, 0x80000000, 30, 0, false⟩ ∧
    ({ xlat := { invBusy := true } } : State).tlbUsed [] = false := by
  refine ⟨fun _ => rfl, ?_⟩; decide +kernel

/-- A migration command at the head of the queue: the page of `sMap` to plot 1. -/
def mig (op : Nat) : MigCmd := { op := op, ctx := 0, sbid := 0, side := 0, glade := 1, va := 0x80000000, dst := 2 ^ 34, count := 1, completion := 8192 }
def sMig (op : Nat) (st : MigStage := .start) : State := { sMap with xlat := { mig := [{ mig op with stage := st, dest := 2 ^ 34, leafAt := 16 }] } }

def leafOf : Walk → Option (Nat × Nat × Nat) | .leaf a log e => some (a, log, e) | _ => none

theorem test_meets_Migration :
    (sMig 1).xlat.mig = [{ mig 1 with dest := 2 ^ 34, leafAt := 16 }] ∧ (sMig 1).arg = .none ∧ (sMig 1).xlat.dirtyEn = false ∧ (sMig 1).xlat.migEn = false ∧
    (sMig 1).ctxValid 0 = true ∧ (sMig 1).ctxValid 1 = false ∧ leafOf ((sMig 1).walk 0 0x80000000) = some (16, 30, 7) ∧ leafBad 7 30 = false ∧
    leafSv 7 = 0 ∧ leafPark 7 = 0 ∧ (sMig 1).migDest (2 ^ 34) 30 = true ∧ (sMig 1).migDest (2 ^ 35 - 4096) 12 = false ∧
    (sMig 2).sbValid 0 = false ∧ hbmOk (2 ^ 34) = true ∧ (sMig 1 .drain).migDrained { mig 1 with dest := 2 ^ 34, leafAt := 16, stage := .drain } = true ∧
    (sMig 1 .copy).tlbUsed ((sMig 1 .copy).migReads (mig 1)) = false ∧ (sMig 1 .copy).xlat.pend = [] := by decide +kernel

/-- A heat scan: context 0 alone asks for it (flag 2); its root is no table, so it has no leaf. -/
def sHeat : State := { mem := [(0, 1), (7, 0x20), (8, 1), (11, 4)], xlat := { migEn := true } }

theorem sHeat_readB (a : Nat) (h : 64 ≤ a) : sHeat.readB a = 0 := by
  have h0 : (0 : Nat) ≠ a := by omega
  have h1 : (7 : Nat) ≠ a := by omega
  have h2 : (8 : Nat) ≠ a := by omega
  have h3 : (11 : Nat) ≠ a := by omega
  simp [State.readB, sHeat, Map.get, h0, h1, h2, h3]

theorem test_meets_Migration_scan :
    sHeat.xlat.migEn = true ∧ sHeat.xlat.dirtyEn = false ∧ (∀ x, (sHeat.ctxValid x && sHeat.ctxFlag x 2) = true ↔ x = 0) ∧ sHeat.leavesOf 0 = [] := by
  refine ⟨rfl, rfl, fun x => ?_, by decide +kernel⟩
  rcases Nat.eq_zero_or_pos x with rfl | h
  · decide +kernel
  · have hf : sHeat.ctxFlag x 2 = false := by
      rw [State.ctxFlag, sHeat_readB _ (by simp [State.ctxEntry]; omega)]; rfl
    simp [hf]; omega

theorem test_meets_Functions :
    (({} : State).fn 1).en = false ∧ (∀ b, ({ host := { fns := [(1, { en := true, pause := b })] } } : State).fn 1 = { en := true, pause := b }) ∧
    ofBytes [2, 0, 0, 0x80, 1, 0, 0, 0] = 2 + 2 ^ 31 + 2 ^ 32 ∧ bitOf (2 + 2 ^ 31 + 2 ^ 32) 31 = true ∧ bitOf (2 + 2 ^ 31 + 2 ^ 32) 30 = false ∧
    ({} : State).cfgClash 1 (2 + 2 ^ 31 + 2 ^ 32) = false ∧ ({} : State).cfgClash 1 (2 ^ 31 + 257) = true ∧
    (({} : State).fn 64).resetting = false ∧ ({} : State).resetOver 1 = true ∧ ({} : State).groups = [] ∧ ({} : State).graph.nodes = [] ∧
    (0x18, fun (s : State) (v : Nat) => { s with power := { s.power with trip := s.power.trip && !bitOf v 8 } }) ∈ plainRegisters ∧
    (4 : Nat) ∈ [4, 8, 64] ∧ 3 ∉ [4, 8, 64] ∧ ({} : State).postedBefore 0 0 = false ∧
    ({ host := { windows := [{ id := 0, fn := 0, req := 7, off := 0, len := 4, kind := 1 }], nextWin := 1 } } : State).postedBefore 7 1 = true := by
  refine ⟨by decide, fun _ => rfl, by decide +kernel, by decide +kernel, by decide +kernel, by decide +kernel, by decide +kernel, by decide +kernel,
    by decide +kernel, by decide +kernel, by decide +kernel, List.mem_cons_self, ?_⟩
  decide +kernel

/-- Hart 0 at an instruction of 4 bytes that loads x1 from an address, in M; in U with page tables whose root is empty. -/
def hartLoad (va : Nat) : EventArg := .hart 0 0x100 4 va 1 4 0 0 []
def sHart (mode : HartMode) (csr : List (Nat × Nat)) (busy : List EventArg) : State :=
  { arg := .unit 0, host := { harts := [(0, { mode := mode, csr := csr, busy := busy })] } }

theorem test_meets_Functions_harts :
    hartRuns (sHart .m [] [hartLoad (2 ^ 52 + 64)]) 0 0x100 4 (2 ^ 52 + 64) 1 4 0 0 [] [] ∧
    hartRuns (acting (hartLoad (2 ^ 52 + 64)) {}) 0 0x100 4 (2 ^ 52 + 64) 1 4 0 0 [] [] ∧
    (∀ va ∈ [2 ^ 52 + 64, 64, 3 * 2 ^ 52, 6 * 2 ^ 52], (sHart .m [] []).hartXlat ((sHart .m [] []).hart 0) va false = .ok va) ∧
    (let s := sHart .u [(0x180, 9 * 2 ^ 60 + 2 ^ 40)] []
     s.hartXlat (s.hart 0) 0x1000 false = .fault 13 0) ∧
    ({} : State).hartHole 64 = false ∧ ({} : State).hartHole (12000000000 % 2 ^ 39) = true ∧ (2 ^ 52 + 65) % 4 ≠ 0 ∧
    ({} : State).flushing (hartKey 0) = false ∧ hartLegal 4 3 0 = true ∧ hartLegal 3 0 0 = false ∧
    (({ poison := [1] } : State).poisoned 64 4) = true ∧
    (((sHart .m [] [hartLoad (3 * 2 ^ 52)]).ctlWrite 0 0x18 [0, 1, 0, 0]).hart 0).busy = [hartLoad (3 * 2 ^ 52)] := by
  refine ⟨⟨by decide +kernel, by decide +kernel, .inl ⟨rfl, rfl⟩⟩, ⟨by decide +kernel, by decide +kernel, .inr ⟨rfl, ?_⟩⟩, ?_⟩ <;> decide +kernel

/-- Function 0's window lies at the page that `sMap` maps. -/
def sWin : State := { sMap with host := { fns := [(0, { winbase := 0x80000000 })] } }
def winParked : WinAcc := { id := 0, fn := 0, req := 0, off := 0, len := 4, kind := 0, tag := some 9 }

theorem test_meets_HostWindows :
    (windowSize 0 < 2 ^ 40 - 3 + 4) ∧ 64 + 4 ≤ windowSize 0 ∧ (0x80000000 + 64) % 64 + 4 ≤ 64 ∧ (sWin.fn 0).resetting = false ∧ sWin.host.windows = [] ∧
    (sWin.fn 0).winbase = 0x80000000 ∧ sWin.ctxFn (sWin.fn 0).wctx = 0 ∧ (sWin.translate 0 0x80000040 .read 4 false).1 = .ok (.phys 64) .so false 1 ∧
    (sWin.translate 0 0x80000040 .write 4 false).1 = .ok (.phys 64) .so false 1 ∧
    (sWin.translate 0 0x80000040 .atomic 8 true).1 = .ok (.phys 64) .so false 1 ∧ (sWin.translate 0 0x80000040 .read 4 false).2.mayReach 0 64 false = true ∧
    ppaKind 64 = 0 ∧ sWin.l2 = [] ∧ sWin.latent = [] ∧ sWin.pod.sealed = [] ∧ sWin.xlat.dirtyEn = false ∧
    (sWin.translate 0 0x80000040 .read 4 false).2.poisoned 64 4 = false ∧ pcieAtomic 9 8 = true ∧ pcieAtomic 1 4 = false ∧
    ({ host := { fns := [(0, { resetting := true })] } } : State).fn 0 = { resetting := true } ∧
    ({ host := { windows := [winParked] } } : State).host.windows.find? (fun w => w.id == 0) = some winParked := by decide +kernel

/-- Queue context 0, valid, of the physical function and of context 0, whose pages 2 and 3 map to addresses 0 and 4096; its spill ring, of 16
records, is at 16384. The records of two event nodes lie at the end of page 2 and the start of page 3. -/
def sQueue : State :=
  { sMap with mem := [(0, 1), (8, 1), (16, 7), (24, 7), (25, 0x10), (3968, 4), (4017, 2), (4096, 4), (4145, 2), (8192, 1), (8197, 4), (8201, 0x40)]
              host := { qctxBase := 8192, svcEn := true, svcWait := [List.replicate 64 0] } }
def svcBody : SvcBody := { tag := 3, dreg := 4, sreg := 2 }
def svcOp : Op := { id := 7, owner := .warp 0 0, flag := 0, body := .svc svcBody }

theorem test_meets_Submissions :
    sQueue.slotOk 0 0 none = true ∧ (sQueue.fn 0).resetting = false ∧ sQueue.xlat.dirtyEn = false ∧ sQueue.spilled 0 = 0 ∧ (sQueue.intakeOf 0).length < 16 ∧
    sQueue.splog 0 ≠ 0 ∧ sQueue.spilled 0 < 2 ^ sQueue.splog 0 ∧ sQueue.qctxAt 0 + 64 ≤ sQueue.spRing 0 ∧ sQueue.splog 1 = 0 ∧
    (({ sQueue with host := { sQueue.host with intake := List.replicate 16 (0, []) } } : State).intakeOf 0).length = 16 ∧
    sQueue.fnEn 0 = true ∧ ({} : State).fnEn 1 = false ∧ sQueue.slotQ 0 4095 = some 4095 ∧ (262144 < 262144 - 63 + 64) ∧ sQueue.svcRoom = true ∧
    ({} : State).svcRoom = false ∧ sQueue.host.svcWait = [List.replicate 64 0] ∧ fieldOf ([3, 0] ++ List.replicate 62 0) 0 2 = 3 ∧
    fieldOf ([3, 0] ++ List.replicate 62 0) 3 13 = 0 ∧ fieldOf ([3, 0] ++ List.replicate 62 0) 32 32 = 0 ∧ sQueue.boot.phase ≠ .halted ∧
    sQueue.postedBefore 0 0 = false ∧ ({ s0 with ops := [svcOp], host := { tags := [(3, .op 7)] } } : State).ops = [svcOp] := by decide +kernel

/-- Requests outside: a flush, a load's part at a host page, and a relayed delivery. -/
def sOut : State :=
  { s0 with ops := [{ id := 0, owner := .warp 0 0, flag := 0, parts := [{ len := 4, place := .phys (2 ^ 58), state := .sent 1 }], body := .access parkedLoad }]
            pod := { ext := [{ id := 1, kind := .part 0 0, host := true, len := 4, ppa := 2 ^ 58 }] } }
def extOf (k : ExtKind) (host : Bool) : State := { pod := { ext := [{ id := 1, kind := k, host := host }] } }

theorem test_meets_OutsideAnswers :
    sOut.pod.ext = [{ id := 1, kind := .part 0 0, host := true, len := 4, ppa := 2 ^ 58 }] ∧ sOut.extFind 2 true = none ∧
    ((extOf (.flush 0) true).extFind 1 true).map (fun e => (e.kind, e.loop)) = some (.flush 0, none) ∧
    (({ pod := { ext := [{ id := 1, kind := .part 0 0, host := true, loop := some (2, 5, none) }] } } : State).extFind 1 true).map (fun e => e.loop) =
      some (some (2, 5, none)) ∧ ({} : State).responseAt 0 1 = none ∧ (sColl.coll 0).isSome = true := by decide +kernel

/-- A response of 64 bytes of 0 in the ring of head 1 answers the request that `answering` sent. -/
theorem test_meets_OutsideAnswers_relay :
    ∀ k ∈ [ExtKind.forward { kind := 0, src := 0, dst := 0 }, .contribution 0 5], ∃ d u e, responded (sRing respRing [answering k]) u 0 1 d e ∧ e.kind = k := by
  intro k hk
  refine ⟨RelayDesc.parse (List.replicate 64 0) 0 1, _, answering k, ⟨List.replicate 64 0, ?_, rfl, by decide +kernel, rfl, rfl, ?_⟩, rfl⟩
  · revert k; decide +kernel
  · revert k; decide +kernel

/-- A read that its record lets through, and what holds of it, from a test that evaluates. -/
def okAnd {α : Type} (x : Rd α × State) (f : α → State → Bool) : Bool := match x.1 with | .ok a => f a x.2 | _ => false
theorem ok_of {α : Type} (x : Rd α × State) (f : α → State → Bool) (h : okAnd x f = true) : ∃ a u, x = (.ok a, u) ∧ f a u = true := by
  obtain ⟨r, u⟩ := x
  cases r with
  | ok a => exact ⟨a, u, rfl, h⟩
  | _ => cases h

/-- `sQueue` with a record of a kind in its intake, which names the node records. -/
def record (k count : Byte) : List Byte := [k, 0, 0, 0, 0, 0, 0, 0, 0x80, 0x2F, 0, 0, 0, 0, 0, 0, count] ++ List.replicate 47 0
def sRecord (k count : Byte) : State := { sQueue with host := { sQueue.host with intake := [(0, record k count)] } }

theorem test_meets_GraphRecords_head (k : Nat) (h : k = 1 ∨ k = 2 ∨ k = 3) :
    let s : State := { sRecord (BitVec.ofNat 8 k) 2 with arg := .unit 0 }
    firstRecord s 0 k (record (BitVec.ofNat 8 k) 2) := by
  rcases h with rfl | rfl | rfl <;> exact ⟨rfl, by decide +kernel, by decide +kernel, by decide +kernel, by decide +kernel, by decide +kernel, by decide +kernel⟩

theorem test_meets_GraphRecords :
    (∃ x u, (sRecord 1 0).readNode (sourceOf (sRecord 1 0) 0 (record 1 0) false) (fieldOf (record 1 0) 8 8) 0 true = (.ok x, u) ∧
      (x.1.preds == 0 && x.1.succs == [] && x.2 == 0 && !u.graphBad [x.1] && u.roomFor 1 1 (u.newUnits [x.1]) && u.spilled 0 == 0 && decide (u.onChip < 65536)) = true) ∧
    (∃ x u, (sRecord 2 2).readGraph (sourceOf (sRecord 2 2) 0 (record 2 2) false) (fieldOf (record 2 2) 8 8) (fieldOf (record 2 2) 16 4) 0 [] 0 =
      (.ok x, u) ∧ (x.1.length == 2 && x.2 == 0 && !u.graphBad x.1 && u.roomFor 2 (x.1.filter (fun n => n.preds == 0)).length (u.newUnits x.1) && decide (u.onChip < 65535)) = true) ∧
    (sRecord 3 2).counter ((sRecord 3 2).qctxCtx 0) 0 2 = none ∧ subLog (record 3 2) = false ∧ (sRecord 9 2).subReject 0 (record 9 2) = some 4 :=
  ⟨ok_of _ _ (by decide +kernel), ok_of _ _ (by decide +kernel), by decide +kernel, by decide +kernel, by decide +kernel⟩

/-- A launch of one group with one warp, and its node, numbered 5, of glade 1. -/
def launch1 : Launch :=
  { gx := 1, gy := 1, gz := 1, shapeX := 32, shapeY := 1, shapeZ := 1, nc := 0, nm := 0, nv := 1, budc := 0, budm := 0, budv := 16, gang := 1,
    cls := 2, scratch := 256, lanePriv := 0, args := [], novl := 0, handler := 0xFF, ovltab := 0, entryC := 0, entryM := 0, entryV := 0, inits := [] }
def node5 : Node :=
  { id := 5, ctx := 0, fn := 0, glade := 1, qctx := none, recVa := 0, index := 0, nkind := 1, prio := 0, restart := false, launchId := 3, graphId := 0,
    phaseId := 0, jobId := 0, succs := [], reads := [], writes := [], launch := some launch1 }
def count5 (c : Nat) : Counter := { ctx := 0, level := 0, ident := 3, count := c }

/-- `LAUNCH` by a warp of node 5. -/
def launchOp (c f : Bool) : Op :=
  { id := 7, owner := .warp 0 0, flag := 0, body := .launch { va := 0x2F80, dreg := 0 }, cancelled := c, failed := f }
def sLaunch : State :=
  { sRecord 1 0 with groups := [(0, { group0 with node := 5 })], ops := [launchOp false false], graph := { nodes := [node5] }, arg := .unit 7 }

theorem test_meets_GraphRecords_launch :
    sLaunch.op 7 = some (launchOp false false) ∧ (launchOp false false).park = none ∧ sLaunch.coveredBefore 0 0 7 = false ∧
    sLaunch.node (sLaunch.groupAt 0).node = some node5 ∧
    (∃ x u, sLaunch.readNode { ctx := 0, fn := 0, qctx := none, seq := 0, defPrio := 0, logDone := false, parent := some 5, parentLaunch := 3, who := whoOp 7 0 } 0x2F80 0 true = (.ok x, u) ∧
      (!x.1.notChild x.2 && x.1.nkind != 1 && u.roomFor 1 1 0 && decide (u.onChip < 65536) && u.op 7 == some (launchOp false false)
        && u.warps == sLaunch.warps) = true) :=
  ⟨by decide +kernel, rfl, by decide +kernel, by decide +kernel, ok_of _ _ (by decide +kernel)⟩

/-- A group of node 5 whose warps have ended; the node publishes; a node waits for it. -/
def sEnds (c : Nat) (n : Node) : State :=
  { groups := [(1, { group0 with node := 5 })], graph := { nodes := [n], counters := [count5 c] } }
def running5 : Node := { node5 with st := .running, placedOnce := true, groupsLeft := 1 }
def publishing5 : Node := { node5 with st := .publishing, nkind := 4, launch := none }

theorem test_meets_NodeEnds :
    (∀ c, (sEnds c running5).graph.counters = [count5 c]) ∧ (sEnds 1 running5).groupOver 1 = true ∧ ({} : State).groupOver 1 = false ∧
    (sEnds 1 running5).warpsOf 1 = [] ∧ ((sEnds 1 running5).groupAt 1).node = 5 ∧ (sEnds 1 running5).node 5 = some running5 ∧
    (sEnds 1 running5).counter 0 0 3 = some (count5 1) ∧ running5.unplaced = [] ∧ ({ graph := { nodes := [publishing5] } } : State).node 5 = some publishing5 ∧
    ({ graph := { nodes := [publishing5] } } : State).flushing (nodeKey 5) = false ∧ publishing5.nkind ≠ 1 ∧
    ({ publishing5 with succs := [1] } : Node).succs.contains ({ node5 with id := 6, index := 1, preds := 1 } : Node).index = true := by
  refine ⟨fun _ => rfl, ?_⟩; decide +kernel

theorem test_meets_NodeEnds_pubs :
    let n : Node := { publishing5 with writes := [⟨0, 4, 9, true⟩], pubs := [0] }
    ({ graph := { nodes := [n] } } : State).node 5 = some n ∧ n.pubs = 0 :: [] ∧ n.writes[0]? = some ⟨0, 4, 9, true⟩ ∧
      ({ graph := { nodes := [n] } } : State).backWrites 9 0 = false := by decide +kernel

/-- Node 5 as a running node of another kind, over the page of `sMap`. -/
def idleAs (k : Nat) (rest : List Byte) : Node := { node5 with nkind := k, launch := none, st := .running, rest := rest }
def sIdle (k : Nat) (rest : List Byte) : State := { sMap with graph := { nodes := [idleAs k rest] }, arg := .unit 5 }
/-- The parts of a record that name 2³¹ + 64: of an event node, of a transfer. -/
def eventRest (op : Nat) : List Byte := [BitVec.ofNat 8 op, 2, 0, 0, 0, 0, 0, 0, 0x40, 0, 0, 0x80, 0, 0, 0, 0]
def addrRest : List Byte := [0x40, 0, 0, 0x80, 0, 0, 0, 0]

theorem test_meets_NodeEnds_kinds :
    (∀ op, op < 3 → (sIdle 4 (eventRest op)).idleNode 5 4 = some (idleAs 4 (eventRest op)) ∧ (idleAs 4 (eventRest op)).eventOp = op) ∧
    (idleAs 4 (eventRest 0)).eventVa = 0x80000040 ∧ ((sIdle 4 (eventRest 0)).translate 0 0x80000040 .write 8 false).1 = .ok (.phys 64) .so false 1 ∧
    ((sIdle 4 (eventRest 1)).translate 0 0x80000040 .atomic 8 true).1 = .ok (.phys 64) .so false 1 ∧
    (readOf ((sIdle 4 (eventRest 2)).engRead (whoNode 5) 0 0x80000040 8)).length = 8 ∧
    (sIdle 5 []).idleNode 5 5 = some (idleAs 5 []) ∧ freeTag ((sIdle 5 []).host.tags.map (fun t => t.1)) 1024 = some 0 ∧
    (sIdle 2 addrRest).idleNode 5 2 = some (idleAs 2 addrRest) ∧ fieldOf (idleAs 2 addrRest).rest 0 8 = 0x80000040 ∧
    shapeBad (readOf ((sIdle 2 addrRest).engRead (whoNode 5) 0 0x80000040 64)) 1 = false ∧
    (Shape.parse (readOf ((sIdle 2 addrRest).engRead (whoNode 5) 0 0x80000040 64))).kind ≠ 3 := by decide +kernel

/-- A collective node whose record, at 2³¹ + 64, sums FP32 over packages 0 and 1, in one chunk of 256 bytes that lands at 0x40500000. -/
def sCollNode : State :=
  { sIdle 3 addrRest with
    mem := [(0, 1), (8, 1), (16, 7), (70, 8), (72, 3), (88, 1), (146, 0x50), (147, 0x40)], pod := { en := true, order := 2 } }

theorem test_meets_NodeEnds_collective :
    sCollNode.idleNode 5 3 = some (idleAs 3 addrRest) ∧ (readOf (sCollNode.engRead (whoNode 5) 0 0x80000040 128)).length = 128 ∧
    collBad (readOf (sCollNode.engRead (whoNode 5) 0 0x80000040 128)) 0 sCollNode.podSize [] = false ∧ sCollNode.pod.colls.length < 256 ∧
    sCollNode.pod.spills = [] := by decide +kernel

/-- Node 5 in glade 1, which owns plot 0, in a state; and its group 1, saved or on core 0. -/
def sNode (st : NodeSt) (l : Launch := launch1) : State :=
  { plots := [(0, { st := .owned, glade := 1 })]
    graph := { nodes := [{ node5 with st := st, launch := some l, unplaced := if st = .running then [0] else [] }], counters := [count5 0] } }
def sGang (p : Placement) (saving : Bool) (cause : SaveCause) : State :=
  { sNode .running with groups := [(1, { node := 5, glade := 1, place := p, saving := saving, saveCause := cause })]
                        glades := [(1, { saveLog := 1, draining := [0], clearing := some (0, 5, 0) })] }

theorem test_meets_GroupPlacement :
    (sNode .ready).gladePlots 1 = [0] ∧ ({} : State).gladePlots 1 = [] ∧ (sNode .ready).admission { node5 with st := .ready } launch1 = .accept ∧
    ({ sNode .ready with plots := [(0, { st := .leaving, glade := 1 })] } : State).gladePlots 1 = [0] ∧
    ({ sNode .ready with plots := [(0, { st := .leaving, glade := 1 })] } : State).admission { node5 with st := .ready } launch1 = .refuse ∧
    launch1.cls = 2 ∧ launch1.gangs = 1 ∧ launch1.gang = 1 ∧ ((sNode .ready).gladeAt 1).holder = none ∧ (count5 0).is 0 0 3 = true ∧
    (gangCores ((sNode .ready).cores launch1 ((sNode .ready).openGroves 1 launch1 false) false) ((sNode .ready).openGroves 1 launch1 false) 1
      launch1.use).map (fun l => l.length) = some 1 ∧
    ((sGang (.core 0) true .preempt).groupAt 1).saving = true ∧ (sGang (.core 0) true .preempt).savable 1 = true ∧
    (sGang (.core 0) true .preempt).imageFits ((sGang (.core 0) true .preempt).groupAt 1) = true ∧
    ({ sGang (.core 0) true .preempt with glades := [] } : State).imageFits ((sGang (.core 0) true .preempt).groupAt 1) = false ∧
    ((sGang (.core 0) false .preempt).groupAt 1).saving = false ∧ (sGang .saved false .preempt).gangSaved 5 0 = [1] ∧
    ({ sGang .saved false .preempt with glades := [] } : State).mayRestore 5 0 = true ∧
    (({ sGang .saved false .preempt with glades := [] } : State).restoreCores node5 launch1 [1] false).map (fun l => l.length) = some 1 := by decide +kernel

/-- A wait on a counter that starves; a warp that stalls on the quadrant of another group. -/
def waitBody : CntWaitBody := { level := 1, ident := 0, dreg := 0 }
def waitOp : Op := { id := 7, owner := .warp 1 0, flag := 0, body := .cntWait waitBody }
def sStarve : State := { sGang (.core 0) false .none with ops := [waitOp], graph := { (sNode .running).graph with limit := 1 } }

theorem test_meets_GroupPlacement_fair :
    ((sNode .ready).byPrio ((sNode .ready).waitingLaunches 1)).length = 1 ∧ (sNode .ready).holderFree 1 = true ∧
    400 * ({ sNode .ready with now := 80001 } : State).graph.reswait < 80001 - 0 ∧
    ((sGang (.core 0) false .none).gladeAt 1).clearing = some (0, 5, 0) ∧ (sGang (.core 0) false .none).gangsIn 0 = [(5, 0)] ∧
    0 ∈ ((sGang (.core 0) false .none).gladeAt 1).draining ∧ 0 ∈ (sGang (.core 0) false .none).gladePlots 1 ∧
    sStarve.op 7 = some waitOp ∧ sStarve.starving waitOp = some 1 ∧ sStarve.remedyHelps waitOp 1 = false ∧
    ({ sStarve with graph := { nodes := [{ node5 with id := 6, st := .ready }] } } : State).remedyHelps
      { waitOp with body := .cntWait { waitBody with level := 0, ident := 3 } } 1 = true ∧ (sStarve.warpAt 1 0).reports = [] ∧
    (((sGang .saved false .starvation).unitGangs 5 0).flatMap ((sGang .saved false .starvation).gangSaved 5)).filter (fun k => decide (((sGang .saved false .starvation).groupAt k).saveCause = .starvation)) = [1] ∧
    (sNode .running).roomiest node5 launch1 = some 0 ∧ (((sNode .running).gladeAt 1).clearing).isNone = true ∧
    (({ warps := [(64, { stall := .quad })], quads := [(0, { holder := some 9 })] } : State).quadAt 0).holder = some 9 := by decide +kernel

/-- At a slice's end: a launch waits for the room that a group of lower priority has. -/
def sSlice : State :=
  { plots := [(0, { st := .owned, glade := 1 })], glades := [(1, { slice := 1 })]
    groups := (List.range 8).map fun c => (c + 1, { node := 4, glade := 1, place := .core c, scratch := 524288, nwarps := 1 })
    graph := { nodes := [{ node5 with st := .ready, prio := 9, launch := some { launch1 with cls := 1, scratch := 524288 } },
                         { node5 with id := 4, launchId := 4, st := .running, prio := 1, launch := some { launch1 with scratch := 524288 } }] } }

theorem test_meets_GroupPlacement_slice :
    ((sSlice.byPrio (sSlice.waitingLaunches 1)).find? (fun n => (n.launch.map (fun l => sSlice.admission n l)) == some .wait)).map (fun n => n.id) =
      some 5 ∧ (sSlice.gladeAt 1).slice ≠ 0 ∧
    sSlice.victimsFor node5 { launch1 with cls := 1, scratch := 524288 } [0] = some [0] ∧
    sSlice.victimsFor node5 { launch1 with cls := 1, scratch := 524288 } [] = none := by decide +kernel

/-- A glade in a state, with plots 0 and 1; plot 3 is free. -/
def sGlade (x : Glade) (p : PlotSt) : State :=
  { plots := [(0, { st := .owned, glade := 1 }), (1, { st := p, glade := 1, seg := 1 })], glades := [(1, x)], xlat := { ctxtBase := 2 ^ 34 * 7, sbtBase := 2 ^ 34 * 7 },
    host := { qctxBase := 2 ^ 34 * 7 } }

theorem test_meets_GladeManager :
    (∀ st : GladeSt, ((sGlade { st := st } .owned).gladeAt 1).st = st) ∧
    (∀ op : Nat, op < 16 → ofBytes [BitVec.ofNat 8 op, 0, 0, 0, 8, 0, 0, 0] % 16 = op ∧ ofBytes [BitVec.ofNat 8 op, 0, 0, 0, 8, 0, 0, 0] / 2 ^ 32 = 8) ∧
    (List.range 32).filter (bitOf 8) = [3] ∧ ((sGlade {} .owned).plot 3).st = .free ∧ (List.range 32).filter (bitOf 2) = [1] ∧
    (sGlade {} .owned).plotsIn 1 .owned = [0, 1] ∧ 1 ∉ (sGlade {} .owned).heldPlots ∧ 7 ∈ (sGlade {} .owned).heldPlots ∧
    (sGlade {} .owned).groups = [] ∧ ({ copies := [⟨1, 0, 1, 0⟩] } : Glade).underCommit = true ∧ ({ st := .relocate } : Glade).underCommit = false ∧
    (sGlade { st := .evacuate } .leaving).evac 1 = 0 ∧ (sGlade { st := .rehash } .joining).strayLines 1 = [] ∧
    (sGlade {} .joining).plotsIn 1 .joining = [1] ∧ (sGlade {} .leaving).plotsIn 1 .leaving = [1] ∧
    ({ copies := [⟨1, 0, 1, 0⟩] } : Glade).copies.find? (fun c => c.j == 1) = some ⟨1, 0, 1, 0⟩ ∧
    (({ plots := [(1, { st := .firebreak })] } : State).plot 1).st = .firebreak := by
  refine ⟨fun _ => rfl, ?_⟩; decide +kernel

theorem test_meets_GladeManager_moves :
    let s : State := { sGlade { st := .rehash } .owned with l2 := [⟨0, modPpa 0 64 / 64, 0, 1⟩, ⟨1, modPpa 0 64 / 64, 0, 1⟩, ⟨8, modPpa 0 64 / 64, 0, 1⟩] }
    s.strayLines 1 ≠ [] ∧ ({ sGlade { st := .evacuate } .leaving with groups := [(1, { place := .core 8, glade := 1 })] } : State).evac 1 ≠ 0 := by decide +kernel

/-- The warp of `on`, of group 0 on core 0, between clauses: its entries at 0x10 and 0x12, and its block of instruction memory. -/
def ent (pc : CodeAddr) : Entry := { pc := pc, mask := BitVec.allOnes 32 }
def sBetween (w : Warp) (image : List Word := List.replicate 64 0x30000000) : State :=
  { groups := [(0, group0)], warps := [(0, { w with clause := {} })], imem := [⟨0, 0, 0x1000, 0, image⟩], arg := .pair 0 0 }

def headerAt (s : State) (pc : CodeAddr) : Option Header := match s.checkHeader (s.groupAt 0) pc with | .ok h _ => some h | _ => none

theorem test_meets_ClauseIssue :
    ((sBetween warp0).warpAt 0 0).front = [ent 0x10] ∧ ((sBetween warp0).warpAt 0 0).live ≠ 0 ∧ ((sBetween warp0).warpAt 0 0).clause.active = false ∧
    ((sBetween warp0).groupAt 0).place = .core 0 ∧ ((sBetween warp0).groupAt 0).saving = false ∧ ((sBetween warp0).warpAt 0 0).yieldOn = [] ∧
    ((sBetween warp0).warpAt 0 0).reports = [] ∧ ((sBetween warp0).warpAt 0 0).cancelled = false ∧
    (headerAt (sBetween warp0) 0x10).map (fun h => h.wait.toNat) = some 0 ∧
    ((sBetween { warp0 with frontier := [ent 0x10, ent 0x12] }).warpAt 0 0).front = [ent 0x10, ent 0x12] ∧
    (headerAt (sBetween warp0) 0x12).map (fun h => h.wait.toNat) = some 0 ∧
    (sBetween warp0).checkHeader group0 0x4000 = .bad 5 ∧
    ((sBetween { warp0 with cancelled := true }).warpAt 0 0).cancelled = true := by decide +kernel

/-- A header that waits on flag 0; and an address whose block is not there. -/
def waiting0 : State := sBetween { warp0 with f := [(0, 1)], reports := [⟨0, 0, 8, none, 0, 0, false⟩] } (List.replicate 64 0x30010000)

theorem test_meets_ClauseIssue_waits :
    (headerAt waiting0 0x10).map (fun h => h.wait.getLsbD 0) = some true ∧ (waiting0.warpAt 0 0).getF 0 = 1 ∧
    (waiting0.warpAt 0 0).reports = [⟨0, 0, 8, none, 0, 0, false⟩] ∧
    (let s : State := { sMap with groups := [(0, { group0 with slots := [(0, some ⟨0, 0x80001000, 64⟩)] })], warps := [(0, { warp0 with clause := {} })], imem := [] }
     (s.groupAt 0).slot 0 = some ⟨0, 0x80001000, 64⟩ ∧ (s.warpAt 0 0).wordTag = none ∧ (readOf (s.engRead (whoWarp 0) 0 (0x80001000 + 64) 256)).length = 256 ∧
       (s.engRead (whoWarp 0) 0 (0x80001000 + 64) 256).2.groups = s.groups ∧ (s.engRead (whoWarp 0) 0 (0x80001000 + 64) 256).2.imem = []) ∧
    (match (sMap.engRead (whoWarp 0) 0 0xC0000040 256).1 with | .park _ _ _ => true | _ => false) = true ∧ (sMap.engRead (whoWarp 0) 0 0xC0000040 256).2.groups = sMap.groups := by decide +kernel

/-- An access of the warp: one part of four bytes in a place, waiting; and one whose data wait for their register. -/
def accessOf (k : AccessKind) (pl : Place) (st : PartState) : Op :=
  { id := 7, owner := .warp 0 0, flag := 0,
    parts := [{ len := 4, place := pl, state := st, data := [1, 2, 3, 4] }], body := .access { parkedLoad with kind := k, space := if pl = .phys 64 then 0 else 1 } }
def sAccess (k : AccessKind) (pl : Place) (st : PartState) : State := { sMap with ops := [accessOf k pl st], arg := .op 7 0 0 }

theorem test_meets_AccessesPerformed :
    (∀ pl ∈ [Place.scratch 0 4092, .phys 64], ∀ k ∈ [AccessKind.load, .store, .atomic 0],
      (sAccess k pl .waiting).op 7 = some (accessOf k pl .waiting) ∧ (sAccess k pl .waiting).partBehind (accessOf k pl .waiting) 0
        { len := 4, place := pl, data := [1, 2, 3, 4] } = false ∧
      (sAccess k pl .waiting).soBehind (accessOf k pl .waiting) { len := 4, place := pl, data := [1, 2, 3, 4] } = false ∧
      (sAccess k pl .waiting).mayReach ((sAccess k pl .waiting).opCtx (accessOf k pl .waiting)) 64 false = true ∧
      (sAccess k pl .waiting).poisoned 64 4 = false ∧ (sAccess k pl .waiting).latent = []) ∧
    ((sAccess .load (.phys 64) .waiting).groupAt 0).place ≠ .none ∧ ppaKind 64 = 0 ∧
    (0, 0) ∈ (accessOf .load (.phys 64) .performed).toWrite { parkedLoad with kind := .load, space := 0 } := by decide +kernel

/-- Waits with their answers, and the end of TXCAN. -/
def sWaits (b : OpBody) : State := { s0 with ops := [{ id := 7, owner := .warp 0 0, flag := 0, body := b }], arg := .op 7 0 0 }
theorem test_meets_AccessesPerformed_waits :
    (∀ b : OpBody, (sWaits b).ops = [{ id := 7, owner := .warp 0 0, flag := 0, body := b }]) ∧
    (sWaits .nothing).resident { id := 7, owner := .warp 0 0, flag := 0, body := .nothing } = true ∧ ((sWaits .nothing).groupAt 0).place = .core 0 ∧
    (sWaits (.result [(sKey 3, 5), (33, 6)])).resident { id := 7, owner := .warp 0 0, flag := 0, body := .result [(sKey 3, 5), (33, 6)] } = true ∧
    ((sWaits (.txcan ⟨[3]⟩)).ops.any fun x => [3].contains x.id) = false := by
  refine ⟨fun _ => rfl, ?_⟩; decide +kernel

/-- Commands at work. -/
def lane0 (p : Part) (done : Bool) : CpaLane := { lane := 0, dst := 0, src := p, done := done }
def cpaOf (p : Part) (done : Bool) : CpaBody := { chan := 0, seq := 0, bytes := 4, dstSpace := 1, dreg := 0, lanes := [lane0 p done], bar := none }
def doing (b : OpBody) (ps : List Part := []) : Op := { id := 7, owner := .warp 0 0, flag := 0, parts := ps, body := b }
def sDoing (b : OpBody) (ps : List Part := []) : State := { s0 with ops := [doing b ps], arg := .unit 7 }
def mqBody : MqBody := { enq := true, va := 0, bytes := 8, sreg := 0, dreg := 0, data := List.replicate 8 1 }

/-- An enqueue at the queue of `sHome`, whose module is reached directly. -/
def sMq : State :=
  { sHome with ops := [doing (.mq mqBody)], groups := s0.groups, warps := s0.warps, pod := { sHome.pod with modRoute := [(0, 0x80000000)] } }

theorem test_meets_CommandsAtWork :
    (∀ b ps, (sDoing b ps).ops = [doing b ps]) ∧ (∀ b ps, (doing b ps).cancelled = false ∧ (doing b ps).owner = .warp 0 0) ∧
    (∀ st ∈ [PartState.waiting, .performed, .failed], let b := cpaOf { len := 4, place := .scratch 0 64, state := st } false
      (sDoing (.cpa b)).resident (doing (.cpa b)) = true ∧ (sDoing (.cpa b)).cpaHead 0 7 0 = true ∧ b.next.map (fun x => x.1) = some 0) ∧
    (cpaOf {} true).next = none ∧ ((cpaOf {} true).lanes.map (fun l => l.lane)).Nodup ∧
    sMq.mayReach (sMq.opCtx (doing (.mq mqBody))) (modPpa 0 (2 ^ 32 + 192)) true = true ∧ sMq.modRoute 0 = .direct 0 ∧ sMq.linkOk 0 0 0 = true ∧
    (sMq.module 0).failed = false ∧ sMq.poisoned (modPpa 0 (2 ^ 32 + 192)) 64 = false ∧ sMq.relBlocked (doing (.mq mqBody)) = false ∧
    isFree sMq 0 (sMq.queueLines 0 (2 ^ 32 + 192)) = true ∧ isFree sMq 0 (sMq.queueLines 0 (2 ^ 32 + 256)) = true ∧
    (sHome.queueOp 0 (2 ^ 32 + 192) 8 true (List.replicate 8 1)).1 = 0 ∧ (sHome.queueOp 0 (2 ^ 32 + 192) 8 false []).1 = 1 ∧
    (sHome.queueOp 0 (2 ^ 32 + 256) 8 true []).1 = 3 ∧ (sHome.queueOp 0 (2 ^ 32 + 192) 16 true []).1 = 2 := by
  refine ⟨fun _ _ => rfl, fun _ _ => ⟨rfl, rfl⟩, ?_⟩; decide +kernel

/-- Overlay 1, an image of 16 words for slot 1, at the page that `sMap` maps; a wait on the scratchpad; a publication of buffer 0. -/
def sOvl : State :=
  { sMap with groups := [(0, { group0 with ovltab := 0x80000040 })], mem := [(0, 1), (8, 1), (16, 7), (73, 1), (75, 0x80), (256, 0x39), (257, 0x4F), (258, 0x56), (259, 0x4C), (260, 16), (262, 1)],
              ops := [doing (.ovlld { ovl := 1, dreg := 0 })] }
def waitOn : WaitBody := { space := 1, wide := false, cmp := 0, value := 0, timeout := none, dreg := 0, part := { len := 4, place := .scratch 0 64 } }

/-- `sMap` with its page in host memory. -/
def sHostMap : State := { sMap with mem := [(0, 1), (8, 1), (16, 7), (23, 4)] }
def waits (x : EngRead × State) : Bool := match x.1 with | .wait => true | _ => false

theorem test_meets_CommandsAtWork_more :
    ofBytes (readOf (sOvl.engRead (whoOp 7 0) 0 (0x80000040 + 8) 8)) = 0x80000100 ∧ imageHeader (sOvl.readN 256 64) = some (16, 1) ∧
    (readOf (sOvl.engRead (whoOp 7 0) 0 0x80000100 64)).length = 64 ∧
    waits (sHostMap.engRead (whoOp 7 0) 0 (0x80000040 + 8) 8) = true ∧
    imageHeader (sOvl.readN 0 64) = none ∧ waitMet 0 4 0 0 = true ∧ waitMet 0 4 0 1 = false ∧
    (sDoing (.waitmem waitOn)).resident (doing (.waitmem waitOn)) = true ∧
    (sDoing (.pub ⟨0⟩) [{}]).sbValid 0 = false ∧ ({ sDoing (.pub ⟨0⟩) [{}] with mem := [(20, 1)] } : State).sbValid 0 = true ∧
    (sDoing (.pub ⟨0⟩) [{}]).backWrites 0 7 = false ∧ (sDoing (.pub ⟨0⟩) [{}]).relBlocked (doing (.pub ⟨0⟩) [{}]) = false := by decide +kernel

/-- A command at the head of the queue of quadrant 0, which group 0 holds with an active plane. -/
def cmd (b : MxBody) (row : Nat := 0) : MxCmd := { op := 7, gid := 0, wid := 0, body := b, row := row }
def quad0 (q : List MxCmd) : Quad := { holder := some 0, active := { fmt := some 2 }, queue := q }
def sQuad (b : MxBody) (row : Nat := 0) : State := { sDoing .matrix with quads := [(0, quad0 [cmd b row])] }
def wloadDesc : WloadDesc := { saddr := 0, stride := 32, scale := 0, space := 1, fmt := 2 }
def mmsDesc : MmsDesc := { addr := 0, stride := 32, ascale := 0, space := 1, row0 := 0, rows := 1, kmask := 0, afmt := 2, ovw := true }
def adrnDesc : AdrnDesc :=
  { daddr := 0, stride := 128, oscale := 0, bspace := 1, be := false, clr := true, dspace := 1, ofmt := 0, ntiles := 1, tile0 := 0, baddr := 0, gen := none }

theorem test_meets_MatrixAtWork :
    (∀ b ∈ [MxBody.qfuse 1, .qfuse 2, .wload wloadDesc, .wswap, .mms mmsDesc, .adrn adrnDesc, .aclr 1, .mstat 0 0 true 0, .ardl 1 0 [(0, 0)]],
      (sQuad b).mxFind 7 = some (0, cmd b) ∧ (sQuad b).mxReady 0 (cmd b) = true ∧ ((sQuad b).op 7).map (fun o => o.cancelled) = some false ∧
      (sQuad b).dead 0 = none ∧ ((sQuad b).quadAt 0).active.fmt = some 2 ∧ ((sQuad b).quadAt 0).fused = false ∧
      ((sQuad b).groupAt 0).place ≠ .none ∧ (cmd b).body.cls = (cmd b 31).body.cls) ∧
    (sQuad (.wload wloadDesc) 31).mxFind 7 = some (0, cmd (.wload wloadDesc) 31) ∧ (sQuad (.wload wloadDesc) 31).mxReady 0 (cmd (.wload wloadDesc) 31) = true ∧
    (rowRead (cmd (.wload wloadDesc) 31) 992 32).isSome = false ∧
    (rowRead { cmd (.wload wloadDesc) 31 with got := [(992, List.replicate 16 1), (1008, List.replicate 16 2)] } 992 32).map (fun b => b.length) = some 32 ∧
    ((wloadDesc.saddr : Int) + 31 * wloadDesc.stride).toNat = 992 ∧ 0 < mxRowBytes wloadDesc.fmt ∧
    (({ quads := [(0, quad0 [cmd .wswap, { cmd .wswap with op := 8 }])] } : State).mxReady 0 { cmd .wswap with op := 8 } = false) ∧
    (cmd (.mms mmsDesc)).body.cls ≠ .all ∧ ((({} : State).quadAt 0).queue = []) ∧ ((({} : State).quadAt 0).spares.length < 2) := by decide +kernel

/-- A copy of four bytes within the scratchpad; the stages of its end. -/
def shape4 : Shape := { Shape.parse (List.replicate 64 0) with sspace := 1, dspace := 1, count0 := 4, count1 := 1, count2 := 1, daddr := 64 }
def txf (st ending : Nat) (w : List Nat) (g : List (Nat × Option Nat)) : TxfBody :=
  { shape := shape4, va := 0, dreg := 0, gen := g, written := w, stage := st, ending := ending }
def sTxf (b : TxfBody) : State := { sDoing (.txf b) with arg := .op 7 0 0 }

theorem test_meets_TransfersAtWork :
    (∀ st e w g, moving (sTxf (txf st e w g)) (doing (.txf (txf st e w g))) (txf st e w g) 0 0 0 0) ∧
    (txf 0 0 [] []).left = [(0, 4)] ∧ (txf 0 0 [0] []).left = [] ∧ shape4.srcOf 0 = 0 ∧ shape4.dstOf 0 = 64 ∧ shape4.kind = 0 ∧ shape4.stataddr = 0 ∧
    ({ shape4 with sstr1 := -8, count1 := 2 } : Shape).srcOf 4 < 0 ∧ (s0.groupAt 0).scratch = 4096 ∧ (s0.groupAt 0).place = .core 0 ∧
    (let b := txf 2 1 [] []
     ((sTxf b).dropCache 0).statusOk (doing (.txf b)) b = (some true, (sTxf b).dropCache 0) ∧ ((sTxf b).dropCache 0).ops = (sTxf b).ops) ∧
    (let b : TxfBody := { txf 2 1 [] [] with shape := { shape4 with stataddr := 0x80000040 } }
     let s : State := { sMap with plots := [], ops := [doing (.txf b)] }
     (s.statusOk (doing (.txf b)) b).1 = some false ∧ (s.statusOk (doing (.txf b)) b).2.ops = s.ops) ∧
    (sBar.bar (0, 0)).st = 1 ∧ (sBar.bar (0, 0)).gen = 1 ∧ (sBar.bar (0, 0)).pa ≠ 0 ∧
    (let x := ({ sBar with groups := [(0, { group0 with cmem := Map.setMany 0 [] 0 (Bar.bytes ⟨0, 5, 4, false, 1, 1, 1, 0, 0, 1⟩) })] } : State).bar (0, 0)
     x.st = 1 ∧ x.pa = 0 ∧ x.pb - 4 = 0) := by
  refine ⟨fun _ _ _ _ => ⟨rfl, ?_, rfl, rfl, rfl, rfl, rfl, ?_, ?_⟩, ?_⟩
  · rfl
  · exact fun h => by cases h
  · rfl
  · decide +kernel

/-- A warp at a word; an event that waits outside, in a live device and in a dead one; a device with nothing to do. -/
def sIssue (w : Word) : State := { on { warp0 with clause := { warp0.clause with pc := 0x11, words := [w] } } with boot := { phase := .done } }

theorem test_meets_StepRunsDecoded :
    (sIssue 0xCFC00000).candidates = [.word 0 0] ∧ 2 ≤ ({ sIssue 0xCFC00000 with inbox := [(.heatScan, .none)] } : State).candidates.length ∧ (sIssue 0xCFC00000).warp.clause.rest = [0xCFC00000] ∧
    ({ sWaits (.result [(1, 2)]) with boot := { phase := .done }, warps := [(0, { live := 1 })] } : State).candidates = [.event .accessPerformed (.op 7 0 0)] ∧
    ({ boot := { phase := .done }, host := { logs := [(0, [])] } } : State).candidates = [.posts] ∧
    ({ inbox := [(.perstNAssert, .none)], boot := { powered := false } } : State).candidates = [.outer .perstNAssert .none] ∧
    ({ boot := { powered := false } } : State).candidates = [] ∧ ({ boot := { powered := false } } : State).alive = false ∧
    ({} : State).alive = true := by decide +kernel

theorem test_meets_LittleEndian : ∃ k n : Nat, k < n ∧ n = 8 := ⟨7, 8, by decide, rfl⟩

theorem test_meets_ChunkOwners :
    (Coll.parse [0, 0, 3, 0, 0, 0, 8, 5, 0x21] 0 0).kind = 3 ∧ (Coll.parse [0, 0, 0, 0, 0, 0, 8, 0, 3] 0 0).kind ≠ 3 ∧
    (Coll.parse [0, 0, 0, 0, 0, 0, 8, 0, 3] 0 0).members = [0, 1] := by decide +kernel

theorem test_meets_DecodeEncode : isWord (.ld lm0) = true ∧ wellFormed (.ld lm0) = true := by decide

theorem test_meets_EncodeDecode : reads (encode (.ld lm0)) (.ld lm0) = true := by decide

theorem test_meets_StepKeepsCanonical : sMap.canonical ∧ ({ sMap with warps := [], groups := [], boot := { powered := false } } : State).candidates = [] := by
  refine ⟨(by decide : Memory.wf sMap.mem = true), by decide +kernel⟩

/-! ## A few results, worked out by hand from the spec -/

/-- The state after an instruction. -/
def after (i : Instr) (s : State) : State := match exec i s with | .next t => t | _ => s
def lane31 (i : Instr) (vs : List (Nat × Word)) (r : Nat) : Nat := ((after i (on (warp0 [] vs))).warp.getV r 31).toNat

-- 13 Table 13-3: IADD wraps, IADDS clamps; the destination is also a source
theorem test_iadd_wraps : lane31 (.iadd ⟨7, 1, 1, .inl 66⟩) [(63, 0xFFFFFFFF)] 1 = 1 := by decide +kernel
theorem test_iadds_clamps : lane31 (.iadds ⟨7, 1, 1, .inl 66⟩) [(63, 0x7FFFFFFF)] 1 = 0x7FFFFFFF := by decide +kernel
-- Table 13-3: a shift by 32 or more gives 0, or the sign
theorem test_shift_out : lane31 (.shl ⟨7, 1, 1, .lit 32⟩) [(63, 0xFFFFFFFF)] 1 = 0 ∧ lane31 (.shrS ⟨7, 1, 1, .lit 0x100⟩) [(63, 0x80000000)] 1 = 0xFFFFFFFF := by
  decide +kernel
-- a false guard leaves the register: p0 is false in every lane
theorem test_guard_false : lane31 (.mov ⟨0, 1, 0, .lit 5⟩) [(63, 9)] 1 = 9 := by decide +kernel
-- 13 R389: 1.5 + 2.25 = 3.75; 1 / 3 rounds to 0x3EAAAAAB
theorem test_fadd : lane31 (.fadd ⟨7, 1, 1, .lit 0x40100000⟩) [(63, 0x3FC00000)] 1 = 0x40700000 := by decide +kernel
-- 00 R5: the halfword at 2 of the bytes 11 22 33 44
theorem test_scratch_bytes : ofBytes ((on (warp0) { group0 with cmem := Map.setMany 0 [] 0 [0x11, 0x22, 0x33, 0x44] }).localBytes (.scratch 0 2) 2) = 0x4433 := by
  decide +kernel
-- 12 R365: TRAP 5 takes USER_TRAP with TINFO 5, in every lane of the entry
theorem test_trap :
    let w := (after (.trap { ux0 with aux := 5 }) (on warp0 { group0 with handler := 1 })).warp
    w.handler = some ⟨0x0E⟩ ∧ w.tinfo = 5 ∧ w.tmask = 0xFFFFFFFF := by decide +kernel
end

section
/-!
SUPPORT. Values and their bytes (00 R5): which byte of a value `bytesOf` puts at each place, which bits of a value `ofBytes` takes
from each byte, and the byte at each place of a run that is read. `Obligations.LittleEndian` follows.
-/
namespace Sys2Proof.Machine

/-! ## The byte at a place -/

@[simp] theorem length_bytesOf (n v : Nat) : (bytesOf n v).length = n := by
  induction n generalizing v with
  | zero => rfl
  | succ n ih => simp [bytesOf, ih]

/-- Taking one byte off a value moves byte k + 1 to place k. -/
theorem div_256_div_two_pow (v k : Nat) : v / 256 / 2 ^ (8 * k) = v / 2 ^ (8 * (k + 1)) := by
  rw [Nat.div_div_eq_div_mul, Nat.mul_succ, Nat.add_comm, Nat.pow_add]

theorem getElem?_bytesOf (n v k : Nat) (h : k < n) : (bytesOf n v)[k]? = some (BitVec.ofNat 8 (v / 2 ^ (8 * k))) := by
  induction n generalizing v k with
  | zero => omega
  | succ n ih =>
    cases k with
    | zero => simp [bytesOf]
    | succ k => rw [bytesOf, List.getElem?_cons_succ, ih _ k (by omega), div_256_div_two_pow]

/-- Past the end of the list the bits are 0. -/
theorem ofBytes_div_mod (bs : List Byte) (k : Nat) : ofBytes bs / 2 ^ (8 * k) % 256 = (bs[k]?.getD 0).toNat := by
  induction bs generalizing k with
  | nil => simp [ofBytes]
  | cons b t ih =>
    have hb : b.toNat < 256 := b.isLt
    cases k with
    | zero =>
      have low : (b.toNat + 256 * ofBytes t) % 256 = b.toNat := by omega
      simpa [ofBytes] using low
    | succ k =>
      have tail : (b.toNat + 256 * ofBytes t) / 256 = ofBytes t := by omega
      rw [ofBytes, ← div_256_div_two_pow, tail, ih, List.getElem?_cons_succ]

theorem Map.getElem?_getMany {α : Type} (d : α) (m : List (Nat × α)) (a n k : Nat) (h : k < n) :
    (Map.getMany d m a n)[k]? = some (Map.get d m (a + k)) := by
  induction n generalizing a k with
  | zero => omega
  | succ n ih =>
    cases k with
    | zero => simp [Map.getMany]
    | succ k => rw [Map.getMany, List.getElem?_cons_succ, ih _ k (by omega), Nat.add_right_comm, Nat.add_assoc]

/-! ## Values as they are stored and read -/

/-- A value that is read from any of the sparse memories. -/
theorem ofBytes_getMany_div_mod (m : List (Nat × Byte)) (a n k : Nat) (h : k < n) :
    ofBytes (Map.getMany 0 m a n) / 2 ^ (8 * k) % 256 = (Map.get 0 m (a + k)).toNat := by
  rw [ofBytes_div_mod, Map.getElem?_getMany 0 m a n k h, Option.getD_some]

theorem State.readB_poke_bytesOf (s : State) (a n v k : Nat) (h : k < n) :
    (s.poke a (bytesOf n v)).readB (a + k) = BitVec.ofNat 8 (v / 2 ^ (8 * k)) := by
  have inside : a ≤ a + k ∧ a + k < a + (bytesOf n v).length := by rw [length_bytesOf]; omega
  rw [State.readB_poke, if_pos inside, Nat.add_sub_cancel_left, getElem?_bytesOf n v k h, Option.getD_some]

end Sys2Proof.Machine

open Sys2Proof.Machine

/-- Settles O59: byte k of a stored value is cut off by `bytesOf`, and byte k of what is read is put back by `ofBytes`, in the
memory and in a group's scratch alike. -/
theorem littleEndian : Obligations.LittleEndian := by
  unfold Obligations.LittleEndian
  refine ⟨fun s a n v k hk => ?stored, fun s a n k hk => ?read, fun s g off n k hk => ?readScratch⟩
  case stored => rw [State.readB_poke_bytesOf s a n v k hk, BitVec.toNat_ofNat]
  case read => exact ofBytes_getMany_div_mod s.mem a n k hk
  case readScratch => exact ofBytes_getMany_div_mod (s.groupAt g).cmem off n k hk
end

section
/-!
SUPPORT. The members of a collective and the owner of a chunk (03 R76): what the member list of a mask holds and in which order,
and what `Coll.owner` gives for each kind. `Obligations.ChunkOwners` follows.
-/
namespace Sys2Proof.Machine

/-! ## The packages of a mask -/

theorem membersOf_pairwise_lt (mask : Nat) : (membersOf mask).Pairwise (· < ·) :=
  List.pairwise_lt_range.filter _

@[simp] theorem mem_membersOf (mask p : Nat) : p ∈ membersOf mask ↔ p < 128 ∧ bitOf mask p = true := by
  rw [membersOf, List.mem_filter, List.mem_range]

/-! ## The owner of a chunk -/

theorem Coll.owner_of_rooted (c : Coll) (i : Nat) (rooted : c.kind = 3 ∨ c.kind = 4) : c.owner i = c.root := by
  simp [Coll.owner, rooted]

/-- The remainder is a place of the list, so the owner's default of 0 is not used. -/
theorem Coll.getElem?_members_eq_owner (c : Coll) (i : Nat) (h3 : c.kind ≠ 3) (h4 : c.kind ≠ 4) (some_member : c.members ≠ []) :
    c.members[i % c.members.length]? = some (c.owner i) := by
  have inside : i % c.members.length < c.members.length := Nat.mod_lt i (List.length_pos_iff.mpr some_member)
  simp [Coll.owner, h3, h4, List.getElem?_eq_getElem inside]

end Sys2Proof.Machine

open Sys2Proof.Machine

/-- Settles O60: the member list is a range cut down to the mask's bits, which keeps its order, and the two branches of
`Coll.owner` are the two cases of R76. -/
theorem chunkOwners : Obligations.ChunkOwners := by
  unfold Obligations.ChunkOwners
  intro b op ctx c
  refine ⟨?ascending, fun p => ?members, fun i => ⟨?rooted, ?rotating⟩⟩
  case ascending => exact membersOf_pairwise_lt (fieldOf b 8 16)
  case members => exact mem_membersOf (fieldOf b 8 16) p
  case rooted => exact c.owner_of_rooted i
  case rotating => exact c.getElem?_members_eq_owner i
end

section
/-!
SUPPORT. Uniform words that pass their checks, and those that leave the warp's registers as they were (08 R250, R254; 12 R353): what a
true and a false guard make of them, where the warp stands after `State.retire` alone, and the same after a write of the group.
-/
namespace Sys2Proof.Machine

theorem State.checked_guarded_pass (s : State) (r : Req) (q : BitVec 3) (n : Nat) (k : Out) (hr : s.warp.check r = none)
    (hq : s.warp.guard q = true) : s.checked r (s.guarded q n k) = k :=
  (s.checked_pass r _ hr).trans (s.guarded_pass q n k hq)

theorem State.checked_guarded_skip (s : State) (r : Req) (q : BitVec 3) (n : Nat) (k : Out) (hr : s.warp.check r = none)
    (hq : s.warp.guard q = false) : s.checked r (s.guarded q n k) = .next (s.retire n) :=
  (s.checked_pass r _ hr).trans (s.guarded_skip q n k hq)

/-- Closing the clause of a warp that nothing else changes moves its lanes. -/
theorem State.moved_closeClause_self (s : State) (ts : List (CodeAddr × Mask × Bool)) (goes : Nat → Option CodeAddr)
    (ht : ∀ pc l, l < 32 → ts.any (fun t => t.1 == pc && inMask t.2.1 l) = (inMask s.warp.clause.mask l && goes l == some pc)) :
    Moved s (s.closeClause ts) goes := by
  refine s.moved_setWarp s.warp ts goes ⟨rfl, rfl, rfl⟩ rfl rfl rfl ht _ ?_
  unfold State.closeClause
  dsimp only
  split
  case isTrue =>
    obtain ⟨y, hy⟩ := (s.setWarp (s.warp.endClause ts)).warp_yieldNow
    exact ⟨y, by rw [hy, State.warp_setWarp]⟩
  case isFalse => exact ⟨(s.warp.endClause ts).yieldOn, by rw [State.warp_setWarp]⟩

theorem State.retire_of_last (s : State) (n : Nat)
    (last : s.warp.clause.len ≤ (s.warp.clause.pc + BitVec.ofNat 16 n - s.warp.clause.hdr - 1).toNat) :
    s.retire n = s.closeClause [(s.warp.clause.next, s.warp.clause.mask, false)] := by
  unfold State.retire
  exact if_pos last

theorem State.retire_of_more (s : State) (n : Nat)
    (more : (s.warp.clause.pc + BitVec.ofNat 16 n - s.warp.clause.hdr - 1).toNat < s.warp.clause.len) :
    s.retire n = s.setWarp { s.warp with
      clause := { s.warp.clause with pc := s.warp.clause.pc + BitVec.ofNat 16 n }, stall := .none } := by
  unfold State.retire
  exact if_neg (Nat.not_le.mpr more)

theorem State.stepsPast_retire (s : State) (n : Nat) : StepsPast s (s.retire n) n := by
  unfold StepsPast
  dsimp only
  split
  case isTrue more =>
    rw [s.retire_of_more n more, State.warp_setWarp]
    exact ⟨rfl, rfl, rfl, rfl, rfl, rfl, rfl⟩
  case isFalse last =>
    rw [s.retire_of_last n (Nat.not_lt.mp last)]
    exact s.moved_closeClause_self _ _ fun pc l _ => any_next s.warp.clause pc l

/-- A word that does nothing but retire has completed with the registers as they were. -/
theorem State.completed_retire_self (s : State) (n : Nat) : Completed s (s.retire n) n s.warp :=
  ⟨s.onlyWarp_retire n, s.regs_retire n, s.stepsPast_retire n⟩

/-- A word that writes its group and then retires: of the warp nothing changes but its place. -/
theorem State.retire_setGroup (s : State) (g : Group) (n : Nat) :
    let t := (s.setGroup g).retire n
    OnlyWarpAndGroup s t ∧ t.warp.regs = s.warp.regs ∧ StepsPast s t n ∧ t.group = g := by
  obtain ⟨⟨rest, others⟩, regs, steps⟩ := (s.setGroup g).completed_retire_self n
  have groupAt (k : Nat) : ((s.setGroup g).retire n).groupAt k = (s.setGroup g).groupAt k := by rw [rest]; rfl
  have group : ((s.setGroup g).retire n).group = g := by
    rw [State.group, groupAt, show ((s.setGroup g).retire n).curG = (s.setGroup g).curG by rw [rest]]
    exact s.group_setGroup g
  refine ⟨⟨by rw [rest]; rfl, others, fun k hk => ?_⟩, regs, steps, group⟩
  rw [groupAt]
  exact (s.groupAt_putGroup s.curG g k).trans (if_neg hk)

end Sys2Proof.Machine
end

section
/-!
SUPPORT. TRAP and BRKPT (12 R365): where TPC resumes after them, and what the warp is once its handler has been entered (08 R260).
`Obligations.SoftwareTraps` follows.
-/
namespace Sys2Proof.Machine

theorem Clause.afterTrap_eq (c : Clause) : c.afterTrap =
    if (c.pc + 2 - c.hdr - 1).toNat < c.len then c.hdr ++ (c.pc + 2)
    else (c.hdr + 1 + BitVec.ofNat 16 c.len) ++ (c.hdr + 1 + BitVec.ofNat 16 c.len) := by
  unfold Clause.afterTrap
  dsimp only
  by_cases more : (c.pc + 2 - c.hdr - 1).toNat < c.len
  case pos => rw [if_neg (Nat.not_le.mpr more), if_pos more]; rfl
  case neg => rw [if_pos (Nat.not_lt.mp more), if_neg more]; rfl

theorem exec_trap_of_guard (o : UxOps) (s : State) (hq : s.warp.guard o.q = true) :
    exec (.trap o) s = .next (s.softTrap cUserTrap o.aux.toNat) :=
  s.checked_guarded_pass {} o.q o.size _ s.warp.check_nil hq

theorem exec_brkpt_of_guard (o : UxOps) (s : State) (hq : s.warp.guard o.q = true) :
    exec (.brkpt o) s = .next (s.softTrap cBreakpoint 0) :=
  s.checked_guarded_pass {} o.q o.size _ s.warp.check_nil hq

theorem exec_trap_of_not_guard (o : UxOps) (s : State) (hq : s.warp.guard o.q = false) : exec (.trap o) s = .next (s.retire o.size) :=
  s.checked_guarded_skip {} o.q o.size (.next (s.softTrap cUserTrap o.aux.toNat)) s.warp.check_nil hq

theorem exec_brkpt_of_not_guard (o : UxOps) (s : State) (hq : s.warp.guard o.q = false) : exec (.brkpt o) s = .next (s.retire o.size) :=
  s.checked_guarded_skip {} o.q o.size (.next (s.softTrap cBreakpoint 0)) s.warp.check_nil hq

/-- The warp after R260's entry: the trap registers are set, the entry is set aside, and the handler runs as one entry. -/
theorem State.warp_takeTrap_of_handler (s : State) (hdr : CodeAddr) (re : Option CodeAddr) (lanes : Mask) (x : TrapInfo) (tpc : Word)
    (outside : s.warp.handler = none) (named : s.group.handler ≠ 0xFF) :
    (s.takeTrap hdr re lanes x tpc).warp = { s.warp with
      tcause := BitVec.ofNat 32 x.cause, tpc := tpc, tmask := x.mask, taddr := BitVec.ofNat 64 x.addr, tinfo := BitVec.ofNat 32 x.info,
      frontier := dropEntry hdr re lanes s.warp.frontier, hfront := [{ pc := 0xC000, mask := lanes }],
      handler := some ⟨x.cause⟩, clause := {}, stall := .none } := by
  rw [s.takeTrap_enter hdr re lanes x tpc false outside named, State.warp_setWarp]
  rfl

end Sys2Proof.Machine

open Sys2Proof.Machine

/-- Settles O14: with a true guard both words are `State.softTrap`, whose TPC is `Clause.afterTrap`; with a false one they retire. -/
theorem softwareTraps : Obligations.SoftwareTraps := by
  unfold Obligations.SoftwareTraps
  intro o s
  dsimp only
  rw [← Clause.afterTrap_eq s.warp.clause]
  refine ⟨fun taken => ⟨exec_trap_of_guard o s taken, exec_brkpt_of_guard o s taken, fun outside named => ⟨⟨?_, ?_⟩, ?_, ?_⟩⟩,
    fun skipped => ⟨⟨_, exec_trap_of_not_guard o s skipped, s.completed_retire_self o.size⟩,
      _, exec_brkpt_of_not_guard o s skipped, s.completed_retire_self o.size⟩⟩
  · exact s.onlyWarp_takeTrap _ _ _ _ _ _ outside named
  · rw [s.warp_takeTrap_of_handler _ _ _ _ _ outside named, BitVec.zeroExtend_eq_setWidth, ← BitVec.ofNat_toNat]
    rfl
  · exact s.onlyWarp_takeTrap _ _ _ _ _ _ outside named
  · exact s.warp_takeTrap_of_handler _ _ _ _ _ outside named
end

section
/-!
SUPPORT. SWR, SMODE and PART (12 R369 to R371): what SWR does once its checks and its guard let it act, which values FMODE and PART
take, and which bits of FMODE SMODE's mask names. `Obligations.SpecialWrites` follows.
-/
namespace Sys2Proof.Machine

open Sys2Proof.Claims

/-! ## What SWR writes -/

/-- The special register that SWR names. -/
def swrIndex (o : UxOps) : Nat := (o.aux.extractLsb' 0 6).toNat

/-- How many s registers SWR reads: a pair for a 64-bit register. -/
def swrRegs (o : UxOps) : Nat := if wideSreg (swrIndex o) then 2 else 1

/-- What SWR writes. -/
def State.swrData (s : State) (o : UxOps) : Dword :=
  if swrRegs o = 2 then s.warp.getS64 o.a.toNat else (s.warp.getS o.a.toNat).zeroExtend 64

theorem swrIndex_eq (o : UxOps) : swrIndex o = o.aux.toNat % 64 := by
  rw [swrIndex, BitVec.extractLsb'_toNat]; rfl

theorem State.loOf_swrData (s : State) (o : UxOps) (narrow : wideSreg (swrIndex o) = false) :
    loOf (s.swrData o) = s.warp.getS o.a.toNat := by
  have one : swrRegs o = 1 := by rw [swrRegs, narrow]; rfl
  rw [State.swrData, one, if_neg (by decide), loOf]
  ext k hk
  simp only [BitVec.getElem_extractLsb', BitVec.getLsbD_setWidth, BitVec.zeroExtend_eq_setWidth, Nat.zero_add, BitVec.getLsbD_eq_getElem hk]
  simp [show k < 64 by omega]

theorem State.swrData_of_taddr (s : State) (o : UxOps) (h : swrIndex o = 24) :
    s.swrData o = s.warp.getS (o.a.toNat + 1) ++ s.warp.getS o.a.toNat := by
  have two : swrRegs o = 2 := by rw [swrRegs, h]; rfl
  rw [State.swrData, two]; rfl

theorem partOk_iff (x : Nat) : partOk x = true ↔ x = 2 ∨ x = 4 ∨ x = 8 ∨ x = 16 ∨ x = 32 := by
  simp [partOk, or_assoc]

theorem swrOk_of_other {i : Nat} (inHandler : Bool) (not16 : i ≠ 16) (not17 : i ≠ 17) (not18 : i ≠ 18) (not21 : i ≠ 21)
    (not22 : i ≠ 22) (not23 : i ≠ 23) (not24 : i ≠ 24) (not25 : i ≠ 25) : swrOk i inHandler = false := by
  have noMode : ¬ (16 ≤ i ∧ i ≤ 18) := by omega
  have noTrapRegister : ¬ (21 ≤ i ∧ i ≤ 25) := by omega
  rw [swrOk, ← Bool.decide_and, ← Bool.decide_and, decide_eq_false noMode, decide_eq_false noTrapRegister]
  rfl

/-! ## What SWR does -/

/-- What rows 3 to 7 of 11 Table 11-7 ask of SWR. -/
def swrReq (o : UxOps) : Req where
  ss := [(o.a.toNat, swrRegs o)]
  conv := if 16 ≤ swrIndex o && swrIndex o ≤ 18 then .live else .none

/-- The claim's account of the word lists the wide registers and the modes one by one. -/
theorem uniGuard_swr (w : Warp) (o : UxOps) : uniGuard w (.swr o) = some (o.q, o.size, swrReq o) := by
  have wide : wideSreg (swrIndex o) = true ↔ swrIndex o = 24 ∨ swrIndex o = 26 ∨ swrIndex o = 27 := by
    simp [wideSreg, or_assoc]
  have modes : (decide (16 ≤ swrIndex o) && decide (swrIndex o ≤ 18)) = true ↔
      swrIndex o = 16 ∨ swrIndex o = 17 ∨ swrIndex o = 18 := by
    rw [Bool.and_eq_true, decide_eq_true_eq, decide_eq_true_eq]
    omega
  rw [swrReq, swrRegs, ite_congr (propext wide) (fun _ => rfl) fun _ => rfl, ite_congr (propext modes) (fun _ => rfl) fun _ => rfl,
    swrIndex_eq]
  rfl

section
variable (o : UxOps) (s : State) (hp : s.warp.passes (swrReq o)) (hq : s.warp.guard o.q = true)
include hp hq

theorem exec_swr_of_passes :
    exec (.swr o) s =
      if !swrOk (swrIndex o) s.warp.handler.isSome then .next (s.illegal 6)
      else if swrIndex o = 16 && 512 ≤ (loOf (s.swrData o)).toNat then .next (s.illegal 2)
      else if swrIndex o = 17 && !partOk (loOf (s.swrData o)).toNat then .next (s.illegal 2)
      else .next ((s.writeSreg (swrIndex o) (s.swrData o)).retire o.size) := by
  show s.checked (swrReq o) _ = _
  rw [s.checked_pass _ _ (s.warp.check_passes _ hp)]
  refine ite_congr rfl (fun _ => rfl) fun _ => ?_
  rw [s.guarded_pass _ _ _ hq]
  rfl

theorem exec_swr_of_not_ok (refusing : swrOk (swrIndex o) s.warp.handler.isSome = false) : exec (.swr o) s = .next (s.illegal 6) := by
  rw [exec_swr_of_passes o s hp hq, refusing]
  rfl

/-- An index past the two that take only some values: nothing is left to check. -/
theorem exec_swr_of_ok (ok : swrOk (swrIndex o) s.warp.handler.isSome = true) (free : 18 ≤ swrIndex o) :
    exec (.swr o) s = .next ((s.writeSreg (swrIndex o) (s.swrData o)).retire o.size) := by
  have not16 : swrIndex o ≠ 16 := by omega
  have not17 : swrIndex o ≠ 17 := by omega
  simp [exec_swr_of_passes o s hp hq, ok, not16, not17]

/-- R247: a trap register is written inside a handler, and is an index that no register has outside it. -/
theorem exec_swr_trapRegister {i : Nat} (index : swrIndex o = i) (trapRegister : 21 ≤ i ∧ i ≤ 25) (w : Warp)
    (writes : s.writeSreg i (s.swrData o) = s.setWarp w)
    (done : Completed s ((s.setWarp w).retire o.size) o.size w) :
    if s.warp.handler.isSome then ∃ t, exec (.swr o) s = .next t ∧ Completed s t o.size w
    else exec (.swr o) s = .next (s.illegal 6) := by
  subst index
  obtain ⟨low, high⟩ := trapRegister
  split
  case isTrue inside =>
    have ok : swrOk (swrIndex o) s.warp.handler.isSome = true := by simp [swrOk, inside, low, high]
    exact ⟨_, by rw [exec_swr_of_ok o s hp hq ok (by omega), writes], done⟩
  case isFalse outside =>
    refine exec_swr_of_not_ok o s hp hq ?_
    have past : ¬ swrIndex o ≤ 18 := by omega
    simp [swrOk, outside, past]

/-- The same for those of 32 bits: `w` is the warp that a word makes of the issuing one. -/
theorem exec_swr_narrowTrapRegister {i : Nat} (index : swrIndex o = i) (trapRegister : 21 ≤ i ∧ i ≤ 25) (narrow : wideSreg i = false)
    (w : Word → Warp) (writes : ∀ x, s.writeSreg i x = s.setWarp (w (loOf x)))
    (done : ∀ x, Completed s ((s.setWarp (w x)).retire o.size) o.size (w x)) :
    if s.warp.handler.isSome then ∃ t, exec (.swr o) s = .next t ∧ Completed s t o.size (w (s.warp.getS o.a.toNat))
    else exec (.swr o) s = .next (s.illegal 6) := by
  refine exec_swr_trapRegister o s hp hq index trapRegister _ ?_ (done _)
  rw [writes, s.loOf_swrData o (index ▸ narrow)]

theorem exec_swr_fmode (fmode : swrIndex o = 16) :
    exec (.swr o) s = if 512 ≤ (s.warp.getS o.a.toNat).toNat then .next (s.illegal 2)
      else .next ((s.setWarp { s.warp with fmode := (s.warp.getS o.a.toNat).extractLsb' 0 9 }).retire o.size) := by
  have data := s.loOf_swrData o (by rw [fmode]; rfl)
  simp [exec_swr_of_passes o s hp hq, fmode, data, swrOk, State.writeSreg]

theorem exec_swr_part (part : swrIndex o = 17) :
    exec (.swr o) s = if partOk (s.warp.getS o.a.toNat).toNat then
        .next ((s.setWarp { s.warp with part := (s.warp.getS o.a.toNat).toNat }).retire o.size)
      else .next (s.illegal 2) := by
  have data := s.loOf_swrData o (by rw [part]; rfl)
  cases takes : partOk (s.warp.getS o.a.toNat).toNat <;>
    simp [exec_swr_of_passes o s hp hq, part, data, takes, swrOk, State.writeSreg]

/-- R248: a write of GNSTAT clears the bits that it names. -/
theorem exec_swr_gnstat (gnstat : swrIndex o = 18) :
    exec (.swr o) s = .next ((s.setGroup { s.group with
      gnstat := s.group.gnstat &&& ~~~((s.warp.getS o.a.toNat).extractLsb' 0 8) }).retire o.size) := by
  have data := s.loOf_swrData o (by rw [gnstat]; rfl)
  rw [exec_swr_of_ok o s hp hq (by rw [gnstat]; rfl) (by omega), gnstat, ← data]
  rfl

end

/-! ## SMODE and PART -/

theorem Warp.check_live (w : Warp) (converged : w.clause.mask = w.live) : w.check { conv := .live } = none := by
  simp [Warp.check, converged]

theorem exec_smode_of_guard (o : UxOps) (s : State) (converged : s.warp.clause.mask = s.warp.live) (hq : s.warp.guard o.q = true) :
    exec (.smode o) s = if 512 ≤ (s.warp.usrc o.b).toNat then .next (s.illegal 2)
      else .next ((s.setWarp { s.warp with fmode :=
        (s.warp.fmode &&& ~~~(smodeMask o)) ||| ((s.warp.usrc o.b).extractLsb' 0 9 &&& smodeMask o) }).retire o.size) :=
  s.checked_guarded_pass _ o.q o.size _ (s.warp.check_live converged) hq

theorem exec_part_of_guard (o : UxOps) (s : State) (converged : s.warp.clause.mask = s.warp.live) (hq : s.warp.guard o.q = true) :
    exec (.part o) s = if partOk (s.warp.usrc o.b).toNat then
        .next ((s.setWarp { s.warp with part := (s.warp.usrc o.b).toNat }).retire o.size)
      else .next (s.illegal 2) := by
  refine (s.checked_guarded_pass { conv := .live } o.q o.size _ (s.warp.check_live converged) hq).trans ?_
  dsimp only
  cases partOk (s.warp.usrc o.b).toNat <;> rfl

/-- R370: AUX names FMODE bits 0 to 7, MOD [0] bit 8. -/
theorem getLsbD_smodeMask (o : UxOps) (k : Nat) (hk : k < 9) :
    (smodeMask o).getLsbD k = if k = 8 then o.md.getLsbD 0 else o.aux.getLsbD k := by
  have top : (if o.md.getLsbD 0 then 0x100#9 else 0#9).getLsbD k = (o.md.getLsbD 0 && decide (k = 8)) := by
    cases o.md.getLsbD 0
    case false => exact BitVec.getLsbD_zero
    case true =>
      rw [if_pos rfl, show 0x100#9 = BitVec.twoPow 9 8 from rfl, BitVec.getLsbD_twoPow]
      simp [eq_comm]
  rw [smodeMask, BitVec.getLsbD_or, top, BitVec.zeroExtend_eq_setWidth, BitVec.getLsbD_setWidth, decide_eq_true hk, Bool.true_and]
  split
  case isTrue eight => simp [eight]
  case isFalse low => simp [low]

/-- The bits that a mask names come from `b`, the others from `m`. -/
theorem getLsbD_merge {n : Nat} (m b mask : BitVec n) (k : Nat) (hk : k < n) :
    ((m &&& ~~~mask) ||| (b &&& mask)).getLsbD k = if mask.getLsbD k then b.getLsbD k else m.getLsbD k := by
  rw [BitVec.getLsbD_or, BitVec.getLsbD_and, BitVec.getLsbD_and, BitVec.getLsbD_not, decide_eq_true hk]
  cases mask.getLsbD k <;> simp

end Sys2Proof.Machine

open Sys2Proof.Machine Sys2Proof.Claims

/-- R369: SWR, register by register. -/
theorem specialWrites_swr : specialWritesClaim := by
  unfold specialWritesClaim
  intro o q n r s known hp hq
  rw [uniGuard_swr, Option.some.injEq, Prod.mk.injEq, Prod.mk.injEq] at known
  obtain ⟨rfl, rfl, rfl⟩ := known
  dsimp only
  rw [← swrIndex_eq]
  split
  case h_1 fmode =>
    rw [exec_swr_fmode o s hp hq fmode]
    split
    · rfl
    · exact ⟨_, rfl, s.completed_retire _ _ rfl rfl rfl rfl rfl rfl⟩
  case h_2 part =>
    rw [exec_swr_part o s hp hq part]
    simp only [← partOk_iff]
    split
    · exact ⟨_, rfl, s.completed_retire _ _ rfl rfl rfl rfl rfl rfl⟩
    · rfl
  case h_3 gnstat => exact ⟨_, exec_swr_gnstat o s hp hq gnstat, s.retire_setGroup _ o.size⟩
  case h_4 tcause =>
    exact exec_swr_narrowTrapRegister o s hp hq tcause (by decide) rfl (fun x => { s.warp with tcause := x }) (fun _ => rfl)
      fun _ => s.completed_retire _ _ rfl rfl rfl rfl rfl rfl
  case h_5 tpc =>
    exact exec_swr_narrowTrapRegister o s hp hq tpc (by decide) rfl (fun x => { s.warp with tpc := x }) (fun _ => rfl)
      fun _ => s.completed_retire _ _ rfl rfl rfl rfl rfl rfl
  case h_6 tmask =>
    exact exec_swr_narrowTrapRegister o s hp hq tmask (by decide) rfl (fun x => { s.warp with tmask := x }) (fun _ => rfl)
      fun _ => s.completed_retire _ _ rfl rfl rfl rfl rfl rfl
  case h_7 taddr =>
    refine exec_swr_trapRegister o s hp hq taddr (by decide) _ ?_ (s.completed_retire _ _ rfl rfl rfl rfl rfl rfl)
    rw [← s.swrData_of_taddr o taddr]
    rfl
  case h_8 tinfo =>
    exact exec_swr_narrowTrapRegister o s hp hq tinfo (by decide) rfl (fun x => { s.warp with tinfo := x }) (fun _ => rfl)
      fun _ => s.completed_retire _ _ rfl rfl rfl rfl rfl rfl
  case h_9 not16 not17 not18 not21 not22 not23 not24 not25 =>
    exact exec_swr_of_not_ok o s hp hq (swrOk_of_other _ not16 not17 not18 not21 not22 not23 not24 not25)

/-- R370, R371: SMODE and PART, by the one value that each checks. -/
theorem specialWrites_modes : modeWordsClaim := by
  unfold modeWordsClaim
  intro o s converged hq
  dsimp only
  rw [exec_smode_of_guard o s converged hq, exec_part_of_guard o s converged hq]
  simp only [← partOk_iff]
  constructor
  · split
    · rfl
    · refine ⟨_, _, rfl, s.completed_retire _ _ rfl rfl rfl rfl rfl rfl, fun k hk => ?_⟩
      rw [getLsbD_merge _ _ _ k hk, getLsbD_smodeMask o k hk, BitVec.getLsbD_extractLsb', Nat.zero_add, decide_eq_true hk, Bool.true_and]
  · split
    · exact ⟨_, rfl, s.completed_retire _ _ rfl rfl rfl rfl rfl rfl⟩
    · rfl

/-- Settles O17: SWR by the register that it names, SMODE and PART by the value that they take. -/
theorem specialWrites : Obligations.SpecialWrites := by
  unfold Obligations.SpecialWrites
  exact ⟨specialWrites_swr, specialWrites_modes⟩
end
